-- ==== Sys2Proof/Word.lean ====
section
/-! DEFINITION. The word types of the A7200 and their plainest arithmetic. -/

namespace Sys2Proof

/-- A byte of memory, scratchpad or OB. -/
abbrev Byte := BitVec 8
/-- A 32-bit lane register value (R48), and an instruction word (R302). -/
abbrev Word := BitVec 32
/-- A 64-bit uniform or mask register value (R51). -/
abbrev DWord := BitVec 64

/-- The launched group width of the A7200 (R3). -/
abbrev laneCount : Nat := 64

/-- A 64-bit word with every bit set. -/
abbrev allLanes : DWord := BitVec.allOnes 64

end Sys2Proof
end

