-- ==== Sys2Proof/Syntax.lean ====
section
/-! DEFINITION. The whole syntax of spec/opcode_table.json: the operand forms of Chaeb words (R303 to R318) and the
messages, records and requests that the event rows carry; then `Instr`, one constructor per row of the table. -/

namespace Sys2Proof

/-! ### Operand fields -/

/-- A source field (R303 for lanes, R316 for uniform words): a register, or a channel that is popped or peeked. -/
inductive Src where
  | reg (n : Nat)
  | ch (pop : Bool) (k : Nat)
  deriving DecidableEq, Repr

/-- A destination field (R304, R316): a register, or a push to a channel. -/
inductive Dst where
  | reg (n : Nat)
  | push (k : Nat)
  deriving DecidableEq, Repr

/-- The fields of a PFX word (R312). -/
structure Pfx where
  mask : Nat
  z : Bool
  neg : Bool
  rnd : Nat
  vc : Src
  space : Nat
  scope : Nat
  order : Nat
  sat : Bool
  deriving DecidableEq, Repr

/-! ### Messages of the fabric (R153 to R157) -/

/-- An LS message body (R153): flow 0 so, 1 rc, 2 win, 3 mon, 4 rsp. -/
structure LsMsg where
  flow : Nat
  op : Nat
  src : Nat
  dst : Nat
  width : Nat
  scope : Nat
  order : Nat
  cgen : Nat
  ctx : Nat
  tag : Nat
  seq : Nat
  addr : Nat
  data : BitVec 128
  data2 : BitVec 128
  deriving DecidableEq, Repr

/-- A bulk segment (R154): its header and the bytes its data flits carry; `bad` marks a segment of
poisoned data (R78); `mask` is 0, or which half bytes of at most 16 bytes a segment moves (logs 29, 90). -/
structure SegMsg where
  src : Nat
  dst : Nat
  ctx : Nat
  cgen : Nat
  red : Nat
  c4 : Bool
  slot : Bool
  fmt : Nat
  via : Nat
  slotno : Nat
  reply : Bool
  direct : Bool
  opnum : Nat
  segnum : Nat
  dest : Nat
  nbytes : Nat
  srcrank : Nat
  xlo : Nat
  xhi : Nat
  data : List Byte
  bad : Bool
  mask : Nat
  deriving DecidableEq, Repr

/-- A bulk read request (R154), with the path policy of its record for the answer (R449, log 91). -/
structure ReadReqMsg where
  src : Nat
  dst : Nat
  ctx : Nat
  cgen : Nat
  fmt : Nat
  opnum : Nat
  base : Nat
  d0 : Nat
  d1 : Nat
  d2 : Nat
  vr : Nat
  vc : Nat
  s1 : Nat
  s2 : Nat
  direct : Bool
  deriving DecidableEq, Repr

/-- A flush marker (`typ` 0) or an end marker (`typ` 1) (R155). -/
structure MarkerMsg where
  src : Nat
  dst : Nat
  ctx : Nat
  cgen : Nat
  typ : Nat
  via : Nat
  core : Nat
  gslot : Nat
  number : Nat
  paths : Nat
  status : Nat
  flag : Nat
  deriving DecidableEq, Repr

/-- An event record of the Ductus (R201): `body` holds bytes 16 to 63. -/
structure EvRec where
  typ : Nat
  origin : Nat
  seq : Nat
  round : Nat
  body : List Byte
  deriving DecidableEq, Repr

/-- An ack record (R157, R206): the contributions of a round a member holds, and their hash. -/
structure AckRec where
  round : Nat
  attempt : Nat
  named : List Nat
  hash : BitVec 256
  deriving DecidableEq, Repr

/-- A control-share message (R157): `wanted` is the bitmap of a fetch request, `offset` and `chunk` the piece of a
snapshot image. -/
structure CtlMsg where
  typ : Nat
  observer : Bool
  src : Nat
  origin : Nat
  round : Nat
  digest : BitVec 256
  events : List EvRec
  acks : List AckRec
  wanted : List Nat
  offset : Nat
  chunk : List Byte
  deriving DecidableEq, Repr

/-- Any message a port sends (R153, by KIND). -/
inductive Msg where
  | ls (m : LsMsg)
  | seg (m : SegMsg)
  | marker (m : MarkerMsg)
  | ctl (m : CtlMsg)
  | readReq (m : ReadReqMsg)
  deriving DecidableEq, Repr

/-- A flit on the wire (R153): 64 payload bytes and the CRC. -/
structure Flit where
  payload : List Byte
  crc : Word
  deriving DecidableEq, Repr

/-! ### Requests of the control complex and the world outside -/

/-- One 8-byte entry that ctl2 writes into a page table at its home slice (R44, R42, R21). -/
structure PteWrite where
  pa : Nat
  val : DWord
  deriving DecidableEq, Repr

/-- The form of a TLB invalidation (R46). -/
inductive InvForm where
  | page (va : Nat)
  | context
  | die
  deriving DecidableEq, Repr

/-- A page-table change that the operating system asks ctl2 for (R44). -/
structure PteChange where
  ctx : Nat
  entry : PteWrite
  form : InvForm
  deriving DecidableEq, Repr

/-- What ctl1 and ctl2 obtain when they prepare a rank (R21, R232): the 64 bytes of the grid descriptor, the code
segment and the constant-bank image as read on the origin chip, the physical pages of the fresh export window, the
page-table entries that map them, and whether every read and copy succeeded. -/
structure RankImage where
  ok : Bool
  desc : List Byte
  code : List Byte
  bank : List Byte
  winBase : Nat
  tables : List PteWrite
  deriving DecidableEq, Repr

/-- A request to create a region handle (R34); `tables` are the page-table entries written to fault its pages in. -/
structure HandleReq where
  ctx : Nat
  index : Nat
  base : Nat
  length : Nat
  rd : Bool
  wr : Bool
  tables : List PteWrite
  deriving DecidableEq, Repr

/-- What schedule firmware asks ctl4 for (R224): a SLOT event, or a SLOTREL event when `release` is set. -/
structure SlotReq where
  release : Bool
  ctx : Nat
  grid : Nat
  module : Nat
  dest : Nat
  srcBase : Nat
  fmt : Nat
  op : Nat
  srcMask : Nat
  result : Nat
  slotno : Nat
  deriving DecidableEq, Repr

/-- What a host core does to its own module's memory (R139, R140). -/
inductive HostOp where
  | load
  | store
  | amoAdd
  | amoSwap
  | amoAnd
  | amoOr
  | amoXor
  | amoMin
  | amoMax
  | amoMinu
  | amoMaxu
  | fence
  | lr
  | sc
  deriving DecidableEq, Repr

/-- One access of a host core, with its physical address, size in bytes and data, and the .aq and .rl of an AMO, an LR or an SC (R140). -/
structure HostAcc where
  op : HostOp
  core : Nat
  pa : Nat
  size : Nat
  data : DWord
  aq : Bool
  rl : Bool
  deriving DecidableEq, Repr

/-- The causes of a fatal error (R247). -/
inductive FatalCause where
  | watchdog (core : Nat)
  | firmware
  | mailbox
  | thermal (site : Nat)
  | dump
  deriving DecidableEq, Repr

/-- A bit error in a protected array (R79): a single-bit error that is corrected, or the place of an uncorrectable
one; `bank` is the copy of a grid's constant bank in HBM (R25). -/
inductive SoftErr where
  | corrected (site : Nat)
  | laneReg (group lane r : Nat)
  | uniformReg (group r : Nat)
  | maskReg (group r : Nat)
  | accumulator (group : Nat)
  | array (group : Nat)
  | obRead (group : Nat)
  | scratchpad (block off : Nat)
  | operandBuffer (block handle off : Nat)
  | l1 (core pa : Nat)
  | memory (pa : Nat)
  | bank (grid off : Nat)
  | tlb (core ctx va : Nat)
  | timetable
  | firmware
  deriving DecidableEq, Repr

/-- One boot image in flash (R249): its two copies and their signatures. -/
structure BootImage where
  copyA : List Byte
  sigA : List Byte
  copyB : List Byte
  sigB : List Byte
  deriving DecidableEq, Repr

/-- What a power-on finds (R249, R251): the four images in the order of verification, the ports that train, the
positions occupied by modules, and the formation set written by the management controller; with this module's own
position, and the submission queues that the operating system registers, each with its descriptor's address (log 48). -/
structure BootInput where
  position : Nat
  queues : List (Nat × Nat)
  images : List BootImage
  lit : List Nat
  occupied : List Nat
  formation : List Nat
  deriving DecidableEq, Repr

/-! ### The instructions -/

/-- One constructor per row of spec/opcode_table.json, in the table's order. The lane words come first, then the
fused sequence, the uniform words, and the event rows, which have no encoding. -/
inductive Instr where
  /-- PFX (R312): Prefix word that carries guard, rounding, third source, space, scope, order and saturate fields for the lane word that follows it. -/
  | pfx (p : Pfx)
  /-- IADD (R340): Lane integer add, wrapping or signed-saturating. -/
  | iadd (d : Dst) (a b : Src)
  /-- ISUB (R340): Lane integer subtract. -/
  | isub (d : Dst) (a b : Src)
  /-- IMUL (R340): Lane integer multiply, low 32 bits. -/
  | imul (d : Dst) (a b : Src)
  /-- IMULH (R340): Lane signed multiply, high 32 bits. -/
  | imulh (d : Dst) (a b : Src)
  /-- IMULHN (R340): Lane unsigned multiply, high 32 bits. -/
  | imulhn (d : Dst) (a b : Src)
  /-- IMAC (R340): Lane integer multiply-accumulate with a third source. -/
  | imac (d : Dst) (a b : Src)
  /-- IMIN (R340): Lane signed minimum. -/
  | imin (d : Dst) (a b : Src)
  /-- IMAX (R340): Lane signed maximum. -/
  | imax (d : Dst) (a b : Src)
  /-- NMIN (R340): Lane unsigned minimum. -/
  | nmin (d : Dst) (a b : Src)
  /-- NMAX (R340): Lane unsigned maximum. -/
  | nmax (d : Dst) (a b : Src)
  /-- AND (R340): Lane bitwise AND. -/
  | and (d : Dst) (a b : Src)
  /-- OR (R340): Lane bitwise OR. -/
  | or (d : Dst) (a b : Src)
  /-- XOR (R340): Lane bitwise XOR. -/
  | xor (d : Dst) (a b : Src)
  /-- ANDN (R340): Lane a AND NOT b. -/
  | andn (d : Dst) (a b : Src)
  /-- SHL (R340): Lane shift left by register count. -/
  | shl (d : Dst) (a b : Src)
  /-- SHR (R340): Lane logical shift right by register count. -/
  | shr (d : Dst) (a b : Src)
  /-- SAR (R340): Lane arithmetic shift right by register count. -/
  | sar (d : Dst) (a b : Src)
  /-- ROL (R340): Lane rotate left. -/
  | rol (d : Dst) (a b : Src)
  /-- POPC (R340): Lane population count. -/
  | popc (d : Dst) (a : Src)
  /-- CLZ (R340): Lane count leading zeros. -/
  | clz (d : Dst) (a : Src)
  /-- BREV (R340): Lane bit reverse. -/
  | brev (d : Dst) (a : Src)
  /-- BFX (R341): Lane bit-field extract controlled by a control word. -/
  | bfx (d : Dst) (a b : Src)
  /-- BFI (R341): Lane bit-field insert into a third source. -/
  | bfi (d : Dst) (a b : Src)
  /-- ABSD (R340): Lane absolute difference. -/
  | absd (d : Dst) (a b : Src)
  /-- SEL (R340): Lane select a or b by a third source. -/
  | sel (d : Dst) (a b : Src)
  /-- MOV (R340): Lane register move. -/
  | mov (d : Dst) (a : Src)
  /-- IADDI (R342): Lane add of a sign-extended immediate. -/
  | iaddi (d : Dst) (a : Src) (imm : BitVec 8)
  /-- ANDI (R342): Lane AND with a zero-extended immediate. -/
  | andi (d : Dst) (a : Src) (imm : BitVec 8)
  /-- ORI (R342): Lane OR with a zero-extended immediate. -/
  | ori (d : Dst) (a : Src) (imm : BitVec 8)
  /-- XORI (R342): Lane XOR with a zero-extended immediate. -/
  | xori (d : Dst) (a : Src) (imm : BitVec 8)
  /-- SHLI (R342): Lane shift left by an immediate count. -/
  | shli (d : Dst) (a : Src) (n : Nat)
  /-- SHRI (R342): Lane logical shift right by an immediate count. -/
  | shri (d : Dst) (a : Src) (n : Nat)
  /-- SARI (R342): Lane arithmetic shift right by an immediate count. -/
  | sari (d : Dst) (a : Src) (n : Nat)
  /-- IMULI (R342): Lane multiply by a sign-extended immediate. -/
  | imuli (d : Dst) (a : Src) (imm : BitVec 8)
  /-- MOVI (R342): Lane load of a sign-extended 16-bit immediate. -/
  | movi (d : Dst) (imm : BitVec 16)
  /-- MOVHI (R342): Lane load of an immediate into the upper 16 bits, keeping the lower bits. -/
  | movhi (d : Dst) (imm : BitVec 16)
  /-- ICMP (R343): Signed compare writing one mask bit per active lane. -/
  | icmp (md cond : Nat) (a b : Src)
  /-- NCMP (R343): Unsigned compare writing one mask bit per active lane. -/
  | ncmp (md cond : Nat) (a b : Src)
  /-- FCMP (R343): f32 compare writing one mask bit per active lane. -/
  | fcmp (md cond : Nat) (a b : Src)
  /-- FADD (R344): f32 add rounded once. -/
  | fadd (d : Dst) (a b : Src)
  /-- FSUB (R344): f32 subtract rounded once. -/
  | fsub (d : Dst) (a b : Src)
  /-- FMUL (R344): f32 multiply rounded once. -/
  | fmul (d : Dst) (a b : Src)
  /-- FFMA (R344): f32 fused multiply-add with one rounding. -/
  | ffma (d : Dst) (a b : Src)
  /-- FMIN (R345): f32 minimum returning an operand bit for bit. -/
  | fmin (d : Dst) (a b : Src)
  /-- FMAX (R345): f32 maximum returning an operand bit for bit. -/
  | fmax (d : Dst) (a b : Src)
  /-- FABS (R346): f32 absolute value by clearing the sign bit. -/
  | fabs (d : Dst) (a : Src)
  /-- FNEG (R346): f32 negation by inverting the sign bit. -/
  | fneg (d : Dst) (a : Src)
  /-- FCLASS (R347): Writes a one-hot class word for an f32 value. -/
  | fclass (d : Dst) (a : Src)
  /-- HADD2 (R348): Packed f16 add of two elements. -/
  | hadd2 (d : Dst) (a b : Src)
  /-- HMUL2 (R348): Packed f16 multiply of two elements. -/
  | hmul2 (d : Dst) (a b : Src)
  /-- HFMA2 (R348): Packed f16 fused multiply-add. -/
  | hfma2 (d : Dst) (a b : Src)
  /-- BADD2 (R348): Packed bf16 add of two elements. -/
  | badd2 (d : Dst) (a b : Src)
  /-- BMUL2 (R348): Packed bf16 multiply of two elements. -/
  | bmul2 (d : Dst) (a b : Src)
  /-- BFMA2 (R348): Packed bf16 fused multiply-add. -/
  | bfma2 (d : Dst) (a b : Src)
  /-- CVT (R349): Converts one value between the formats named by an 8-bit selector. -/
  | cvt (d : Dst) (a : Src) (dstFmt srcFmt : Nat)
  /-- CVTPK (R350): Converts a register group and packs the results into one register. -/
  | cvtpk (d : Dst) (a : Src) (dstFmt srcFmt : Nat)
  /-- CVTN (R351): Converts four f32 values to a narrow format sharing one E8M0 block scale. -/
  | cvtn (d : Dst) (a : Src) (dstFmt srcFmt : Nat)
  /-- EXP2 (R352): SFU base-2 exponential of an f32 value. -/
  | exp2 (d : Dst) (a : Src)
  /-- LOG2 (R352): SFU base-2 logarithm of an f32 value. -/
  | log2 (d : Dst) (a : Src)
  /-- RCP (R352): SFU correctly rounded reciprocal. -/
  | rcp (d : Dst) (a : Src)
  /-- RSQ (R352): SFU reciprocal square root. -/
  | rsq (d : Dst) (a : Src)
  /-- SQRT (R352): SFU correctly rounded square root. -/
  | sqrt (d : Dst) (a : Src)
  /-- SIN (R352): SFU sine. -/
  | sin (d : Dst) (a : Src)
  /-- COS (R352): SFU cosine. -/
  | cos (d : Dst) (a : Src)
  /-- TANH (R352): SFU hyperbolic tangent. -/
  | tanh (d : Dst) (a : Src)
  /-- SHFLX (R354): Shuffle reading the lane l xor b. -/
  | shflx (d : Dst) (a b : Src)
  /-- SHFLU (R354): Shuffle reading the lane l minus b. -/
  | shflu (d : Dst) (a b : Src)
  /-- SHFLD (R354): Shuffle reading the lane l plus b. -/
  | shfld (d : Dst) (a b : Src)
  /-- SHFLI (R354): Shuffle broadcasting one immediate-indexed lane. -/
  | shfli (d : Dst) (a : Src) (lane : Nat)
  /-- SHFLW (R354): Shuffle exchanging with lane l xor (WIDTH >> imm). -/
  | shflw (d : Dst) (a : Src) (k : Nat)
  /-- VOTEB (R355): Ballot over the active lanes, writing one 32-bit word of it. -/
  | voteb (d : Dst) (a b : Src)
  /-- LRED (R356): Segmented cross-lane reduction by a fixed tree. -/
  | lred (d : Dst) (a : Src) (seg op : Nat)
  /-- SCAN (R357): Segmented inclusive or exclusive prefix operation in lane order. -/
  | scan (d : Dst) (a : Src) (head : Nat) (ex : Bool) (op : Nat)
  /-- LSR_LANEID (R358): Lane status read of the lane number. -/
  | lsrLaneid (d : Dst)
  /-- LSR_LPC (R358): Lane status read of another lane's PC. -/
  | lsrLpc (d : Dst) (a : Src)
  /-- LSR_SLICE (R358): Lane status read of the lane's slice number. -/
  | lsrSlice (d : Dst)
  /-- LSR_LIVE (R358): Lane status read of one word of the live mask. -/
  | lsrLive (d : Dst) (a : Src)
  /-- OBLD (R375): Writes lane registers into an operand-buffer reservation. -/
  | obld (s : Src) (a : Src) (w h : Nat)
  /-- OBST (R375): Reads an operand-buffer reservation into lane registers. -/
  | obst (d : Dst) (a : Src) (w h : Nat)
  /-- LDL (R366): Lane load from local virtual memory. -/
  | ldl (d : Dst) (a : Src) (w imm : Nat)
  /-- STL (R366): Lane store to local virtual memory. -/
  | stl (s : Src) (a : Src) (w imm : Nat)
  /-- LDG (R366): Lane load from grid-global memory. -/
  | ldg (d : Dst) (a : Src) (w imm : Nat)
  /-- STG (R366): Lane store to grid-global memory. -/
  | stg (s : Src) (a : Src) (w imm : Nat)
  /-- LDS (R366): Lane load from the block's scratchpad. -/
  | lds (d : Dst) (a : Src) (w imm : Nat)
  /-- STS (R366): Lane store to the block's scratchpad. -/
  | sts (s : Src) (a : Src) (w imm : Nat)
  /-- LDW (R366): Lane load through the gang window. -/
  | ldw (d : Dst) (a : Src) (w imm : Nat)
  /-- STW (R366): Lane store through the gang window. -/
  | stw (s : Src) (a : Src) (w imm : Nat)
  /-- LDP (R366): Lane load from the lane's private area. -/
  | ldp (d : Dst) (a : Src) (w imm : Nat)
  /-- STP (R366): Lane store to the lane's private area. -/
  | stp (s : Src) (a : Src) (w imm : Nat)
  /-- LDC (R366): Lane load from the constant bank. -/
  | ldc (d : Dst) (a : Src) (w imm : Nat)
  /-- LDA (R368): Lane load with an acquire side at the named scope. -/
  | lda (d : Dst) (a : Src) (w space scope : Nat)
  /-- STR (R368): Lane store with a release side at the named scope. -/
  | str (s : Src) (a : Src) (w space scope : Nat)
  /-- AADD (R370): Lane atomic add returning the old value. -/
  | aadd (d : Dst) (a b : Src)
  /-- AINCW (R370): Lane atomic wrapping increment against a bound. -/
  | aincw (d : Dst) (a b : Src)
  /-- ADECW (R370): Lane atomic wrapping decrement against a bound. -/
  | adecw (d : Dst) (a b : Src)
  /-- ABADD (R370): Lane atomic add that writes only when the sum stays within a limit. -/
  | abadd (d : Dst) (a b : Src)
  /-- AMIN (R370): Lane atomic signed minimum. -/
  | amin (d : Dst) (a b : Src)
  /-- AMAX (R370): Lane atomic signed maximum. -/
  | amax (d : Dst) (a b : Src)
  /-- ANMIN (R370): Lane atomic unsigned minimum. -/
  | anmin (d : Dst) (a b : Src)
  /-- ANMAX (R370): Lane atomic unsigned maximum. -/
  | anmax (d : Dst) (a b : Src)
  /-- AAND (R370): Lane atomic bitwise AND. -/
  | aand (d : Dst) (a b : Src)
  /-- AOR (R370): Lane atomic bitwise OR. -/
  | aor (d : Dst) (a b : Src)
  /-- AXOR (R370): Lane atomic bitwise XOR. -/
  | axor (d : Dst) (a b : Src)
  /-- AXCHG (R370): Lane atomic exchange. -/
  | axchg (d : Dst) (a b : Src)
  /-- ACAS (R370): Lane atomic compare-and-swap. -/
  | acas (d : Dst) (a b : Src)
  /-- AFADD (R370): Lane atomic f32 add. -/
  | afadd (d : Dst) (a b : Src)
  /-- AFMAX (R370): Lane atomic f32 maximum. -/
  | afmax (d : Dst) (a b : Src)
  /-- AADD64 (R370): Lane atomic 64-bit add on register pairs. -/
  | aadd64 (d : Dst) (a b : Src)
  /-- RADD (R373): Reduction at memory: integer add, no return value. -/
  | radd (a b : Src)
  /-- RFADD (R373): Reduction at memory: f32 add. -/
  | rfadd (a b : Src)
  /-- RFMAX (R373): Reduction at memory: f32 maximum. -/
  | rfmax (a b : Src)
  /-- RMAX (R373): Reduction at memory: signed maximum. -/
  | rmax (a b : Src)
  /-- RMIN (R373): Reduction at memory: signed minimum. -/
  | rmin (a b : Src)
  /-- ROR (R373): Reduction at memory: bitwise OR. -/
  | ror (a b : Src)
  /-- SKQ (R374): Inserts each active lane's f32 value into a scratchpad quantile sketch. -/
  | skq (a b : Src)
  /-- SKH (R374): Inserts each active lane's key into a heavy-hitter list. -/
  | skh (a b : Src)
  /-- SKD (R374): Inserts each active lane's key into distinct-count registers. -/
  | skd (a b : Src)
  /-- SKA (R374): Inserts each active lane's f32 value into an absolute-maximum object. -/
  | ska (a b : Src)
  /-- BRA (R377): Guarded relative lane branch. -/
  | bra (m : Nat) (neg : Bool) (off : BitVec 16)
  /-- JOIN (R378): Holds lanes until every live lane is held at the same PC, then releases them. -/
  | join
  /-- EXIT (R379): Makes the active lanes exited, ending the group when the last live lane exits. -/
  | exit
  /-- BRX (R380): Branches each active lane to the offset in its own register. -/
  | brx (a : Src)
  /-- FUSED_SOFTMAX (R360): Fused issue of the FMAX, FSUB, EXP2, FADD sequence in one slot. -/
  | fusedSoftmax (d1 a1 b1 d2 a2 d3 d4 a4 b4 : Nat)
  /-- NOP (R320): Uniform no-operation. -/
  | nop
  /-- SADD (R383): Uniform 64-bit add. -/
  | sadd (d : Dst) (a b : Src)
  /-- SSUB (R383): Uniform 64-bit subtract. -/
  | ssub (d : Dst) (a b : Src)
  /-- SMUL (R383): Uniform 64-bit multiply, low half. -/
  | smul (d : Dst) (a b : Src)
  /-- SMULH (R383): Uniform signed multiply, high half. -/
  | smulh (d : Dst) (a b : Src)
  /-- SAND (R383): Uniform bitwise AND. -/
  | sand (d : Dst) (a b : Src)
  /-- SOR (R383): Uniform bitwise OR. -/
  | sor (d : Dst) (a b : Src)
  /-- SXOR (R383): Uniform bitwise XOR. -/
  | sxor (d : Dst) (a b : Src)
  /-- SSHL (R383): Uniform shift left. -/
  | sshl (d : Dst) (a b : Src)
  /-- SSHR (R383): Uniform logical shift right. -/
  | sshr (d : Dst) (a b : Src)
  /-- SSAR (R383): Uniform arithmetic shift right. -/
  | ssar (d : Dst) (a b : Src)
  /-- SMIN (R383): Uniform signed minimum. -/
  | smin (d : Dst) (a b : Src)
  /-- SMAX (R383): Uniform signed maximum. -/
  | smax (d : Dst) (a b : Src)
  /-- SNMIN (R383): Uniform unsigned minimum. -/
  | snmin (d : Dst) (a b : Src)
  /-- SNMAX (R383): Uniform unsigned maximum. -/
  | snmax (d : Dst) (a b : Src)
  /-- SCMP (R384): Uniform compare writing 1 or 0. -/
  | scmp (d : Dst) (a b : Src) (cond : Nat)
  /-- SADDI (R385): Uniform add of a sign-extended 10-bit immediate. -/
  | saddi (d : Dst) (a : Src) (imm : BitVec 10)
  /-- SANDI (R385): Uniform AND with a sign-extended 10-bit immediate. -/
  | sandi (d : Dst) (a : Src) (imm : BitVec 10)
  /-- SSHLI (R385): Uniform shift left by an immediate. -/
  | sshli (d : Dst) (a : Src) (n : Nat)
  /-- SSHRI (R385): Uniform logical shift right by an immediate. -/
  | sshri (d : Dst) (a : Src) (n : Nat)
  /-- SMOVI (R385): Uniform load of a sign-extended 17-bit immediate. -/
  | smovi (d : Dst) (imm : BitVec 17)
  /-- SMOVH (R385): Uniform shift left by 16 and insert a 16-bit immediate. -/
  | smovh (d : Dst) (imm : BitVec 16)
  /-- SLEA (R386): Uniform formation of a code offset relative to the PC. -/
  | slea (d : Dst) (a : Src) (imm : BitVec 10)
  /-- SLDL (R387): Uniform load from local virtual memory. -/
  | sldl (d : Dst) (a : Src) (w imm : Nat)
  /-- SSTL (R387): Uniform store to local virtual memory. -/
  | sstl (s : Src) (a : Src) (w imm : Nat)
  /-- SLDS (R387): Uniform load from the scratchpad. -/
  | slds (d : Dst) (a : Src) (w imm : Nat)
  /-- SSTS (R387): Uniform store to the scratchpad. -/
  | ssts (s : Src) (a : Src) (w imm : Nat)
  /-- SLDC (R387): Uniform load from the constant bank. -/
  | sldc (d : Dst) (a : Src) (w imm : Nat)
  /-- SLDG (R387): Uniform load from grid-global memory. -/
  | sldg (d : Dst) (a : Src) (w imm : Nat)
  /-- SSTG (R387): Uniform store to grid-global memory. -/
  | sstg (s : Src) (a : Src) (w imm : Nat)
  /-- MAND (R389): Mask AND. -/
  | mand (md ma mb : Nat)
  /-- MOR (R389): Mask OR. -/
  | mor (md ma mb : Nat)
  /-- MXOR (R389): Mask XOR. -/
  | mxor (md ma mb : Nat)
  /-- MNOT (R389): Mask complement. -/
  | mnot (md ma : Nat)
  /-- M2S (R389): Copies a mask into a uniform register. -/
  | m2s (d : Dst) (ma : Nat)
  /-- S2M (R389): Copies a uniform register into a mask. -/
  | s2m (md : Nat) (a : Src)
  /-- MPOPC (R389): Counts the set bits of a mask. -/
  | mpopc (d : Dst) (ma : Nat)
  /-- V2S (R390): Reads one lane's register into a uniform register. -/
  | v2s (d : Dst) (va : Nat) (b : Src)
  /-- S2V (R390): Broadcasts a uniform value to a lane register of the issuing lanes. -/
  | s2v (vd : Nat) (a : Src)
  /-- BR (R391): Uniform unconditional branch. -/
  | br (off : BitVec 17)
  /-- BRZ (R391): Uniform branch when a register is zero. -/
  | brz (a : Src) (off : BitVec 17)
  /-- BRNZ (R391): Uniform branch when a register is non-zero. -/
  | brnz (a : Src) (off : BitVec 17)
  /-- CALL (R391): Uniform branch writing the return offset to s62. -/
  | call (off : BitVec 17)
  /-- RET (R392): Returns to the offset in s62. -/
  | ret
  /-- BRXS (R392): Uniform indirect branch to a register offset. -/
  | brxs (a : Src)
  /-- DLY (R393): Keeps the group from issuing for n cycles. -/
  | dly (n : Nat)
  /-- BARI (R394): Initialises a barrier with its expected arrival count. -/
  | bari (k : Nat) (a : Src)
  /-- BARA (R395): Arrives at a barrier carrying MERR, with a release side. -/
  | bara (k : Nat)
  /-- BARW (R395): Waits for a barrier phase flip, with an acquire side. -/
  | barw (k : Nat)
  /-- BARAW (R395): Arrives at a barrier and waits for its phase flip. -/
  | baraw (k : Nat)
  /-- BARST (R396): Reads a barrier's status word. -/
  | barst (d : Dst) (k : Nat)
  /-- CHCFG (R397): Configures a channel's depth, ring base and producer mask. -/
  | chcfg (k : Nat) (a : Src)
  /-- CHQ (R398): Reads a snapshot of a channel's count, allowance and depth. -/
  | chq (d : Dst) (k : Nat)
  /-- WAITC (R399): Waits until an engine class counter is n or less, then acquires. -/
  | waitc (cls n : Nat)
  /-- FENCE (R400): Fence entry ordering earlier and later entries at a scope. -/
  | fence (all : Bool) (kind scope : Nat)
  /-- MARM (R401): Arms the group's monitor on a compare at the point of coherence. -/
  | marm (d : Dst) (a b : Src) (w space : Nat)
  /-- MWAIT (R402): Waits until the monitor has fired, then acquires at .pod. -/
  | mwait
  /-- SAADD (R403): Uniform atomic add. -/
  | saadd (d : Dst) (a b : Src) (w space : Nat)
  /-- SACAS (R403): Uniform atomic compare-and-swap. -/
  | sacas (d : Dst) (a b : Src) (w space : Nat)
  /-- SAXCHG (R403): Uniform atomic exchange. -/
  | saxchg (d : Dst) (a b : Src) (w space : Nat)
  /-- COPY (R432): Engine copy of the moved positions between two tile records. -/
  | copy (s d : Src)
  /-- TILEX (R434): Engine transfer of a tile to ranks chosen by grid coordinates, optionally reducing or compressed. -/
  | tilex (s d : Src)
  /-- GATHER (R433): Engine copy of rows chosen by an index list. -/
  | gather (s d i : Src)
  /-- MMA (R427): Multiplies one 64x64x64 tile into the accumulator registers. -/
  | mma (c a k : Nat) (ta tb aob za : Bool)
  /-- MST (R430): Converts and stores an accumulator through a tile record, updating summaries. -/
  | mst (c : Nat) (d : Src) (k rnd : Nat) (sat t : Bool)
  /-- OBRES (R425): Reserves an operand-buffer range for a handle or replaces its record. -/
  | obres (k : Nat) (a : Src)
  /-- OBREL (R426): Frees an operand-buffer handle once no operation names it. -/
  | obrel (k : Nat)
  /-- SKMERGE (R437): Engine merge of a source summary object into a destination object. -/
  | skmerge (s d : Src)
  /-- SKQRD (R438): Quantile read of a QSK object. -/
  | skqrd (d : Dst) (o q : Src) (space : Nat)
  /-- SKHRD (R438): Indexed read of a heavy-hitter list. -/
  | skhrd (d : Dst) (o j : Src) (space : Nat)
  /-- SKDRD (R438): Distinct-count estimate read of a DCR object. -/
  | skdrd (d : Dst) (o : Src) (space : Nat)
  /-- SKINIT (R436): Writes a summary object's initial image. -/
  | skinit (o seed : Src) (space kind : Nat)
  /-- SKARD (R438): Read of an absolute-maximum object. -/
  | skard (d : Dst) (o : Src) (space : Nat)
  /-- LAUNCH (R405): Submits a child grid from a launch record through ctl1. -/
  | launch (a : Src)
  /-- DETACH (R406): Departs the block from its gang window with a release at .pod. -/
  | detach
  /-- YIELD (R407): Lets the core issue other groups first for a time. -/
  | yield
  /-- SRR (R408): Reads a status register into a uniform register. -/
  | srr (d : Dst) (n : Nat)
  /-- SRW_MODE (R261): Writes MODE, checking RM and resetting every lane's SR count. -/
  | srwMode (a : Src)
  /-- SRW (R409): Writes any other status register, including MERR and restore-only state. -/
  | srw (a : Src) (n : Nat)
  /-- TRAP (R410): Raises SW_TRAP with a software code. -/
  | trap (code : Nat)
  /-- TRET (R412): Ends a handler, re-issuing the trapping word. -/
  | tret
  /-- TRET_SKIP (R412): Ends a trap handler, moving trapping lanes past the word. -/
  | tretSkip
  /-- TREC (R413): Copies the 64-byte trap record to scratchpad. -/
  | trec (a : Src)
  /-- CACHE_L1INV (R414): Invalidates a line's sectors in the issuing core's L1. -/
  | cacheL1inv (a : Src)
  /-- CACHE_L1ALL (R414): Invalidates the issuing core's whole L1. -/
  | cacheL1all (a : Src)
  /-- CACHE_L2WB (R414): Writes a line back from its home slice to HBM. -/
  | cacheL2wb (a : Src)
  /-- CACHE_L2WBINV (R414): Writes a line back and invalidates it in its home slice. -/
  | cacheL2wbinv (a : Src)
  /-- PREF (R415): Prefetches a line into L2 and possibly L1. -/
  | pref (a : Src) (space : Nat)
  /-- GQ_DEPART (R90): An entry leaves its group queue once its kind, acquire and release conditions hold. -/
  | gqDepart (e : Nat)
  /-- CB_DEPART (R103): An entry leaves the core buffer, updating L1 and heading to its home slice or fabric flow. -/
  | cbDepart (e : Nat)
  /-- ROUTER_MERGE (R68): Two matching reductions meeting in a router buffer are merged into one. -/
  | routerMerge (e f : Nat)
  /-- HS_APPLY (R67): A home slice applies one entry indivisibly to a line. -/
  | hsApply (e : Nat)
  /-- BANK_APPLY (R124): The bank port applies a scratchpad or window entry in one pass. -/
  | bankApply (e : Nat)
  /-- LOAD_BIND (R100): A load binds its value at the first source holding its bytes. -/
  | loadBind (e : Nat)
  /-- FC_WRAP (R101): The fill counter wraps, invalidating the whole L1 and resetting every floor. -/
  | fcWrap (core : Nat)
  /-- WALK_COMPLETE (R39): A page walk ends, setting A and D or restarting on an epoch change. -/
  | walkComplete (walk : Nat)
  /-- RESULT_WRITEBACK (R323): A pending scoreboard result is written to its register. -/
  | resultWriteback (res : Nat)
  /-- FRB_DELIVER (R108): A flow reorder buffer delivers an arrived entry to the destination network. -/
  | frbDeliver (msg : LsMsg)
  /-- SKIP (R108): A skip message for an abandoned sequence number reaches the FRB. -/
  | skip (msg : LsMsg)
  /-- NOT_HELD (R24): A NOT_HELD reply makes the requester re-read the rank map and resend. -/
  | notHeld (msg : LsMsg)
  /-- REPLY_DATA (R137): A load or atomic reply arrives, delivered by tag or dropped as stale, resuming the parked lane. -/
  | replyData (msg : LsMsg)
  /-- ACKNOWLEDGEMENT (R110): An acknowledgement arrives for a remote store, reduction or departure notice. -/
  | acknowledgement (msg : LsMsg)
  /-- PEER_FENCED_REPLY (R163): A request completes with PEER_FENCED at its requester. -/
  | peerFencedReply (msg : LsMsg)
  /-- DEPARTED_REPLY (R461): A departed reply for a window access leaves registers unchanged and makes WINDOW_DEPARTED pending. -/
  | departedReply (msg : LsMsg)
  /-- POISON_REPLY (R460): A poison reply for a remote load or atomic makes POISON pending. -/
  | poisonReply (msg : LsMsg)
  /-- MONITOR_WAKE (R117): A monitor wake message arrives and sets the monitor FIRED. -/
  | monitorWake (msg : LsMsg)
  /-- ATTACH_NOTICE (R190): An attach notice arrives and sets the member's presence bit. -/
  | attachNotice (msg : LsMsg)
  /-- DEPARTURE_NOTICE (R16): A departure notice arrives and clears the member's presence bit. -/
  | departureNotice (msg : LsMsg)
  /-- REQUEST_TIMEOUT (R137): A remote request's timer reaches TMO, freeing its slot and raising FABRIC_TIMEOUT. -/
  | requestTimeout (core slot : Nat)
  /-- SLOT_WITHHOLD_EXPIRE (R137): A withheld request slot becomes usable after 64 times TMO. -/
  | slotWithholdExpire (core slot : Nat)
  /-- FLUSH_MARKER (R112): A flush marker reaches its destination and is held until earlier items are applied. -/
  | flushMarker (msg : MarkerMsg)
  /-- FLUSH_ACKNOWLEDGEMENT (R112): A flush acknowledgement arrives; the flush ends when all destinations have acknowledged. -/
  | flushAcknowledgement (msg : LsMsg)
  /-- END_MARKER (R113): An end marker reaches the destination; once all are gathered the completion is written there. -/
  | endMarker (msg : MarkerMsg)
  /-- ENGINE_ACCEPT (R35): An engine accepts a command and checks its handles and extents. -/
  | engineAccept (op : Nat)
  /-- ENGINE_COMPLETE (R115): An engine operation completes in the engine. -/
  | engineComplete (op : Nat)
  /-- ERQ_REPORT (R115): The engine retire queue reports its head completion and decrements the class counter. -/
  | erqReport (group cls : Nat)
  /-- BARRIER_ARRIVAL (R57): The barrier unit applies one arrival, flipping the phase when complete. -/
  | barrierArrival (e : Nat)
  /-- SUMMARY_APPLY (R297): The summary unit applies one insert instruction to its object as one step. -/
  | summaryApply (e : Nat)
  /-- SKMERGE_APPLY (R298): A merge's whole update is applied at the destination bank or home slice. -/
  | skmergeApply (op : Nat)
  /-- BULK_TIMEOUT (R164): A bulk operation's timer reaches TMO and its remaining segments are dropped. -/
  | bulkTimeout (opnum : Nat)
  /-- TRAP_DELIVER (R240): A trap is delivered at an issue boundary with no parked lane, entering the handler. -/
  | trapDeliver (group : Nat)
  /-- PAGE_FAULT_REPLAY (R42): ctl2 makes faulting pages valid and replays the group. -/
  | pageFaultReplay (group : Nat) (ptes : List PteWrite)
  /-- PREEMPT_DELIVER (R243): PREEMPT is delivered, sending every live lane to the save handler. -/
  | preemptDeliver (group : Nat)
  /-- BLOCK_FREEZE (R60): A pre-empted block becomes frozen when all its class counters reach 0. -/
  | blockFreeze (block : Nat)
  /-- GROUP_END (R180): A group whose lanes have all exited ends after its counters drain and its release. -/
  | groupEnd (group : Nat)
  /-- BLOCK_START (R211): An enacted block starts at its start time, attaching to its gang. -/
  | blockStart (block : Nat)
  /-- RANK_PREPARE (R232): ctl1 and ctl2 prepare a rank: window, descriptor, code and constant bank. -/
  | rankPrepare (grid rank : Nat) (img : RankImage)
  /-- SLOT_START (R147): A slot starts: PODTIME is corrected, SLOT advances and the round contribution is closed. -/
  | slotStart (slew : Nat)
  /-- ROUND_FINALISE (R209): A member finalises the lowest unapplied round once a quorum of records agree. -/
  | roundFinalise
  /-- SELF_FENCE (R209): A member that applies nothing for 64 slots fences itself. -/
  | selfFence
  /-- CHARGE_CONTRIBUTE (R223): Every 64 rounds ctl1 contributes CHARGE events for engine time. -/
  | chargeContribute
  /-- ROUND_MESSAGE (R206): A round message with contribution, ack records and digest arrives and is forwarded. -/
  | roundMessage (msg : CtlMsg)
  /-- CONTRIBUTION_FETCH_REQUEST (R157): A request for missing contributions of a round arrives. -/
  | contributionFetchRequest (msg : CtlMsg)
  /-- CONTRIBUTION_FETCH_REPLY (R157): A fetched contribution arrives. -/
  | contributionFetchReply (msg : CtlMsg)
  /-- SNAPSHOT_REQUEST (R225): A rejoining chip's snapshot request reaches its sponsor. -/
  | snapshotRequest (msg : CtlMsg)
  /-- SNAPSHOT_CHUNK (R225): A chunk of the sponsor's snapshot image arrives at the rejoining chip. -/
  | snapshotChunk (msg : CtlMsg)
  /-- FINAL_SET_CONTRIBUTION (R225): A final-set contribution streamed by the sponsor arrives and is replayed. -/
  | finalSetContribution (msg : CtlMsg)
  /-- JOIN_CONTRIBUTE (R225): The sponsor contributes JOIN once two consecutive digests match. -/
  | joinContribute (position : Nat)
  /-- FLIT_ARRIVE (R160): A flit arrives and is accepted or discarded by the link retry machine. -/
  | flitArrive (port : Nat) (flit : Flit)
  /-- NAK_TIMER_EXPIRE (R160): The NAK timer expires, resending NAK or reporting a link fault. -/
  | nakTimerExpire (port : Nat)
  /-- LINK_ACK (R160): A link ACK frees acknowledged flits in the replay buffer. -/
  | linkAck (port a : Nat)
  /-- LINK_NAK (R160): A link NAK makes the sender resend buffered flits from a. -/
  | linkNak (port a : Nat)
  /-- LINK_CREDIT (R149): Relay credit returned in a link message. -/
  | linkCredit (port ls bulk : Nat)
  /-- TAIL_END (R161): At the tail's end the sender hands back unacknowledged messages. -/
  | tailEnd (port : Nat)
  /-- LANE_FAULT (R142): A wavelength lane fails or loses signal and its port goes dark. -/
  | laneFault (port : Nat)
  /-- PORT_SEND (R152): A port picks and sends the next whole message. -/
  | portSend (port : Nat)
  /-- RELAY_FORWARD (R149): A relay forwards a buffered message to its destination. -/
  | relayForward (port : Nat)
  /-- BULK_SEGMENT (R459): A bulk segment arrives and is checked and applied at the destination. -/
  | bulkSegment (msg : SegMsg)
  /-- BULK_READ_REQUEST (R154): A bulk read request reaches the owner, which answers with reply segments and end markers. -/
  | bulkReadRequest (msg : ReadReqMsg)
  /-- SLOT_CHUNK_COMBINE (R170): A relay reduction slot combines a chunk once every source has contributed. -/
  | slotChunkCombine (slot chunk : Nat)
  /-- MAILBOX_MESSAGE (R228): A mailbox request with an unknown code is answered with status 0xFF. -/
  | mailboxMessage (sender receiver : Nat) (msg : List Byte)
  /-- DOORBELL (R234): A doorbell makes ctl0 read TAIL and parse new packets. -/
  | doorbell (queue : Nat)
  /-- LAUNCH_GRID (R236): Packet that checks descriptors and contributes SUBMIT. -/
  | launchGrid (queue : Nat)
  /-- WRITE (R236): Packet performing a release store. -/
  | write (queue : Nat)
  /-- SIGNAL (R236): Packet performing an atomic add of 1 with release. -/
  | signal (queue : Nat)
  /-- WAIT (R236): Packet that waits until a word reaches a target, checked once per turn. -/
  | wait (queue : Nat)
  /-- WRITE_SIGNAL (R236): Packet performing a WRITE then a SIGNAL. -/
  | writeSignal (queue : Nat)
  /-- HOSTCOPY (R236): Packet running a bulk copy between handles with a final flush. -/
  | hostcopy (queue : Nat)
  /-- TURN_END (R237): ctl0's 20 us turn for a context ends. -/
  | turnEnd (used : Nat)
  /-- PAGE_TABLE_CHANGE (R44): ctl2 changes or removes a leaf PTE and invalidates TLBs. -/
  | pageTableChange (change : PteChange)
  /-- INVALIDATION_COMPLETE (R44): All accesses translated under old epochs have performed and completion is reported. -/
  | invalidationComplete
  /-- HANDLE_CREATE (R34): ctl2 creates a region handle, pinning its pages. -/
  | handleCreate (req : HandleReq)
  /-- HANDLE_DESTROY (R37): ctl2 sets a handle entry to draining. -/
  | handleDestroy (ctx index : Nat)
  /-- HANDLE_FREE (R37): A draining handle is unpinned and freed once its commands have retired. -/
  | handleFree (ctx index : Nat)
  /-- CONTEXT_DESCRIPTOR_WRITE (R229): ctl2 writes a context descriptor, refusing an invalid one. -/
  | contextDescriptorWrite (ctx : Nat) (bytes : List Byte)
  /-- KILL_REQUEST (R204): An operating-system kill request to ctl0 contributes KILL or is refused. -/
  | killRequest (ctx reason : Nat)
  /-- ATTESTATION_REQUEST (R250): ctl7 returns the signed measurement registers and nonce. -/
  | attestationRequest (nonce : BitVec 256)
  /-- WATCHDOG_EXPIRE (R247): A control core misses its 10 ms watchdog, a fatal error. -/
  | watchdogExpire (core : Nat)
  /-- THERMAL_TRIP (R252): A die or stack reaches its trip temperature, a fatal error. -/
  | thermalTrip (site : Nat)
  /-- DUMP_COMMAND (R247): The management port commands a dump, a fatal error. -/
  | dumpCommand
  /-- FATAL_ERROR (R247): ctl3 fences the chip, stops all work, writes the dump and holds the chip in reset. -/
  | fatalError (cause : FatalCause)
  /-- DUMP_ACKNOWLEDGE (R248): The host acknowledges a dump, allowing the module to rejoin. -/
  | dumpAcknowledge
  /-- POWER_ON (R249): ctl7 runs the boot ROM, verifies and measures images and starts the module. -/
  | powerOn (boot : BootInput)
  /-- SOFT_ERROR (R79): A bit error arises in a protected array (register file, scratchpad, OB, L1, L2, HBM, TLB, Timetable cache) and is counted, corrected or poisons its unit. -/
  | softError (err : SoftErr)
  /-- WARM_RESET (R248): A warm reset of the module, which restarts it while leaving a completed dump area untouched. -/
  | warmReset
  /-- HOST_CORE_ACCESS (R139): A host core load, store, AMO, fence or LR/SC reaches its own module's home slices under RVWMO. -/
  | hostCoreAccess (acc : HostAcc)
  /-- SLOT_REQUEST (R224): Schedule firmware on the port processors asks ctl4 to contribute a SLOT or SLOTREL event. -/
  | slotRequest (req : SlotReq)
  /-- ISSUE_GATING (R252): ctl6 starts or stops gating issue cycles when module power averaged over 10 ms passes the envelope, or a die or stack passes its gating temperature. -/
  | issueGating (on : Bool)
  deriving DecidableEq, Repr

end Sys2Proof
end

