-- ==== Sys2Proof/WellFormed.lean ====
section
/-! DEFINITION. Which instructions are well formed: the limits of R303 to R318 and of each entry's own fields, as far
as the word itself shows them.  What depends on the PFX before the word is checked by the meaning (R313). -/

namespace Sys2Proof

/-- Why a word is not an instruction (R326). Each case traps ILLEGAL_OP. -/
inductive Reject where
  /-- a major opcode that the maps of R319 and R320 leave free -/
  | reservedOpcode
  /-- a reserved code in a field -/
  | reservedCode
  /-- reserved bits that are not 0 -/
  | reservedBits
  /-- a field the instruction leaves unused that is not 0 -/
  | unusedField
  /-- an odd pair base, a quad base that is not a multiple of 4, or a group that passes v127 -/
  | registerGroup
  /-- a channel where none may stand -/
  | channelPlace
  /-- a mask destination of m0 -/
  | maskZero
  /-- an operand outside its field -/
  | outOfField
  deriving DecidableEq, Repr

/-- The limits of a lane source field (R303). -/
def Src.laneOk : Src → Bool
  | .reg n => n < 128
  | .ch _ k => k < 16

/-- The limits of a lane destination field (R304). -/
def Dst.laneOk : Dst → Bool
  | .reg n => n < 128
  | .push k => k < 16

/-- The limits of a uniform source field (R316). -/
def Src.uniOk : Src → Bool
  | .reg n => n < 64
  | .ch _ k => k < 16

/-- The limits of a uniform destination field (R316). -/
def Dst.uniOk : Dst → Bool
  | .reg n => n < 64
  | .push k => k < 16

def Src.isCh : Src → Bool
  | .reg _ => false
  | .ch _ _ => true

def Dst.isPush : Dst → Bool
  | .reg _ => false
  | .push _ => true

/-- The first failing check of a list, each with its reason. -/
def firstDefect : List (Bool × Reject) → Option Reject
  | [] => none
  | (ok, r) :: rest => if ok then firstDefect rest else some r

/-- The register group of a memory or OB access of width code `w` from register `n` (R306, R365). -/
def groupOk (w n : Nat) : Bool :=
  if w ≤ 2 then true else if w = 3 then n % 2 = 0 else n % 4 = 0

/-- The data field of an access: a register group of the width, or a channel for b8, b16 and b32 (R306). -/
def dataDefect (w : Nat) : Option Nat → Option Reject
  | some n => if groupOk w n then none else some .registerGroup
  | none => if w ≤ 2 then none else some .channelPlace

def Src.regNo : Src → Option Nat
  | .reg n => some n
  | .ch _ _ => none

def Dst.regNo : Dst → Option Nat
  | .reg n => some n
  | .push _ => none

/-- The base of a 64-bit address: an even register, and no channel (R8, R306). -/
def pairBaseDefect : Src → Option Reject
  | .reg n => if n % 2 = 0 then none else some .registerGroup
  | .ch _ _ => some .channelPlace

/-- The first reason of several. -/
def orElseDefect (a b : Option Reject) : Option Reject :=
  match a with
  | some r => some r
  | none => b

/-- A memory word in format LM or LQ: fields in range, width code 0 to 4, data group, and the base for the space. -/
def memDefect (dataOk : Bool) (dataReg : Option Nat) (a : Src) (w : Nat) (wide : Bool) : Option Reject :=
  orElseDefect (firstDefect [(dataOk && a.laneOk, .outOfField), (w ≤ 4, .reservedCode)])
    (orElseDefect (dataDefect w dataReg) (if wide then pairBaseDefect a else none))

/-- A uniform memory word (R388): `wide` for the 64-bit spaces. -/
def uniMemDefect (dataOk : Bool) (a : Src) (w imm : Nat) (wide : Bool) : Option Reject :=
  firstDefect [(dataOk && a.uniOk && imm < 128, .outOfField), (w ≤ 3, .reservedCode), (!(wide && a.isCh), .channelPlace)]

/-- The element width in bits of a format code of R258, 0 for a reserved code. -/
def fmtBits (f : Nat) : Nat :=
  match f with
  | 0x0 => 32 | 0x1 => 16 | 0x2 => 16 | 0x3 => 8 | 0x4 => 8 | 0x5 => 4 | 0x6 => 8
  | 0x7 => 8 | 0x8 => 16 | 0x9 => 32 | 0xA => 8 | 0xB => 16 | 0xC => 32 | _ => 0

/-- A selector that R264 accepts. -/
def selectorOk (d s : Nat) : Bool := d ≤ 12 && s ≤ 12 && d != s

/-- The status register numbers of R408. -/
def statusOk (n : Nat) : Bool :=
  n ≤ 0x00A || (0x010 ≤ n && n ≤ 0x012) || n = 0x020 || n = 0x021 || n = 0x030 || (0x100 ≤ n && n < 0x180) ||
  (0x200 ≤ n && n ≤ 0x210) || (0x220 ≤ n && n < 0x228) || n = 0x230 || (0x300 ≤ n && n < 0x400)

def lane3 (d : Dst) (a b : Src) : Option Reject :=
  firstDefect [(d.laneOk && a.laneOk && b.laneOk, .outOfField)]

def lane2 (d : Dst) (a : Src) : Option Reject := firstDefect [(d.laneOk && a.laneOk, .outOfField)]

def laneN (d : Dst) (a : Src) (n bound : Nat) : Option Reject :=
  firstDefect [(d.laneOk && a.laneOk, .outOfField), (n < bound, .reservedBits)]

/-- A lane compare (R308, R343). -/
def compareDefect (md cond : Nat) (a b : Src) (limit : Nat) : Option Reject :=
  firstDefect [(md < 8 && a.laneOk && b.laneOk, .outOfField), (cond < limit, .reservedCode), (md != 0, .maskZero)]

/-- A lane atomic (R369): vd names no channel. -/
def atomicDefect (d : Dst) (a b : Src) : Option Reject :=
  firstDefect [(d.laneOk && a.laneOk && b.laneOk, .outOfField), (!d.isPush, .channelPlace)]

def lanes2 (a b : Src) : Option Reject := firstDefect [(a.laneOk && b.laneOk, .outOfField)]

def uni3 (d : Dst) (a b : Src) : Option Reject := firstDefect [(d.uniOk && a.uniOk && b.uniOk, .outOfField)]

def uni2 (d : Dst) (a : Src) : Option Reject := firstDefect [(d.uniOk && a.uniOk, .outOfField)]

/-- MARM and the uniform atomics (R318): a width and a space in func3; a 64-bit space takes no channel base. -/
def uniAtomDefect (d : Dst) (a b : Src) (w space : Nat) (noPush : Bool) : Option Reject :=
  firstDefect [(d.uniOk && a.uniOk && b.uniOk && w < 2 && space < 4, .outOfField),
    (!(decide (space < 2) && a.isCh), .channelPlace), (!(noPush && d.isPush), .channelPlace)]

/-- The summary reads (R416, R438). -/
def skReadDefect (d : Dst) (o q : Src) (space : Nat) : Option Reject :=
  firstDefect [(d.uniOk && o.uniOk && q.uniOk, .outOfField), (space < 2, .reservedCode)]

/-- Why an instruction is not well formed, if it is not (R326). An event row is always well formed. -/
def Instr.defect : Instr → Option Reject
  | .pfx p => firstDefect [(p.mask < 8 && p.vc.laneOk && p.space < 4 && p.scope < 8 && p.order < 4 && p.rnd < 8, .outOfField),
      (p.rnd ≤ 5, .reservedCode), (p.scope ≤ 5, .reservedCode)]
  | .iadd d a b | .isub d a b | .imul d a b | .imulh d a b | .imulhn d a b | .imac d a b | .imin d a b
  | .imax d a b | .nmin d a b | .nmax d a b | .and d a b | .or d a b | .xor d a b | .andn d a b | .shl d a b
  | .shr d a b | .sar d a b | .rol d a b | .bfx d a b | .bfi d a b | .absd d a b | .sel d a b | .fadd d a b
  | .fsub d a b | .fmul d a b | .ffma d a b | .fmin d a b | .fmax d a b | .hadd2 d a b | .hmul2 d a b
  | .hfma2 d a b | .badd2 d a b | .bmul2 d a b | .bfma2 d a b | .shflx d a b | .shflu d a b | .shfld d a b
  | .voteb d a b => lane3 d a b
  | .popc d a | .clz d a | .brev d a | .mov d a | .fabs d a | .fneg d a | .fclass d a | .exp2 d a | .log2 d a
  | .rcp d a | .rsq d a | .sqrt d a | .sin d a | .cos d a | .tanh d a | .lsrLpc d a | .lsrLive d a => lane2 d a
  | .iaddi d a _ | .andi d a _ | .ori d a _ | .xori d a _ | .imuli d a _ => lane2 d a
  | .shli d a n | .shri d a n | .sari d a n => laneN d a n 32
  | .movi d _ => firstDefect [(d.laneOk, .outOfField)]
  | .movhi d _ => firstDefect [(d.laneOk, .outOfField), (!d.isPush, .channelPlace)]
  | .icmp md c a b | .ncmp md c a b => compareDefect md c a b 6
  | .fcmp md c a b => compareDefect md c a b 8
  | .cvt d a x y => firstDefect [(d.laneOk && a.laneOk, .outOfField), (selectorOk x y, .reservedCode)]
  | .cvtpk d a x y =>
    orElseDefect (firstDefect [(d.laneOk && a.laneOk, .outOfField), (selectorOk x y, .reservedCode),
      (y = 0 || y = 9 || y = 12, .reservedCode), (fmtBits x < 32, .reservedCode)])
      (match a with
        | .reg n => if n % (32 / fmtBits x) = 0 then none else some .registerGroup
        | .ch _ _ => some .channelPlace)
  | .cvtn d a x y =>
    orElseDefect (firstDefect [(d.laneOk && a.laneOk, .outOfField), (y = 0 && (x = 3 || x = 4 || x = 5), .reservedCode)])
      (match d, a with
        | .reg m, .reg n => if m % 2 = 0 && n % 4 = 0 then none else some .registerGroup
        | _, _ => some .channelPlace)
  | .shfli d a n => laneN d a n 128
  | .shflw d a n => laneN d a n 8
  | .lred d a s o => firstDefect [(d.laneOk && a.laneOk && s < 8 && o < 8, .outOfField)]
  | .scan d a k _ o => firstDefect [(d.laneOk && a.laneOk && k < 8 && o < 8, .outOfField)]
  | .lsrLaneid d | .lsrSlice d => firstDefect [(d.laneOk, .outOfField)]
  | .obld s a w h => orElseDefect (memDefect s.laneOk s.regNo a w false) (firstDefect [(h < 16, .outOfField)])
  | .obst d a w h => orElseDefect (memDefect d.laneOk d.regNo a w false) (firstDefect [(h < 16, .outOfField)])
  | .ldl d a w i | .ldg d a w i => orElseDefect (memDefect d.laneOk d.regNo a w true) (firstDefect [(i < 32, .outOfField)])
  | .stl s a w i | .stg s a w i => orElseDefect (memDefect s.laneOk s.regNo a w true) (firstDefect [(i < 32, .outOfField)])
  | .lds d a w i | .ldw d a w i | .ldp d a w i | .ldc d a w i =>
    orElseDefect (memDefect d.laneOk d.regNo a w false) (firstDefect [(i < 32, .outOfField)])
  | .sts s a w i | .stw s a w i | .stp s a w i =>
    orElseDefect (memDefect s.laneOk s.regNo a w false) (firstDefect [(i < 32, .outOfField)])
  | .lda d a w sp sc => orElseDefect (memDefect d.laneOk d.regNo a w (sp < 2))
      (firstDefect [(sp < 4 && sc < 8, .outOfField), (1 ≤ sc && sc ≤ 5, .reservedCode)])
  | .str s a w sp sc => orElseDefect (memDefect s.laneOk s.regNo a w (sp < 2))
      (firstDefect [(sp < 4 && sc < 8, .outOfField), (1 ≤ sc && sc ≤ 5, .reservedCode)])
  | .aadd d a b | .aincw d a b | .adecw d a b | .abadd d a b | .amin d a b | .amax d a b | .anmin d a b
  | .anmax d a b | .aand d a b | .aor d a b | .axor d a b | .axchg d a b | .acas d a b | .afadd d a b
  | .afmax d a b => atomicDefect d a b
  | .aadd64 d a b => orElseDefect (atomicDefect d a b)
      (orElseDefect (firstDefect [(!b.isCh, .channelPlace)])
        (firstDefect [(groupOk 3 (d.regNo.getD 0) && groupOk 3 (b.regNo.getD 0), .registerGroup)]))
  | .radd a b | .rfadd a b | .rfmax a b | .rmax a b | .rmin a b | .ror a b
  | .skq a b | .skh a b | .skd a b | .ska a b => lanes2 a b
  | .bra m _ _ => firstDefect [(m < 8, .outOfField)]
  | .join | .exit => none
  | .brx a => firstDefect [(a.laneOk, .outOfField)]
  | .fusedSoftmax d1 a1 b1 d2 a2 d3 d4 a4 b4 =>
    firstDefect [(d1 < 128 && a1 < 128 && b1 < 128 && d2 < 128 && a2 < 128 && d3 < 128 && d4 < 128 && a4 < 128 &&
      b4 < 128, .outOfField), (a4 = d3 || b4 = d3, .reservedCode)]
  | .nop | .ret | .mwait | .detach | .yield | .tret | .tretSkip => none
  | .sadd d a b | .ssub d a b | .smul d a b | .smulh d a b | .sand d a b | .sor d a b | .sxor d a b | .sshl d a b
  | .sshr d a b | .ssar d a b | .smin d a b | .smax d a b | .snmin d a b | .snmax d a b => uni3 d a b
  | .scmp d a b c => orElseDefect (uni3 d a b) (firstDefect [(c < 8, .outOfField), (c < 6, .reservedCode)])
  | .saddi d a _ | .sandi d a _ | .slea d a _ => uni2 d a
  | .sshli d a n | .sshri d a n => orElseDefect (uni2 d a) (firstDefect [(n < 64, .reservedBits)])
  | .smovi d _ => firstDefect [(d.uniOk, .outOfField)]
  | .smovh d _ => firstDefect [(d.uniOk, .outOfField), (!d.isPush, .channelPlace)]
  | .sldl d a w i | .sldg d a w i =>
    orElseDefect (uniMemDefect d.uniOk a w i true) (firstDefect [(!(decide (w = 3) && d.isPush), .channelPlace)])
  | .slds d a w i | .sldc d a w i =>
    orElseDefect (uniMemDefect d.uniOk a w i false) (firstDefect [(!(decide (w = 3) && d.isPush), .channelPlace)])
  | .sstl s a w i | .sstg s a w i =>
    orElseDefect (uniMemDefect s.uniOk a w i true) (firstDefect [(!s.isCh, .channelPlace)])
  | .ssts s a w i => orElseDefect (uniMemDefect s.uniOk a w i false) (firstDefect [(!s.isCh, .channelPlace)])
  | .mand d a b | .mor d a b | .mxor d a b =>
    firstDefect [(d < 8 && a < 8 && b < 8, .outOfField), (d != 0, .maskZero)]
  | .mnot d a => firstDefect [(d < 8 && a < 8, .outOfField), (d != 0, .maskZero)]
  | .m2s d a => firstDefect [(d.uniOk && a < 8, .outOfField), (!d.isPush, .channelPlace)]
  | .mpopc d a => firstDefect [(d.uniOk && a < 8, .outOfField)]
  | .s2m d a => firstDefect [(d < 8 && a.uniOk, .outOfField), (d != 0, .maskZero)]
  | .v2s d v b => firstDefect [(d.uniOk && v < 128 && b.uniOk, .outOfField)]
  | .s2v v a => firstDefect [(v < 128 && a.uniOk, .outOfField)]
  | .br _ | .call _ => none
  | .brz a _ | .brnz a _ | .brxs a | .launch a | .trec a => firstDefect [(a.uniOk, .outOfField)]
  | .cacheL1inv a | .cacheL1all a | .cacheL2wb a | .cacheL2wbinv a =>
    firstDefect [(a.uniOk, .outOfField), (!a.isCh, .channelPlace)]
  | .pref a sp => firstDefect [(a.uniOk && sp < 2, .outOfField), (!a.isCh, .channelPlace)]
  | .dly n => firstDefect [(n < 1024, .outOfField)]
  | .bari k a | .chcfg k a => firstDefect [(k < 16 && a.uniOk, .outOfField)]
  | .bara k | .barw k | .baraw k => firstDefect [(k < 16, .outOfField)]
  | .barst d k | .chq d k => firstDefect [(d.uniOk && k < 16, .outOfField)]
  | .waitc c n => firstDefect [(c < 4 && n < 256, .outOfField)]
  | .fence _ k sc => firstDefect [(k < 4 && sc < 8, .outOfField), (k < 3 && 1 ≤ sc && sc ≤ 5, .reservedCode)]
  | .marm d a b w sp => uniAtomDefect d a b w sp false
  | .saadd d a b w sp | .sacas d a b w sp | .saxchg d a b w sp => uniAtomDefect d a b w sp true
  | .copy s d | .tilex s d | .skmerge s d => firstDefect [(s.uniOk && d.uniOk, .outOfField)]
  | .gather s d i => firstDefect [(s.uniOk && d.uniOk && i.uniOk, .outOfField)]
  | .mma c a k _ _ aob _ => firstDefect [(c < 128 && a < 128 && k < 16, .outOfField),
      (c % 8 = 0 && a % 8 = 0, .registerGroup), (!(aob && a != 0), .unusedField)]
  | .mst c d k r _ _ => firstDefect [(c < 128 && d.uniOk && k < 16 && r < 8, .outOfField), (c % 8 = 0, .registerGroup),
      (r ≤ 5, .reservedCode)]
  | .obres k a => firstDefect [(k < 16 && a.uniOk, .outOfField)]
  | .obrel k => firstDefect [(k < 16, .outOfField)]
  | .skqrd d o q sp => skReadDefect d o q sp
  | .skhrd d o j sp => orElseDefect (skReadDefect d o j sp)
      (match d with
        | .reg n => if n % 2 = 0 && 2 ≤ n && n ≤ 60 then none else some .registerGroup
        | .push _ => some .channelPlace)
  | .skdrd d o sp | .skard d o sp => skReadDefect d o (.reg 0) sp
  | .skinit o s sp k => firstDefect [(o.uniOk && s.uniOk && sp < 2 && k < 4, .outOfField)]
  | .srr d n => firstDefect [(d.uniOk && n < 1024, .outOfField), (statusOk n, .reservedCode)]
  | .srwMode a => firstDefect [(a.uniOk, .outOfField)]
  | .srw a n => firstDefect [(a.uniOk && n < 1024 && n != 0x020, .outOfField), (statusOk n, .reservedCode)]
  | .trap c => firstDefect [(c < 256, .outOfField)]
  | .gqDepart _ | .cbDepart _ | .routerMerge _ _ | .hsApply _ | .bankApply _ | .loadBind _ | .fcWrap _
  | .walkComplete _ | .resultWriteback _ | .frbDeliver _ | .skip _ | .notHeld _ | .replyData _ | .acknowledgement _
  | .peerFencedReply _ | .departedReply _ | .poisonReply _ | .monitorWake _ | .attachNotice _ | .departureNotice _
  | .requestTimeout _ _ | .slotWithholdExpire _ _ | .flushMarker _ | .flushAcknowledgement _ | .endMarker _
  | .engineAccept _ | .engineComplete _ | .erqReport _ _ | .barrierArrival _ | .summaryApply _ | .skmergeApply _
  | .bulkTimeout _ | .trapDeliver _ | .pageFaultReplay _ _ | .preemptDeliver _ | .blockFreeze _ | .groupEnd _
  | .blockStart _ | .rankPrepare _ _ _ | .slotStart _ | .roundFinalise | .selfFence | .chargeContribute
  | .roundMessage _ | .contributionFetchRequest _ | .contributionFetchReply _ | .snapshotRequest _
  | .snapshotChunk _ | .finalSetContribution _ | .joinContribute _ | .flitArrive _ _ | .nakTimerExpire _
  | .linkAck _ _ | .linkNak _ _ | .linkCredit _ _ _ | .tailEnd _ | .laneFault _ | .portSend _ | .relayForward _
  | .bulkSegment _ | .bulkReadRequest _ | .slotChunkCombine _ _ | .mailboxMessage _ _ _ | .doorbell _
  | .launchGrid _ | .write _ | .signal _ | .wait _ | .writeSignal _ | .hostcopy _ | .turnEnd _ | .pageTableChange _
  | .invalidationComplete | .handleCreate _ | .handleDestroy _ _ | .handleFree _ _ | .contextDescriptorWrite _ _
  | .killRequest _ _ | .attestationRequest _ | .watchdogExpire _ | .thermalTrip _ | .dumpCommand | .fatalError _
  | .dumpAcknowledge | .powerOn _ | .softError _ | .warmReset | .hostCoreAccess _ | .slotRequest _ | .issueGating _ => none

/-- An instruction is well formed when no check refuses it. -/
def Instr.wf (i : Instr) : Bool := i.defect.isNone

/-- The instructions that an encoded word stands for: every constructor but the fused sequence and the event rows. -/
def Instr.isWord : Instr → Bool
  | .fusedSoftmax _ _ _ _ _ _ _ _ _ => false
  | .gqDepart _ | .cbDepart _ | .routerMerge _ _ | .hsApply _ | .bankApply _ | .loadBind _ | .fcWrap _
  | .walkComplete _ | .resultWriteback _ | .frbDeliver _ | .skip _ | .notHeld _ | .replyData _ | .acknowledgement _
  | .peerFencedReply _ | .departedReply _ | .poisonReply _ | .monitorWake _ | .attachNotice _ | .departureNotice _
  | .requestTimeout _ _ | .slotWithholdExpire _ _ | .flushMarker _ | .flushAcknowledgement _ | .endMarker _
  | .engineAccept _ | .engineComplete _ | .erqReport _ _ | .barrierArrival _ | .summaryApply _ | .skmergeApply _
  | .bulkTimeout _ | .trapDeliver _ | .pageFaultReplay _ _ | .preemptDeliver _ | .blockFreeze _ | .groupEnd _
  | .blockStart _ | .rankPrepare _ _ _ | .slotStart _ | .roundFinalise | .selfFence | .chargeContribute
  | .roundMessage _ | .contributionFetchRequest _ | .contributionFetchReply _ | .snapshotRequest _
  | .snapshotChunk _ | .finalSetContribution _ | .joinContribute _ | .flitArrive _ _ | .nakTimerExpire _
  | .linkAck _ _ | .linkNak _ _ | .linkCredit _ _ _ | .tailEnd _ | .laneFault _ | .portSend _ | .relayForward _
  | .bulkSegment _ | .bulkReadRequest _ | .slotChunkCombine _ _ | .mailboxMessage _ _ _ | .doorbell _
  | .launchGrid _ | .write _ | .signal _ | .wait _ | .writeSignal _ | .hostcopy _ | .turnEnd _ | .pageTableChange _
  | .invalidationComplete | .handleCreate _ | .handleDestroy _ _ | .handleFree _ _ | .contextDescriptorWrite _ _
  | .killRequest _ _ | .attestationRequest _ | .watchdogExpire _ | .thermalTrip _ | .dumpCommand | .fatalError _
  | .dumpAcknowledge | .powerOn _ | .softError _ | .warmReset | .hostCoreAccess _ | .slotRequest _ | .issueGating _ => false
  | .pfx _ | .iadd _ _ _ | .isub _ _ _ | .imul _ _ _ | .imulh _ _ _ | .imulhn _ _ _ | .imac _ _ _ | .imin _ _ _
  | .imax _ _ _ | .nmin _ _ _ | .nmax _ _ _ | .and _ _ _ | .or _ _ _ | .xor _ _ _ | .andn _ _ _ | .shl _ _ _
  | .shr _ _ _ | .sar _ _ _ | .rol _ _ _ | .popc _ _ | .clz _ _ | .brev _ _ | .bfx _ _ _ | .bfi _ _ _ | .absd _ _ _
  | .sel _ _ _ | .mov _ _ | .iaddi _ _ _ | .andi _ _ _ | .ori _ _ _ | .xori _ _ _ | .shli _ _ _ | .shri _ _ _
  | .sari _ _ _ | .imuli _ _ _ | .movi _ _ | .movhi _ _ | .icmp _ _ _ _ | .ncmp _ _ _ _ | .fcmp _ _ _ _
  | .fadd _ _ _ | .fsub _ _ _ | .fmul _ _ _ | .ffma _ _ _ | .fmin _ _ _ | .fmax _ _ _ | .fabs _ _ | .fneg _ _
  | .fclass _ _ | .hadd2 _ _ _ | .hmul2 _ _ _ | .hfma2 _ _ _ | .badd2 _ _ _ | .bmul2 _ _ _ | .bfma2 _ _ _
  | .cvt _ _ _ _ | .cvtpk _ _ _ _ | .cvtn _ _ _ _ | .exp2 _ _ | .log2 _ _ | .rcp _ _ | .rsq _ _ | .sqrt _ _
  | .sin _ _ | .cos _ _ | .tanh _ _ | .shflx _ _ _ | .shflu _ _ _ | .shfld _ _ _ | .shfli _ _ _ | .shflw _ _ _
  | .voteb _ _ _ | .lred _ _ _ _ | .scan _ _ _ _ _ | .lsrLaneid _ | .lsrLpc _ _ | .lsrSlice _ | .lsrLive _ _
  | .obld _ _ _ _ | .obst _ _ _ _ | .ldl _ _ _ _ | .stl _ _ _ _ | .ldg _ _ _ _ | .stg _ _ _ _ | .lds _ _ _ _
  | .sts _ _ _ _ | .ldw _ _ _ _ | .stw _ _ _ _ | .ldp _ _ _ _ | .stp _ _ _ _ | .ldc _ _ _ _ | .lda _ _ _ _ _
  | .str _ _ _ _ _ | .aadd _ _ _ | .aincw _ _ _ | .adecw _ _ _ | .abadd _ _ _ | .amin _ _ _ | .amax _ _ _
  | .anmin _ _ _ | .anmax _ _ _ | .aand _ _ _ | .aor _ _ _ | .axor _ _ _ | .axchg _ _ _ | .acas _ _ _
  | .afadd _ _ _ | .afmax _ _ _ | .aadd64 _ _ _ | .radd _ _ | .rfadd _ _ | .rfmax _ _ | .rmax _ _ | .rmin _ _
  | .ror _ _ | .skq _ _ | .skh _ _ | .skd _ _ | .ska _ _ | .bra _ _ _ | .join | .exit | .brx _ | .nop | .sadd _ _ _
  | .ssub _ _ _ | .smul _ _ _ | .smulh _ _ _ | .sand _ _ _ | .sor _ _ _ | .sxor _ _ _ | .sshl _ _ _ | .sshr _ _ _
  | .ssar _ _ _ | .smin _ _ _ | .smax _ _ _ | .snmin _ _ _ | .snmax _ _ _ | .scmp _ _ _ _ | .saddi _ _ _
  | .sandi _ _ _ | .sshli _ _ _ | .sshri _ _ _ | .smovi _ _ | .smovh _ _ | .slea _ _ _ | .sldl _ _ _ _
  | .sstl _ _ _ _ | .slds _ _ _ _ | .ssts _ _ _ _ | .sldc _ _ _ _ | .sldg _ _ _ _ | .sstg _ _ _ _ | .mand _ _ _
  | .mor _ _ _ | .mxor _ _ _ | .mnot _ _ | .m2s _ _ | .s2m _ _ | .mpopc _ _ | .v2s _ _ _ | .s2v _ _ | .br _
  | .brz _ _ | .brnz _ _ | .call _ | .ret | .brxs _ | .dly _ | .bari _ _ | .bara _ | .barw _ | .baraw _
  | .barst _ _ | .chcfg _ _ | .chq _ _ | .waitc _ _ | .fence _ _ _ | .marm _ _ _ _ _ | .mwait | .saadd _ _ _ _ _
  | .sacas _ _ _ _ _ | .saxchg _ _ _ _ _ | .copy _ _ | .tilex _ _ | .gather _ _ _ | .mma _ _ _ _ _ _ _
  | .mst _ _ _ _ _ _ | .obres _ _ | .obrel _ | .skmerge _ _ | .skqrd _ _ _ _ | .skhrd _ _ _ _ | .skdrd _ _ _
  | .skinit _ _ _ _ | .skard _ _ _ | .launch _ | .detach | .yield | .srr _ _ | .srwMode _ | .srw _ _ | .trap _
  | .tret | .tretSkip | .trec _ | .cacheL1inv _ | .cacheL1all _ | .cacheL2wb _ | .cacheL2wbinv _ | .pref _ _ => true

/-- The event rows: steps of the machine that no word encodes (R84). -/
def Instr.isEvent : Instr → Bool
  | .gqDepart _ | .cbDepart _ | .routerMerge _ _ | .hsApply _ | .bankApply _ | .loadBind _ | .fcWrap _
  | .walkComplete _ | .resultWriteback _ | .frbDeliver _ | .skip _ | .notHeld _ | .replyData _ | .acknowledgement _
  | .peerFencedReply _ | .departedReply _ | .poisonReply _ | .monitorWake _ | .attachNotice _ | .departureNotice _
  | .requestTimeout _ _ | .slotWithholdExpire _ _ | .flushMarker _ | .flushAcknowledgement _ | .endMarker _
  | .engineAccept _ | .engineComplete _ | .erqReport _ _ | .barrierArrival _ | .summaryApply _ | .skmergeApply _
  | .bulkTimeout _ | .trapDeliver _ | .pageFaultReplay _ _ | .preemptDeliver _ | .blockFreeze _ | .groupEnd _
  | .blockStart _ | .rankPrepare _ _ _ | .slotStart _ | .roundFinalise | .selfFence | .chargeContribute
  | .roundMessage _ | .contributionFetchRequest _ | .contributionFetchReply _ | .snapshotRequest _
  | .snapshotChunk _ | .finalSetContribution _ | .joinContribute _ | .flitArrive _ _ | .nakTimerExpire _
  | .linkAck _ _ | .linkNak _ _ | .linkCredit _ _ _ | .tailEnd _ | .laneFault _ | .portSend _ | .relayForward _
  | .bulkSegment _ | .bulkReadRequest _ | .slotChunkCombine _ _ | .mailboxMessage _ _ _ | .doorbell _
  | .launchGrid _ | .write _ | .signal _ | .wait _ | .writeSignal _ | .hostcopy _ | .turnEnd _ | .pageTableChange _
  | .invalidationComplete | .handleCreate _ | .handleDestroy _ _ | .handleFree _ _ | .contextDescriptorWrite _ _
  | .killRequest _ _ | .attestationRequest _ | .watchdogExpire _ | .thermalTrip _ | .dumpCommand | .fatalError _
  | .dumpAcknowledge | .powerOn _ | .softError _ | .warmReset | .hostCoreAccess _ | .slotRequest _ | .issueGating _ => true
  | .pfx _ | .iadd _ _ _ | .isub _ _ _ | .imul _ _ _ | .imulh _ _ _ | .imulhn _ _ _ | .imac _ _ _ | .imin _ _ _
  | .imax _ _ _ | .nmin _ _ _ | .nmax _ _ _ | .and _ _ _ | .or _ _ _ | .xor _ _ _ | .andn _ _ _ | .shl _ _ _
  | .shr _ _ _ | .sar _ _ _ | .rol _ _ _ | .popc _ _ | .clz _ _ | .brev _ _ | .bfx _ _ _ | .bfi _ _ _ | .absd _ _ _
  | .sel _ _ _ | .mov _ _ | .iaddi _ _ _ | .andi _ _ _ | .ori _ _ _ | .xori _ _ _ | .shli _ _ _ | .shri _ _ _
  | .sari _ _ _ | .imuli _ _ _ | .movi _ _ | .movhi _ _ | .icmp _ _ _ _ | .ncmp _ _ _ _ | .fcmp _ _ _ _
  | .fadd _ _ _ | .fsub _ _ _ | .fmul _ _ _ | .ffma _ _ _ | .fmin _ _ _ | .fmax _ _ _ | .fabs _ _ | .fneg _ _
  | .fclass _ _ | .hadd2 _ _ _ | .hmul2 _ _ _ | .hfma2 _ _ _ | .badd2 _ _ _ | .bmul2 _ _ _ | .bfma2 _ _ _
  | .cvt _ _ _ _ | .cvtpk _ _ _ _ | .cvtn _ _ _ _ | .exp2 _ _ | .log2 _ _ | .rcp _ _ | .rsq _ _ | .sqrt _ _
  | .sin _ _ | .cos _ _ | .tanh _ _ | .shflx _ _ _ | .shflu _ _ _ | .shfld _ _ _ | .shfli _ _ _ | .shflw _ _ _
  | .voteb _ _ _ | .lred _ _ _ _ | .scan _ _ _ _ _ | .lsrLaneid _ | .lsrLpc _ _ | .lsrSlice _ | .lsrLive _ _
  | .obld _ _ _ _ | .obst _ _ _ _ | .ldl _ _ _ _ | .stl _ _ _ _ | .ldg _ _ _ _ | .stg _ _ _ _ | .lds _ _ _ _
  | .sts _ _ _ _ | .ldw _ _ _ _ | .stw _ _ _ _ | .ldp _ _ _ _ | .stp _ _ _ _ | .ldc _ _ _ _ | .lda _ _ _ _ _
  | .str _ _ _ _ _ | .aadd _ _ _ | .aincw _ _ _ | .adecw _ _ _ | .abadd _ _ _ | .amin _ _ _ | .amax _ _ _
  | .anmin _ _ _ | .anmax _ _ _ | .aand _ _ _ | .aor _ _ _ | .axor _ _ _ | .axchg _ _ _ | .acas _ _ _
  | .afadd _ _ _ | .afmax _ _ _ | .aadd64 _ _ _ | .radd _ _ | .rfadd _ _ | .rfmax _ _ | .rmax _ _ | .rmin _ _
  | .ror _ _ | .skq _ _ | .skh _ _ | .skd _ _ | .ska _ _ | .bra _ _ _ | .join | .exit | .brx _ | .nop | .sadd _ _ _
  | .ssub _ _ _ | .smul _ _ _ | .smulh _ _ _ | .sand _ _ _ | .sor _ _ _ | .sxor _ _ _ | .sshl _ _ _ | .sshr _ _ _
  | .ssar _ _ _ | .smin _ _ _ | .smax _ _ _ | .snmin _ _ _ | .snmax _ _ _ | .scmp _ _ _ _ | .saddi _ _ _
  | .sandi _ _ _ | .sshli _ _ _ | .sshri _ _ _ | .smovi _ _ | .smovh _ _ | .slea _ _ _ | .sldl _ _ _ _
  | .sstl _ _ _ _ | .slds _ _ _ _ | .ssts _ _ _ _ | .sldc _ _ _ _ | .sldg _ _ _ _ | .sstg _ _ _ _ | .mand _ _ _
  | .mor _ _ _ | .mxor _ _ _ | .mnot _ _ | .m2s _ _ | .s2m _ _ | .mpopc _ _ | .v2s _ _ _ | .s2v _ _ | .br _
  | .brz _ _ | .brnz _ _ | .call _ | .ret | .brxs _ | .dly _ | .bari _ _ | .bara _ | .barw _ | .baraw _
  | .barst _ _ | .chcfg _ _ | .chq _ _ | .waitc _ _ | .fence _ _ _ | .marm _ _ _ _ _ | .mwait | .saadd _ _ _ _ _
  | .sacas _ _ _ _ _ | .saxchg _ _ _ _ _ | .copy _ _ | .tilex _ _ | .gather _ _ _ | .mma _ _ _ _ _ _ _
  | .mst _ _ _ _ _ _ | .obres _ _ | .obrel _ | .skmerge _ _ | .skqrd _ _ _ _ | .skhrd _ _ _ _ | .skdrd _ _ _
  | .skinit _ _ _ _ | .skard _ _ _ | .launch _ | .detach | .yield | .srr _ _ | .srwMode _ | .srw _ _ | .trap _
  | .tret | .tretSkip | .trec _ | .cacheL1inv _ | .cacheL1all _ | .cacheL2wb _ | .cacheL2wbinv _ | .pref _ _
  | .fusedSoftmax _ _ _ _ _ _ _ _ _ => false

end Sys2Proof
end

