-- ==== Sys2Proof/Decode.lean ====
section
/-! DEFINITION. Decoding of Chaeb words (R302 to R328), total on every word and refusing by name, and the encoder
written from the same tables.  Below them stand decodings of words that the spec works out. -/

namespace Sys2Proof

/-- Bits [lo + n - 1 : lo] of a word. -/
def fld (w lo n : Nat) : Nat := w / 2 ^ lo % 2 ^ n

/-- Bit `lo` of a word. -/
def flag (w lo : Nat) : Bool := fld w lo 1 = 1

/-- A reserved or unused field, which must be 0 (R326). -/
def zero (r : Reject) (v : Nat) (k : Except Reject Instr) : Except Reject Instr := if v = 0 then k else .error r

/-- A lane source field (R303). -/
def lsrc (x : Nat) (k : Src → Except Reject Instr) : Except Reject Instr :=
  if x < 128 then k (.reg x)
  else if fld x 4 2 = 0 then k (.ch (flag x 6) (fld x 0 4)) else .error .reservedBits

/-- The lane destination field, bits [23:16] (R304). -/
def ldst (w : Nat) (k : Dst → Except Reject Instr) : Except Reject Instr :=
  if fld w 16 8 < 128 then k (.reg (fld w 16 8))
  else if fld w 20 3 = 0 then k (.push (fld w 16 4)) else .error .reservedBits

/-- A uniform source field (R316). -/
def usrc (x : Nat) (k : Src → Except Reject Instr) : Except Reject Instr :=
  if x < 64 then k (.reg x)
  else if fld x 4 1 = 0 then k (.ch (flag x 5) (fld x 0 4)) else .error .reservedBits

/-- The uniform destination field, bits [23:17] (R316). -/
def udst (w : Nat) (k : Dst → Except Reject Instr) : Except Reject Instr :=
  if fld w 17 7 < 64 then k (.reg (fld w 17 7))
  else if fld w 21 2 = 0 then k (.push (fld w 17 4)) else .error .reservedBits

def la3 (w : Nat) (c : Dst → Src → Src → Instr) : Except Reject Instr :=
  ldst w fun d => lsrc (fld w 8 8) fun a => lsrc (fld w 0 8) fun b => .ok (c d a b)

def la2 (w : Nat) (c : Dst → Src → Instr) : Except Reject Instr :=
  zero .unusedField (fld w 0 8) (ldst w fun d => lsrc (fld w 8 8) fun a => .ok (c d a))

def laI (w : Nat) (c : Dst → Src → BitVec 8 → Instr) : Except Reject Instr :=
  ldst w fun d => lsrc (fld w 8 8) fun a => .ok (c d a (BitVec.ofNat 8 (fld w 0 8)))

def laN (w : Nat) (c : Dst → Src → Nat → Instr) : Except Reject Instr :=
  ldst w fun d => lsrc (fld w 8 8) fun a => .ok (c d a (fld w 0 8))

def lw (w : Nat) (c : Dst → BitVec 16 → Instr) : Except Reject Instr :=
  ldst w fun d => .ok (c d (BitVec.ofNat 16 (fld w 0 16)))

def lc (w : Nat) (c : Nat → Nat → Src → Src → Instr) : Except Reject Instr :=
  zero .reservedBits (fld w 16 1)
    (lsrc (fld w 8 8) fun a => lsrc (fld w 0 8) fun b => .ok (c (fld w 21 3) (fld w 17 4) a b))

def lcvt (w : Nat) (c : Dst → Src → Nat → Nat → Instr) : Except Reject Instr :=
  ldst w fun d => lsrc (fld w 8 8) fun a => .ok (c d a (fld w 4 4) (fld w 0 4))

def sfuOp (d : Dst) (a : Src) (code : Nat) : Except Reject Instr :=
  match code with
  | 0 => .ok (.exp2 d a)
  | 1 => .ok (.log2 d a)
  | 2 => .ok (.rcp d a)
  | 3 => .ok (.rsq d a)
  | 4 => .ok (.sqrt d a)
  | 5 => .ok (.sin d a)
  | 6 => .ok (.cos d a)
  | 7 => .ok (.tanh d a)
  | _ => .error .reservedCode

def sfu (w : Nat) : Except Reject Instr :=
  ldst w fun d => lsrc (fld w 8 8) fun a => sfuOp d a (fld w 0 8)

/-- LSR (R358): LANEID and SLICE leave the source field 0. -/
def lsr (w : Nat) : Except Reject Instr :=
  zero .reservedBits (fld w 2 6)
    (ldst w fun d =>
      match fld w 0 2 with
      | 0 => zero .unusedField (fld w 8 8) (.ok (.lsrLaneid d))
      | 1 => lsrc (fld w 8 8) fun a => .ok (.lsrLpc d a)
      | 2 => zero .unusedField (fld w 8 8) (.ok (.lsrSlice d))
      | _ => lsrc (fld w 8 8) fun a => .ok (.lsrLive d a))

def lmD (w : Nat) (c : Dst → Src → Nat → Nat → Instr) : Except Reject Instr :=
  ldst w fun d => lsrc (fld w 8 8) fun a => .ok (c d a (fld w 5 3) (fld w 0 5))

def lmS (w : Nat) (c : Src → Src → Nat → Nat → Instr) : Except Reject Instr :=
  lsrc (fld w 16 8) fun s => lsrc (fld w 8 8) fun a => .ok (c s a (fld w 5 3) (fld w 0 5))

def ab (w : Nat) (c : Src → Src → Instr) : Except Reject Instr :=
  zero .unusedField (fld w 16 8) (lsrc (fld w 8 8) fun a => lsrc (fld w 0 8) fun b => .ok (c a b))

/-- The PFX word (R312). -/
def pfxWord (w : Nat) : Except Reject Instr :=
  lsrc (fld w 8 8) fun vc => .ok (.pfx
    { mask := fld w 21 3, z := flag w 20, neg := flag w 19, rnd := fld w 16 3,
      vc := vc, space := fld w 6 2, scope := fld w 3 3, order := fld w 1 2, sat := flag w 0 })

def ua3 (w : Nat) (c : Dst → Src → Src → Instr) : Except Reject Instr :=
  zero .unusedField (fld w 0 3)
    (udst w fun d => usrc (fld w 10 7) fun a => usrc (fld w 3 7) fun b => .ok (c d a b))

def uiI (w : Nat) (c : Dst → Src → BitVec 10 → Instr) : Except Reject Instr :=
  udst w fun d => usrc (fld w 10 7) fun a => .ok (c d a (BitVec.ofNat 10 (fld w 0 10)))

def umD (w : Nat) (c : Dst → Src → Nat → Nat → Instr) : Except Reject Instr :=
  udst w fun d => usrc (fld w 10 7) fun a => .ok (c d a (fld w 7 3) (fld w 0 7))

def umS (w : Nat) (c : Src → Src → Nat → Nat → Instr) : Except Reject Instr :=
  usrc (fld w 17 7) fun s => usrc (fld w 10 7) fun a => .ok (c s a (fld w 7 3) (fld w 0 7))

def mask3 (w : Nat) (c : Nat → Nat → Nat → Instr) : Except Reject Instr :=
  zero .unusedField (fld w 0 3) (zero .reservedBits (fld w 20 4) (zero .reservedBits (fld w 13 4)
    (zero .reservedBits (fld w 6 4) (.ok (c (fld w 17 3) (fld w 10 3) (fld w 3 3))))))

def uaA (w : Nat) (c : Src → Instr) : Except Reject Instr :=
  zero .unusedField (fld w 17 7) (zero .unusedField (fld w 0 10) (usrc (fld w 10 7) fun a => .ok (c a)))

def uat (w : Nat) (c : Dst → Src → Src → Nat → Nat → Instr) : Except Reject Instr :=
  udst w fun d => usrc (fld w 10 7) fun a => usrc (fld w 3 7) fun b => .ok (c d a b (fld w 2 1) (fld w 0 2))

/-- The CACHE operation of a code (R414). -/
def cacheOp (a : Src) (code : Nat) : Except Reject Instr :=
  match code with
  | 0 => .ok (.cacheL1inv a)
  | 1 => .ok (.cacheL1all a)
  | 2 => .ok (.cacheL2wb a)
  | 3 => .ok (.cacheL2wbinv a)
  | _ => .error .reservedCode

/-- The words whose opcode byte is 0x00 to 0x0F (R319, R320). -/
def decodeRow0 (lo w : Nat) : Except Reject Instr :=
  match lo with
  | 0x0 => pfxWord w
  | 0x1 => la3 w .iadd
  | 0x2 => la3 w .isub
  | 0x3 => la3 w .imul
  | 0x4 => la3 w .imulh
  | 0x5 => la3 w .imulhn
  | 0x6 => la3 w .imac
  | 0x7 => la3 w .imin
  | 0x8 => la3 w .imax
  | 0x9 => la3 w .nmin
  | 0xA => la3 w .nmax
  | 0xB => la3 w .and
  | 0xC => la3 w .or
  | 0xD => la3 w .xor
  | 0xE => la3 w .andn
  | _ => la3 w .shl

/-- The words whose opcode byte is 0x10 to 0x1F (R319, R320). -/
def decodeRow1 (lo w : Nat) : Except Reject Instr :=
  match lo with
  | 0x0 => la3 w .shr
  | 0x1 => la3 w .sar
  | 0x2 => la3 w .rol
  | 0x3 => la2 w .popc
  | 0x4 => la2 w .clz
  | 0x5 => la2 w .brev
  | 0x6 => la3 w .bfx
  | 0x7 => la3 w .bfi
  | 0x8 => la3 w .absd
  | 0x9 => la3 w .sel
  | 0xA => la2 w .mov
  | 0xC => laI w .iaddi
  | 0xD => laI w .andi
  | 0xE => laI w .ori
  | 0xF => laI w .xori
  | _ => .error .reservedOpcode

/-- The words whose opcode byte is 0x20 to 0x2F (R319, R320). -/
def decodeRow2 (lo w : Nat) : Except Reject Instr :=
  match lo with
  | 0x0 => laN w .shli
  | 0x1 => laN w .shri
  | 0x2 => laN w .sari
  | 0x3 => laI w .imuli
  | 0x4 => lw w .movi
  | 0x5 => lw w .movhi
  | 0x6 => lc w .icmp
  | 0x7 => lc w .ncmp
  | 0x8 => lc w .fcmp
  | 0xA => la3 w .fadd
  | 0xB => la3 w .fsub
  | 0xC => la3 w .fmul
  | 0xD => la3 w .ffma
  | 0xE => la3 w .fmin
  | 0xF => la3 w .fmax
  | _ => .error .reservedOpcode

/-- The words whose opcode byte is 0x30 to 0x3F (R319, R320). -/
def decodeRow3 (lo w : Nat) : Except Reject Instr :=
  match lo with
  | 0x0 => la2 w .fabs
  | 0x1 => la2 w .fneg
  | 0x2 => la2 w .fclass
  | 0x3 => la3 w .hadd2
  | 0x4 => la3 w .hmul2
  | 0x5 => la3 w .hfma2
  | 0x6 => la3 w .badd2
  | 0x7 => la3 w .bmul2
  | 0x8 => la3 w .bfma2
  | 0x9 => lcvt w .cvt
  | 0xA => lcvt w .cvtpk
  | 0xB => lcvt w .cvtn
  | 0xC => sfu w
  | 0xD => la3 w .shflx
  | 0xE => la3 w .shflu
  | _ => la3 w .shfld

/-- The words whose opcode byte is 0x40 to 0x4F (R319, R320). -/
def decodeRow4 (lo w : Nat) : Except Reject Instr :=
  match lo with
  | 0x0 => laN w .shfli
  | 0x1 => laN w .shflw
  | 0x2 => la3 w .voteb
  | 0x3 => zero .reservedBits (fld w 6 2) (ldst w fun d => lsrc (fld w 8 8) fun a => .ok (.lred d a (fld w 3 3)
      (fld w 0 3)))
  | 0x4 => zero .reservedBits (fld w 7 1) (ldst w fun d => lsrc (fld w 8 8) fun a => .ok (.scan d a (fld w 4 3)
      (flag w 3) (fld w 0 3)))
  | 0x5 => lsr w
  | 0x6 => zero .reservedBits (fld w 7 1) (lsrc (fld w 16 8) fun s => lsrc (fld w 8 8) fun a => .ok (.obld s a (fld
      w 4 3) (fld w 0 4)))
  | 0x7 => zero .reservedBits (fld w 7 1) (ldst w fun d => lsrc (fld w 8 8) fun a => .ok (.obst d a (fld w 4 3)
      (fld w 0 4)))
  | 0x8 => lmD w .ldl
  | 0x9 => lmS w .stl
  | 0xA => lmD w .ldg
  | 0xB => lmS w .stg
  | 0xC => lmD w .lds
  | 0xD => lmS w .sts
  | 0xE => lmD w .ldw
  | _ => lmS w .stw

/-- The words whose opcode byte is 0x50 to 0x5F (R319, R320). -/
def decodeRow5 (lo w : Nat) : Except Reject Instr :=
  match lo with
  | 0x0 => lmD w .ldp
  | 0x1 => lmS w .stp
  | 0x2 => lmD w .ldc
  | 0x3 => ldst w fun d => lsrc (fld w 8 8) fun a => .ok (.lda d a (fld w 5 3) (fld w 3 2) (fld w 0 3))
  | 0x4 => lsrc (fld w 16 8) fun s => lsrc (fld w 8 8) fun a => .ok (.str s a (fld w 5 3) (fld w 3 2) (fld w 0 3))
  | 0x5 => la3 w .aadd
  | 0x6 => la3 w .aincw
  | 0x7 => la3 w .adecw
  | 0x8 => la3 w .abadd
  | 0x9 => la3 w .amin
  | 0xA => la3 w .amax
  | 0xB => la3 w .anmin
  | 0xC => la3 w .anmax
  | 0xD => la3 w .aand
  | 0xE => la3 w .aor
  | _ => la3 w .axor

/-- The words whose opcode byte is 0x60 to 0x6F (R319, R320). -/
def decodeRow6 (lo w : Nat) : Except Reject Instr :=
  match lo with
  | 0x0 => la3 w .axchg
  | 0x1 => la3 w .acas
  | 0x2 => la3 w .afadd
  | 0x3 => la3 w .afmax
  | 0x4 => la3 w .aadd64
  | 0x5 => ab w .radd
  | 0x6 => ab w .rfadd
  | 0x7 => ab w .rfmax
  | 0x8 => ab w .rmax
  | 0x9 => ab w .rmin
  | 0xA => ab w .ror
  | 0xB => ab w .skq
  | 0xC => ab w .skh
  | 0xD => ab w .skd
  | 0xE => ab w .ska
  | _ => zero .reservedBits (fld w 16 4) (.ok (.bra (fld w 21 3) (flag w 20) (BitVec.ofNat 16 (fld w 0 16))))

/-- The words whose opcode byte is 0x70 to 0x7F (R319, R320). -/
def decodeRow7 (lo w : Nat) : Except Reject Instr :=
  match lo with
  | 0x0 => zero .unusedField (fld w 0 24) (.ok .join)
  | 0x1 => zero .unusedField (fld w 0 24) (.ok .exit)
  | 0x2 => zero .unusedField (fld w 16 8) (zero .unusedField (fld w 0 8) (lsrc (fld w 8 8) fun a => .ok (.brx a)))
  | _ => .error .reservedOpcode

/-- The words whose opcode byte is 0x80 to 0x8F (R319, R320). -/
def decodeRow8 (lo w : Nat) : Except Reject Instr :=
  match lo with
  | 0x0 => zero .unusedField (fld w 0 24) (.ok .nop)
  | 0x1 => ua3 w .sadd
  | 0x2 => ua3 w .ssub
  | 0x3 => ua3 w .smul
  | 0x4 => ua3 w .smulh
  | 0x5 => ua3 w .sand
  | 0x6 => ua3 w .sor
  | 0x7 => ua3 w .sxor
  | 0x8 => ua3 w .sshl
  | 0x9 => ua3 w .sshr
  | 0xA => ua3 w .ssar
  | 0xB => ua3 w .smin
  | 0xC => ua3 w .smax
  | 0xD => ua3 w .snmin
  | 0xE => ua3 w .snmax
  | _ => udst w fun d => usrc (fld w 10 7) fun a => usrc (fld w 3 7) fun b => .ok (.scmp d a b (fld w 0 3))

/-- The words whose opcode byte is 0x90 to 0x9F (R319, R320). -/
def decodeRow9 (lo w : Nat) : Except Reject Instr :=
  match lo with
  | 0x0 => uiI w .saddi
  | 0x1 => uiI w .sandi
  | 0x2 => udst w fun d => usrc (fld w 10 7) fun a => .ok (.sshli d a (fld w 0 10))
  | 0x3 => udst w fun d => usrc (fld w 10 7) fun a => .ok (.sshri d a (fld w 0 10))
  | 0x4 => udst w fun d => .ok (.smovi d (BitVec.ofNat 17 (fld w 0 17)))
  | 0x5 => zero .reservedBits (fld w 16 1) (udst w fun d => .ok (.smovh d (BitVec.ofNat 16 (fld w 0 16))))
  | 0x6 => uiI w .slea
  | 0x7 => umD w .sldl
  | 0x8 => umS w .sstl
  | 0x9 => umD w .slds
  | 0xA => umS w .ssts
  | 0xB => umD w .sldc
  | 0xC => umD w .sldg
  | 0xD => umS w .sstg
  | 0xE => mask3 w .mand
  | _ => mask3 w .mor

/-- The words whose opcode byte is 0xA0 to 0xAF (R319, R320). -/
def decodeRowA (lo w : Nat) : Except Reject Instr :=
  match lo with
  | 0x0 => mask3 w .mxor
  | 0x1 => zero .unusedField (fld w 0 10) (zero .reservedBits (fld w 20 4) (zero .reservedBits (fld w 13 4) (.ok
      (.mnot (fld w 17 3) (fld w 10 3)))))
  | 0x2 => zero .unusedField (fld w 0 10) (zero .reservedBits (fld w 13 4) (udst w fun d => .ok (.m2s d (fld w 10
      3))))
  | 0x3 => zero .unusedField (fld w 0 10) (zero .reservedBits (fld w 20 4) (usrc (fld w 10 7) fun a => .ok (.s2m
      (fld w 17 3) a)))
  | 0x4 => zero .unusedField (fld w 0 10) (zero .reservedBits (fld w 13 4) (udst w fun d => .ok (.mpopc d (fld w 10
      3))))
  | 0x5 => zero .unusedField (fld w 0 3) (udst w fun d => usrc (fld w 3 7) fun b => .ok (.v2s d (fld w 10 7) b))
  | 0x6 => zero .unusedField (fld w 0 10) (usrc (fld w 10 7) fun a => .ok (.s2v (fld w 17 7) a))
  | 0x7 => zero .unusedField (fld w 17 7) (.ok (.br (BitVec.ofNat 17 (fld w 0 17))))
  | 0x8 => usrc (fld w 17 7) fun a => .ok (.brz a (BitVec.ofNat 17 (fld w 0 17)))
  | 0x9 => usrc (fld w 17 7) fun a => .ok (.brnz a (BitVec.ofNat 17 (fld w 0 17)))
  | 0xA => zero .unusedField (fld w 17 7) (.ok (.call (BitVec.ofNat 17 (fld w 0 17))))
  | 0xB => zero .unusedField (fld w 0 24) (.ok .ret)
  | 0xC => uaA w .brxs
  | 0xD => zero .unusedField (fld w 10 14) (.ok (.dly (fld w 0 10)))
  | 0xE => zero .unusedField (fld w 17 7) (zero .reservedBits (fld w 4 6) (usrc (fld w 10 7) fun a => .ok (.bari
      (fld w 0 4) a)))
  | _ => zero .unusedField (fld w 10 14) (zero .reservedBits (fld w 4 6) (.ok (.bara (fld w 0 4))))

/-- The words whose opcode byte is 0xB0 to 0xBF (R319, R320). -/
def decodeRowB (lo w : Nat) : Except Reject Instr :=
  match lo with
  | 0x0 => zero .unusedField (fld w 10 14) (zero .reservedBits (fld w 4 6) (.ok (.barw (fld w 0 4))))
  | 0x1 => zero .unusedField (fld w 10 14) (zero .reservedBits (fld w 4 6) (.ok (.baraw (fld w 0 4))))
  | 0x2 => zero .unusedField (fld w 10 7) (zero .reservedBits (fld w 4 6) (udst w fun d => .ok (.barst d (fld w 0
      4))))
  | 0x3 => zero .unusedField (fld w 17 7) (zero .reservedBits (fld w 4 6) (usrc (fld w 10 7) fun a => .ok (.chcfg
      (fld w 0 4) a)))
  | 0x4 => zero .unusedField (fld w 10 7) (zero .reservedBits (fld w 4 6) (udst w fun d => .ok (.chq d (fld w 0 4))))
  | 0x5 => zero .unusedField (fld w 10 14) (.ok (.waitc (fld w 8 2) (fld w 0 8)))
  | 0x6 => zero .unusedField (fld w 10 14) (zero .reservedBits (fld w 6 4) (.ok (.fence (flag w 5) (fld w 3 2) (fld
      w 0 3))))
  | 0x7 => uat w .marm
  | 0x8 => zero .unusedField (fld w 0 24) (.ok .mwait)
  | 0x9 => uat w .saadd
  | 0xA => uat w .sacas
  | 0xB => uat w .saxchg
  | 0xC => zero .unusedField (fld w 0 10) (usrc (fld w 17 7) fun s => usrc (fld w 10 7) fun d => .ok (.copy s d))
  | 0xD => zero .unusedField (fld w 0 10) (usrc (fld w 17 7) fun s => usrc (fld w 10 7) fun d => .ok (.tilex s d))
  | 0xE => zero .unusedField (fld w 0 3) (usrc (fld w 17 7) fun s => usrc (fld w 10 7) fun d => usrc (fld w 3 7)
      fun i => .ok (.gather s d i))
  | _ => zero .unusedField (fld w 0 2) (.ok (.mma (fld w 17 7) (fld w 10 7) (fld w 6 4) (flag w 5) (flag w 4) (flag
      w 3) (flag w 2)))

/-- The words whose opcode byte is 0xC0 to 0xCF (R319, R320). -/
def decodeRowC (lo w : Nat) : Except Reject Instr :=
  match lo with
  | 0x0 => zero .unusedField (fld w 0 1) (usrc (fld w 10 7) fun d => .ok (.mst (fld w 17 7) d (fld w 6 4) (fld w 3
      3) (flag w 2) (flag w 1)))
  | 0x1 => zero .unusedField (fld w 17 3) (zero .unusedField (fld w 0 10) (usrc (fld w 10 7) fun a => .ok (.obres
      (fld w 20 4) a)))
  | 0x2 => zero .unusedField (fld w 0 20) (.ok (.obrel (fld w 20 4)))
  | 0x3 => zero .unusedField (fld w 0 10) (usrc (fld w 17 7) fun s => usrc (fld w 10 7) fun d => .ok (.skmerge s d))
  | 0x4 => udst w fun d => usrc (fld w 10 7) fun o => usrc (fld w 3 7) fun q => .ok (.skqrd d o q (fld w 0 3))
  | 0x5 => udst w fun d => usrc (fld w 10 7) fun o => usrc (fld w 3 7) fun q => .ok (.skhrd d o q (fld w 0 3))
  | 0x6 => zero .unusedField (fld w 3 7) (udst w fun d => usrc (fld w 10 7) fun o => .ok (.skdrd d o (fld w 0 3)))
  | 0x7 => zero .unusedField (fld w 17 7) (usrc (fld w 10 7) fun o => usrc (fld w 3 7) fun s => .ok (.skinit o s
      (fld w 2 1) (fld w 0 2)))
  | 0x8 => zero .unusedField (fld w 3 7) (udst w fun d => usrc (fld w 10 7) fun o => .ok (.skard d o (fld w 0 3)))
  | 0x9 => uaA w .launch
  | 0xA => zero .unusedField (fld w 0 24) (.ok .detach)
  | 0xB => zero .unusedField (fld w 0 24) (.ok .yield)
  | 0xC => zero .unusedField (fld w 10 7) (udst w fun d => .ok (.srr d (fld w 0 10)))
  | 0xD => zero .unusedField (fld w 17 7) (usrc (fld w 10 7) fun a => if fld w 0 10 = 0x020 then .ok (.srwMode a)
      else .ok (.srw a (fld w 0 10)))
  | 0xE => zero .unusedField (fld w 17 7) (zero .reservedBits (fld w 8 9) (.ok (.trap (fld w 0 8))))
  | _ => zero .unusedField (fld w 10 14) (zero .reservedBits (fld w 1 9) (if flag w 0 then .ok .tretSkip else .ok
      .tret))

/-- The words whose opcode byte is 0xD0 to 0xDF (R319, R320). -/
def decodeRowD (lo w : Nat) : Except Reject Instr :=
  match lo with
  | 0x0 => uaA w .trec
  | 0x1 => zero .unusedField (fld w 17 7) (zero .reservedBits (fld w 3 7) (usrc (fld w 10 7) fun a => cacheOp a
      (fld w 0 3)))
  | 0x2 => zero .unusedField (fld w 17 7) (zero .reservedBits (fld w 1 9) (usrc (fld w 10 7) fun a => .ok (.pref a
      (fld w 0 1))))
  | _ => .error .reservedOpcode

/-- The instruction a 32-bit word names by its opcode byte, before the checks of `Instr.defect`. -/
def decodeRaw (w : Nat) : Except Reject Instr :=
  match fld w 28 4 with
  | 0x0 => decodeRow0 (fld w 24 4) w
  | 0x1 => decodeRow1 (fld w 24 4) w
  | 0x2 => decodeRow2 (fld w 24 4) w
  | 0x3 => decodeRow3 (fld w 24 4) w
  | 0x4 => decodeRow4 (fld w 24 4) w
  | 0x5 => decodeRow5 (fld w 24 4) w
  | 0x6 => decodeRow6 (fld w 24 4) w
  | 0x7 => decodeRow7 (fld w 24 4) w
  | 0x8 => decodeRow8 (fld w 24 4) w
  | 0x9 => decodeRow9 (fld w 24 4) w
  | 0xA => decodeRowA (fld w 24 4) w
  | 0xB => decodeRowB (fld w 24 4) w
  | 0xC => decodeRowC (fld w 24 4) w
  | 0xD => decodeRowD (fld w 24 4) w
  | _ => .error .reservedOpcode

/-- Accept a decoded instruction only when it is well formed. -/
def checkDefect (i : Instr) : Except Reject Instr :=
  match i.defect with
  | none => .ok i
  | some r => .error r

/-- The instruction a word stands for, or why it is none (R326). -/
def decodeWord (w : Nat) : Except Reject Instr :=
  match decodeRaw w with
  | .ok i => checkDefect i
  | .error r => .error r

/-- The instruction read from a table word: the first word holds the instruction, and a second word, where the table
would count one, is not part of it (every word of Chaeb is 32 bits, R302). -/
def decodeTableWord (_nbits w : Nat) : Option Instr :=
  match decodeWord (w % 2 ^ 32) with
  | .ok i => some i
  | .error _ => none

/-! ### The encoder -/

/-- A flag as a bit. -/
def bit (b : Bool) : Nat := if b then 1 else 0

/-- The lane source field (R303). -/
def Src.lane : Src → Nat
  | .reg n => n
  | .ch pop k => 128 + bit pop * 64 + k

/-- The uniform source field (R316). -/
def Src.uni : Src → Nat
  | .reg n => n
  | .ch pop k => 64 + bit pop * 32 + k

/-- The lane destination field (R304). -/
def Dst.lane : Dst → Nat
  | .reg n => n
  | .push k => 128 + k

/-- The uniform destination field (R316). -/
def Dst.uni : Dst → Nat
  | .reg n => n
  | .push k => 64 + k

/-- A word from its opcode byte and bits [23:0]. -/
def wF (op body : Nat) : Nat := op * 2 ^ 24 + body

/-- A word from its three byte fields (R305). -/
def wLA (op a b c : Nat) : Nat := wF op (a * 2 ^ 16 + b * 2 ^ 8 + c)

/-- A word in format UA (R317). -/
def wUA (op d a b f : Nat) : Nat := wF op (d * 2 ^ 17 + a * 2 ^ 10 + b * 2 ^ 3 + f)

/-- A word in format UI (R317). -/
def wUI (op d a i : Nat) : Nat := wF op (d * 2 ^ 17 + a * 2 ^ 10 + i)

/-- The word that stands for an instruction (R302 to R320); an instruction without a word has the word of NOP. -/
def encode : Instr → Nat
  | .pfx p => wF 0x00 (p.mask * 2 ^ 21 + bit p.z * 2 ^ 20 + bit p.neg * 2 ^ 19 + p.rnd * 2 ^ 16 + p.vc.lane * 2 ^ 8 + p.space * 2 ^ 6 +
      p.scope * 2 ^ 3 + p.order * 2 + bit p.sat)
  | .iadd d a b => wLA 0x01 d.lane a.lane b.lane
  | .isub d a b => wLA 0x02 d.lane a.lane b.lane
  | .imul d a b => wLA 0x03 d.lane a.lane b.lane
  | .imulh d a b => wLA 0x04 d.lane a.lane b.lane
  | .imulhn d a b => wLA 0x05 d.lane a.lane b.lane
  | .imac d a b => wLA 0x06 d.lane a.lane b.lane
  | .imin d a b => wLA 0x07 d.lane a.lane b.lane
  | .imax d a b => wLA 0x08 d.lane a.lane b.lane
  | .nmin d a b => wLA 0x09 d.lane a.lane b.lane
  | .nmax d a b => wLA 0x0A d.lane a.lane b.lane
  | .and d a b => wLA 0x0B d.lane a.lane b.lane
  | .or d a b => wLA 0x0C d.lane a.lane b.lane
  | .xor d a b => wLA 0x0D d.lane a.lane b.lane
  | .andn d a b => wLA 0x0E d.lane a.lane b.lane
  | .shl d a b => wLA 0x0F d.lane a.lane b.lane
  | .shr d a b => wLA 0x10 d.lane a.lane b.lane
  | .sar d a b => wLA 0x11 d.lane a.lane b.lane
  | .rol d a b => wLA 0x12 d.lane a.lane b.lane
  | .popc d a => wLA 0x13 d.lane a.lane 0
  | .clz d a => wLA 0x14 d.lane a.lane 0
  | .brev d a => wLA 0x15 d.lane a.lane 0
  | .bfx d a b => wLA 0x16 d.lane a.lane b.lane
  | .bfi d a b => wLA 0x17 d.lane a.lane b.lane
  | .absd d a b => wLA 0x18 d.lane a.lane b.lane
  | .sel d a b => wLA 0x19 d.lane a.lane b.lane
  | .mov d a => wLA 0x1A d.lane a.lane 0
  | .iaddi d a i => wLA 0x1C d.lane a.lane i.toNat
  | .andi d a i => wLA 0x1D d.lane a.lane i.toNat
  | .ori d a i => wLA 0x1E d.lane a.lane i.toNat
  | .xori d a i => wLA 0x1F d.lane a.lane i.toNat
  | .shli d a n => wLA 0x20 d.lane a.lane n
  | .shri d a n => wLA 0x21 d.lane a.lane n
  | .sari d a n => wLA 0x22 d.lane a.lane n
  | .imuli d a i => wLA 0x23 d.lane a.lane i.toNat
  | .movi d i => wF 0x24 (d.lane * 2 ^ 16 + i.toNat)
  | .movhi d i => wF 0x25 (d.lane * 2 ^ 16 + i.toNat)
  | .icmp m c a b => wLA 0x26 (m * 2 ^ 5 + c * 2) a.lane b.lane
  | .ncmp m c a b => wLA 0x27 (m * 2 ^ 5 + c * 2) a.lane b.lane
  | .fcmp m c a b => wLA 0x28 (m * 2 ^ 5 + c * 2) a.lane b.lane
  | .fadd d a b => wLA 0x2A d.lane a.lane b.lane
  | .fsub d a b => wLA 0x2B d.lane a.lane b.lane
  | .fmul d a b => wLA 0x2C d.lane a.lane b.lane
  | .ffma d a b => wLA 0x2D d.lane a.lane b.lane
  | .fmin d a b => wLA 0x2E d.lane a.lane b.lane
  | .fmax d a b => wLA 0x2F d.lane a.lane b.lane
  | .fabs d a => wLA 0x30 d.lane a.lane 0
  | .fneg d a => wLA 0x31 d.lane a.lane 0
  | .fclass d a => wLA 0x32 d.lane a.lane 0
  | .hadd2 d a b => wLA 0x33 d.lane a.lane b.lane
  | .hmul2 d a b => wLA 0x34 d.lane a.lane b.lane
  | .hfma2 d a b => wLA 0x35 d.lane a.lane b.lane
  | .badd2 d a b => wLA 0x36 d.lane a.lane b.lane
  | .bmul2 d a b => wLA 0x37 d.lane a.lane b.lane
  | .bfma2 d a b => wLA 0x38 d.lane a.lane b.lane
  | .cvt d a x y => wLA 0x39 d.lane a.lane (x * 2 ^ 4 + y)
  | .cvtpk d a x y => wLA 0x3A d.lane a.lane (x * 2 ^ 4 + y)
  | .cvtn d a x y => wLA 0x3B d.lane a.lane (x * 2 ^ 4 + y)
  | .exp2 d a => wLA 0x3C d.lane a.lane 0
  | .log2 d a => wLA 0x3C d.lane a.lane 1
  | .rcp d a => wLA 0x3C d.lane a.lane 2
  | .rsq d a => wLA 0x3C d.lane a.lane 3
  | .sqrt d a => wLA 0x3C d.lane a.lane 4
  | .sin d a => wLA 0x3C d.lane a.lane 5
  | .cos d a => wLA 0x3C d.lane a.lane 6
  | .tanh d a => wLA 0x3C d.lane a.lane 7
  | .shflx d a b => wLA 0x3D d.lane a.lane b.lane
  | .shflu d a b => wLA 0x3E d.lane a.lane b.lane
  | .shfld d a b => wLA 0x3F d.lane a.lane b.lane
  | .shfli d a n => wLA 0x40 d.lane a.lane n
  | .shflw d a n => wLA 0x41 d.lane a.lane n
  | .voteb d a b => wLA 0x42 d.lane a.lane b.lane
  | .lred d a s o => wLA 0x43 d.lane a.lane (s * 2 ^ 3 + o)
  | .scan d a k e o => wLA 0x44 d.lane a.lane (k * 2 ^ 4 + bit e * 2 ^ 3 + o)
  | .lsrLaneid d => wLA 0x45 d.lane 0 0
  | .lsrLpc d a => wLA 0x45 d.lane a.lane 1
  | .lsrSlice d => wLA 0x45 d.lane 0 2
  | .lsrLive d a => wLA 0x45 d.lane a.lane 3
  | .obld s a w h => wLA 0x46 s.lane a.lane (w * 2 ^ 4 + h)
  | .obst d a w h => wLA 0x47 d.lane a.lane (w * 2 ^ 4 + h)
  | .ldl d a w i => wLA 0x48 d.lane a.lane (w * 2 ^ 5 + i)
  | .stl s a w i => wLA 0x49 s.lane a.lane (w * 2 ^ 5 + i)
  | .ldg d a w i => wLA 0x4A d.lane a.lane (w * 2 ^ 5 + i)
  | .stg s a w i => wLA 0x4B s.lane a.lane (w * 2 ^ 5 + i)
  | .lds d a w i => wLA 0x4C d.lane a.lane (w * 2 ^ 5 + i)
  | .sts s a w i => wLA 0x4D s.lane a.lane (w * 2 ^ 5 + i)
  | .ldw d a w i => wLA 0x4E d.lane a.lane (w * 2 ^ 5 + i)
  | .stw s a w i => wLA 0x4F s.lane a.lane (w * 2 ^ 5 + i)
  | .ldp d a w i => wLA 0x50 d.lane a.lane (w * 2 ^ 5 + i)
  | .stp s a w i => wLA 0x51 s.lane a.lane (w * 2 ^ 5 + i)
  | .ldc d a w i => wLA 0x52 d.lane a.lane (w * 2 ^ 5 + i)
  | .lda d a w p c => wLA 0x53 d.lane a.lane (w * 2 ^ 5 + p * 2 ^ 3 + c)
  | .str s a w p c => wLA 0x54 s.lane a.lane (w * 2 ^ 5 + p * 2 ^ 3 + c)
  | .aadd d a b => wLA 0x55 d.lane a.lane b.lane
  | .aincw d a b => wLA 0x56 d.lane a.lane b.lane
  | .adecw d a b => wLA 0x57 d.lane a.lane b.lane
  | .abadd d a b => wLA 0x58 d.lane a.lane b.lane
  | .amin d a b => wLA 0x59 d.lane a.lane b.lane
  | .amax d a b => wLA 0x5A d.lane a.lane b.lane
  | .anmin d a b => wLA 0x5B d.lane a.lane b.lane
  | .anmax d a b => wLA 0x5C d.lane a.lane b.lane
  | .aand d a b => wLA 0x5D d.lane a.lane b.lane
  | .aor d a b => wLA 0x5E d.lane a.lane b.lane
  | .axor d a b => wLA 0x5F d.lane a.lane b.lane
  | .axchg d a b => wLA 0x60 d.lane a.lane b.lane
  | .acas d a b => wLA 0x61 d.lane a.lane b.lane
  | .afadd d a b => wLA 0x62 d.lane a.lane b.lane
  | .afmax d a b => wLA 0x63 d.lane a.lane b.lane
  | .aadd64 d a b => wLA 0x64 d.lane a.lane b.lane
  | .radd a b => wLA 0x65 0 a.lane b.lane
  | .rfadd a b => wLA 0x66 0 a.lane b.lane
  | .rfmax a b => wLA 0x67 0 a.lane b.lane
  | .rmax a b => wLA 0x68 0 a.lane b.lane
  | .rmin a b => wLA 0x69 0 a.lane b.lane
  | .ror a b => wLA 0x6A 0 a.lane b.lane
  | .skq a b => wLA 0x6B 0 a.lane b.lane
  | .skh a b => wLA 0x6C 0 a.lane b.lane
  | .skd a b => wLA 0x6D 0 a.lane b.lane
  | .ska a b => wLA 0x6E 0 a.lane b.lane
  | .bra m n o => wF 0x6F (m * 2 ^ 21 + bit n * 2 ^ 20 + o.toNat)
  | .join => wF 0x70 0
  | .exit => wF 0x71 0
  | .brx a => wLA 0x72 0 a.lane 0
  | .nop => wF 0x80 0
  | .sadd d a b => wUA 0x81 d.uni a.uni b.uni 0
  | .ssub d a b => wUA 0x82 d.uni a.uni b.uni 0
  | .smul d a b => wUA 0x83 d.uni a.uni b.uni 0
  | .smulh d a b => wUA 0x84 d.uni a.uni b.uni 0
  | .sand d a b => wUA 0x85 d.uni a.uni b.uni 0
  | .sor d a b => wUA 0x86 d.uni a.uni b.uni 0
  | .sxor d a b => wUA 0x87 d.uni a.uni b.uni 0
  | .sshl d a b => wUA 0x88 d.uni a.uni b.uni 0
  | .sshr d a b => wUA 0x89 d.uni a.uni b.uni 0
  | .ssar d a b => wUA 0x8A d.uni a.uni b.uni 0
  | .smin d a b => wUA 0x8B d.uni a.uni b.uni 0
  | .smax d a b => wUA 0x8C d.uni a.uni b.uni 0
  | .snmin d a b => wUA 0x8D d.uni a.uni b.uni 0
  | .snmax d a b => wUA 0x8E d.uni a.uni b.uni 0
  | .scmp d a b c => wUA 0x8F d.uni a.uni b.uni c
  | .saddi d a i => wUI 0x90 d.uni a.uni i.toNat
  | .sandi d a i => wUI 0x91 d.uni a.uni i.toNat
  | .sshli d a n => wUI 0x92 d.uni a.uni n
  | .sshri d a n => wUI 0x93 d.uni a.uni n
  | .smovi d i => wF 0x94 (d.uni * 2 ^ 17 + i.toNat)
  | .smovh d i => wF 0x95 (d.uni * 2 ^ 17 + i.toNat)
  | .slea d a i => wUI 0x96 d.uni a.uni i.toNat
  | .sldl d a w i => wUI 0x97 d.uni a.uni (w * 2 ^ 7 + i)
  | .sstl s a w i => wUI 0x98 s.uni a.uni (w * 2 ^ 7 + i)
  | .slds d a w i => wUI 0x99 d.uni a.uni (w * 2 ^ 7 + i)
  | .ssts s a w i => wUI 0x9A s.uni a.uni (w * 2 ^ 7 + i)
  | .sldc d a w i => wUI 0x9B d.uni a.uni (w * 2 ^ 7 + i)
  | .sldg d a w i => wUI 0x9C d.uni a.uni (w * 2 ^ 7 + i)
  | .sstg s a w i => wUI 0x9D s.uni a.uni (w * 2 ^ 7 + i)
  | .mand d a b => wUA 0x9E d a b 0
  | .mor d a b => wUA 0x9F d a b 0
  | .mxor d a b => wUA 0xA0 d a b 0
  | .mnot d a => wUA 0xA1 d a 0 0
  | .m2s d a => wUA 0xA2 d.uni a 0 0
  | .s2m d a => wUA 0xA3 d a.uni 0 0
  | .mpopc d a => wUA 0xA4 d.uni a 0 0
  | .v2s d v b => wUA 0xA5 d.uni v b.uni 0
  | .s2v v a => wUA 0xA6 v a.uni 0 0
  | .br o => wF 0xA7 o.toNat
  | .brz a o => wF 0xA8 (a.uni * 2 ^ 17 + o.toNat)
  | .brnz a o => wF 0xA9 (a.uni * 2 ^ 17 + o.toNat)
  | .call o => wF 0xAA o.toNat
  | .ret => wF 0xAB 0
  | .brxs a => wUA 0xAC 0 a.uni 0 0
  | .dly n => wF 0xAD n
  | .bari k a => wUI 0xAE 0 a.uni k
  | .bara k => wF 0xAF k
  | .barw k => wF 0xB0 k
  | .baraw k => wF 0xB1 k
  | .barst d k => wUI 0xB2 d.uni 0 k
  | .chcfg k a => wUI 0xB3 0 a.uni k
  | .chq d k => wUI 0xB4 d.uni 0 k
  | .waitc c n => wF 0xB5 (c * 2 ^ 8 + n)
  | .fence l k c => wF 0xB6 (bit l * 2 ^ 5 + k * 2 ^ 3 + c)
  | .marm d a b w p => wUA 0xB7 d.uni a.uni b.uni (w * 2 ^ 2 + p)
  | .mwait => wF 0xB8 0
  | .saadd d a b w p => wUA 0xB9 d.uni a.uni b.uni (w * 2 ^ 2 + p)
  | .sacas d a b w p => wUA 0xBA d.uni a.uni b.uni (w * 2 ^ 2 + p)
  | .saxchg d a b w p => wUA 0xBB d.uni a.uni b.uni (w * 2 ^ 2 + p)
  | .copy s d => wUA 0xBC s.uni d.uni 0 0
  | .tilex s d => wUA 0xBD s.uni d.uni 0 0
  | .gather s d i => wUA 0xBE s.uni d.uni i.uni 0
  | .mma c a k ta tb ab za => wF 0xBF (c * 2 ^ 17 + a * 2 ^ 10 + k * 2 ^ 6 + bit ta * 2 ^ 5 + bit tb * 2 ^ 4 + bit ab * 2 ^ 3 + bit za * 2 ^ 2)
  | .mst c d k r s t => wF 0xC0 (c * 2 ^ 17 + d.uni * 2 ^ 10 + k * 2 ^ 6 + r * 2 ^ 3 + bit s * 2 ^ 2 + bit t * 2)
  | .obres k a => wF 0xC1 (k * 2 ^ 20 + a.uni * 2 ^ 10)
  | .obrel k => wF 0xC2 (k * 2 ^ 20)
  | .skmerge s d => wUA 0xC3 s.uni d.uni 0 0
  | .skqrd d o q p => wUA 0xC4 d.uni o.uni q.uni p
  | .skhrd d o q p => wUA 0xC5 d.uni o.uni q.uni p
  | .skdrd d o p => wUA 0xC6 d.uni o.uni 0 p
  | .skinit o s p k => wUA 0xC7 0 o.uni s.uni (p * 2 ^ 2 + k)
  | .skard d o p => wUA 0xC8 d.uni o.uni 0 p
  | .launch a => wUA 0xC9 0 a.uni 0 0
  | .detach => wF 0xCA 0
  | .yield => wF 0xCB 0
  | .srr d n => wUI 0xCC d.uni 0 n
  | .srwMode a => wUI 0xCD 0 a.uni 0x020
  | .srw a n => wUI 0xCD 0 a.uni n
  | .trap c => wF 0xCE c
  | .tret => wF 0xCF 0
  | .tretSkip => wF 0xCF 1
  | .trec a => wUA 0xD0 0 a.uni 0 0
  | .cacheL1inv a => wUI 0xD1 0 a.uni 0
  | .cacheL1all a => wUI 0xD1 0 a.uni 1
  | .cacheL2wb a => wUI 0xD1 0 a.uni 2
  | .cacheL2wbinv a => wUI 0xD1 0 a.uni 3
  | .pref a p => wUI 0xD2 0 a.uni p
  | .fusedSoftmax _ _ _ _ _ _ _ _ _ => wF 0x80 0
  | .gqDepart _ | .cbDepart _ | .routerMerge _ _ | .hsApply _ | .bankApply _ | .loadBind _ | .fcWrap _
  | .walkComplete _ | .resultWriteback _ | .frbDeliver _ | .skip _ | .notHeld _ | .replyData _ | .acknowledgement _
  | .peerFencedReply _ | .departedReply _ | .poisonReply _ | .monitorWake _ | .attachNotice _ | .departureNotice _
  | .requestTimeout _ _ | .slotWithholdExpire _ _ | .flushMarker _ | .flushAcknowledgement _ | .endMarker _
  | .engineAccept _ | .engineComplete _ | .erqReport _ _ | .barrierArrival _ | .summaryApply _ | .skmergeApply _
  | .bulkTimeout _ | .trapDeliver _ | .pageFaultReplay _ _ | .preemptDeliver _ | .blockFreeze _ | .groupEnd _
  | .blockStart _ | .rankPrepare _ _ _ | .slotStart _ | .roundFinalise | .selfFence | .chargeContribute
  | .roundMessage _ | .contributionFetchRequest _ | .contributionFetchReply _ | .snapshotRequest _
  | .snapshotChunk _ | .finalSetContribution _ | .joinContribute _ | .flitArrive _ _ | .nakTimerExpire _
  | .linkAck _ _ | .linkNak _ _ | .linkCredit _ _ _ | .tailEnd _ | .laneFault _ | .portSend _ | .relayForward _
  | .bulkSegment _ | .bulkReadRequest _ | .slotChunkCombine _ _ | .mailboxMessage _ _ _ | .doorbell _
  | .launchGrid _ | .write _ | .signal _ | .wait _ | .writeSignal _ | .hostcopy _ | .turnEnd _ | .pageTableChange _
  | .invalidationComplete | .handleCreate _ | .handleDestroy _ _ | .handleFree _ _ | .contextDescriptorWrite _ _
  | .killRequest _ _ | .attestationRequest _ | .watchdogExpire _ | .thermalTrip _ | .dumpCommand | .fatalError _
  | .dumpAcknowledge | .powerOn _ | .softError _ | .warmReset | .hostCoreAccess _ | .slotRequest _ | .issueGating _ => wF 0x80 0

/-! ### Words that the spec works out -/

theorem decode_iadd : decodeWord 0x01050607 = .ok (.iadd (.reg 5) (.reg 6) (.reg 7)) := by rfl

theorem decode_pfx_ffma : decodeWord 0x00310D00 = .ok (.pfx
    { mask := 1, z := true, neg := false, rnd := 1,
      vc := .reg 13, space := 0, scope := 0, order := 0, sat := false }) := by rfl

end Sys2Proof
end

