-- ==== Sys2Proof/Config.lean ====
section
/-! DEFINITION. What the spec leaves open: free values and functions that no proof can see (log 6 to 11). -/

namespace Sys2Proof.Config

/-- Which value a register read too early returns (R322): true for the value before the producer. -/
opaque earlyRead : Nat → Nat → Bool

/-- How many nanoseconds of PODTIME the n-th step takes (R5, R147). -/
opaque elapsed : Nat → Nat

/-- Whether a special function returns the upper of the two values its accuracy allows (R276), by function code and
input. -/
opaque sfuUpper : Nat → Word → Bool

/-- How far RSQ stands from the lower neighbour within its one ulp (R276). -/
opaque rsqStep : Word → Nat

/-- Whether the distinct-count estimate takes the upper neighbour of its logarithm (R294), by its arguments. -/
opaque dcrUpper : Nat → Nat → Bool

/-- The sign a device gives a zero RFMAX of +0 and −0 (R69): true for −0. -/
opaque rfmaxNegZero : Nat → Bool

/-- Whether the first of two writers of one byte in one engine operation comes last (R419), by use. -/
opaque overlapWins : Nat → Bool

/-- SHA-512/256 (R157, R199, R206) of a byte image given as address and byte pairs. -/
opaque sha512_256 : List (Nat × Byte) → BitVec 256

/-- SHA-512 (R249, R250). -/
opaque sha512 : List Byte → BitVec 512

/-- Whether an RSA-4096 signature over a digest verifies under the key fused into the package (R249). -/
opaque rsaVerify : BitVec 512 → List Byte → Bool

/-- The signature of the module's device key (R250). -/
opaque deviceSign : List (BitVec 512) → BitVec 256 → BitVec 4096

/-- Whether a dark port trains when ctl4 tries at a rotation boundary (R142). -/
opaque retrains : Nat → Bool

/-- Whether a gather of a chip's markers awaits a path by a fenced chip (R163): the fenced chip, the source, the number. -/
opaque awaitsVia : Nat → Nat → Nat → Bool

/-- Which line of a set of the L1 or of a home slice the device gives up (R63, R66), by use. -/
opaque victim : Nat → Nat

/-- How many bytes of an access that is not single-copy atomic the home slice applies next (R88, R123), by use. -/
opaque piece : Nat → Nat

/-- Whether the port at the other end of a port is dark in a slot (R142), by slot times 64 and port. -/
opaque farDark : Nat → Bool

/-- Numbers that place the pod's clock for a module that boots after formation (R147), by use. -/
opaque podAge : Nat → Nat

/-- The cores that ctl3 finds to have failed by a slot (R202): the spec gives no event by which it does. -/
opaque failedCores : Nat → BitVec 256

/-- Whether a relay reduction slot of another module grants credit to a source (R170), by use. -/
opaque slotCredit : Nat → Bool

/-- What a host core reads of poisoned memory, by use (R139). -/
opaque poisonedHost : Nat → DWord

/-- How many messages a receiver has taken from a mailbox ring since it was last looked at (R227). -/
opaque mailTaken : Nat → Nat

/-- Whether a control core knows a request code (R228): the receiver, the code. -/
opaque knownRequest : Nat → Byte → Bool

/-- The queue and the address of its descriptor that a request to ctl0 registers (R234); the spec gives the messages no layout. -/
opaque requestQueue : List Byte → Option (Nat × Nat)

/-- The event that ctl0 contributes for a request of the operating system (R202, R239), by its type and its payload; the spec
gives the messages no layout. -/
opaque requestEvent : List Byte → Option (Nat × List Byte)

end Sys2Proof.Config
end

