-- ==== Sys2Proof/Machine/State.lean ====
section
/-! DEFINITION. The state of one A7200 module (R83, R172, R199): plain data, with everything the spec gives the machine.
Maps are lists of key and value pairs with keys rising and no entry equal to the map's default (Machine/Sparse.lean). -/

namespace Sys2Proof.Machine

/-! ### Groups and lanes -/

/-- The state of a lane (R172). -/
inductive LaneState where
  | run
  | parked
  | held
  | exited
  deriving DecidableEq, Repr

/-- What belongs to one lane besides its registers: PC and state (R172), age (R173), SR count (R266), and its part of
the trap shadow (R240). -/
structure Lane where
  pc : Word
  st : LaneState
  age : Nat
  sr : Word
  shPc : Word
  shSt : LaneState
  deriving DecidableEq, Repr

/-- The handler a group is in (R240, R243, R245): `saved` after TRET from the save handler, `restored` after TRET from
the restore handler, until every group of the block has done the same. -/
inductive Handler where
  | none
  | trap
  | save
  | restore
  | saved
  | restored
  deriving DecidableEq, Repr

/-- Why a group issues nothing (R195, R173, R323). -/
inductive Wait where
  | nothing
  | channel
  | barrier
  | counter
  | monitor
  | counterFull
  | scoreboard
  | release
  | lowerLanes
  | walk
  | store
  | slot
  deriving DecidableEq, Repr

/-- A trap as the trap record reports it (R242), apart from MERR, which is read at delivery. -/
structure TrapInfo where
  code : Nat
  indeterminate : Bool
  uniform : Bool
  async : Bool
  prefixed : Bool
  pc : Word
  lanes : DWord
  addr : DWord
  lane : Nat
  widthc : Nat
  word : Word
  pfxWord : Word
  aux : DWord
  deriving DecidableEq, Repr

/-- The destination of a result that the register scoreboard holds (R323, R364); `held` for the bytes of a peer's summary
object, which wait for the read word that asked for them (R438), and `lost` once one of them has failed; `ob` for an OBLD whose bytes are still to be
written (R376). -/
inductive ResDst where
  | lane (l : Nat) (regs : List Nat)
  | uniform (regs : List Nat)
  | push (k : Nat)
  | discard
  | held
  | lost
  | ob
  deriving DecidableEq, Repr

/-- A result the register scoreboard holds (R323): `width` bytes, of which the entries still to bind are counted in
`left`; `value` gathers what has bound. -/
structure PendRes where
  id : Nat
  dst : ResDst
  width : Nat
  left : Nat
  value : Nat
  deriving DecidableEq, Repr

/-- A fixed-latency result that consumers may still read too early (R321, R322): the value the register (or the mask
bit) held before, until clock `ready`. -/
structure Hazard where
  isMask : Bool
  reg : Nat
  lane : Nat
  old : Word
  ready : Nat
  deriving DecidableEq, Repr

/-- The engine classes (R115): cp, xf, ms, sk by the codes of R318. -/
structure ErqEnt where
  cls : Nat
  op : Nat
  finished : Bool
  status : Nat
  deriving DecidableEq, Repr

/-- The monitor's state (R117). -/
inductive MonState where
  | idle
  | pending
  | armed
  | fired
  deriving DecidableEq, Repr

/-- An uncorrectable error that waits in a register or in the matrix unit until it is read (R79, R80, R62). -/
inductive BadReg where
  | lane (l r : Nat)
  | uniform (r : Nat)
  | mask (r : Nat)
  | accumulator
  | array
  | obRead
  deriving DecidableEq, Repr

/-- A walk's bad end, kept for the word that started it (R41). -/
inductive WalkEnd where
  | tableError
  | noWrite
  | noFetch
  | notMapped
  deriving DecidableEq, Repr

/-- The ordering kinds (R89). -/
inductive Kind where
  | rc
  | so
  | uo
  deriving DecidableEq, Repr

structure WalkOut where
  page : Nat
  write : Bool
  out : WalkEnd
  deriving DecidableEq, Repr

/-- A group in replay of PAGE_FAULT (R42, R197): the virtual addresses of the lanes that raised it. -/
structure Replay where
  pages : List Nat
  deriving DecidableEq, Repr

/-- A flush in progress (R112): its number, its paths and the destinations that have still to acknowledge; `fenced` when it ends with
PEER_FENCED (R163), which the release or fence that waits on it has still to report. -/
structure Flush where
  number : Nat
  paths : List (Nat × Nat)
  awaited : List Nat
  fenced : Bool
  deriving DecidableEq, Repr

/-- One group (R172, R183); `port2` is what the second port has still to issue in this cycle, and `stuck` the primary's PC and lanes
while its instruction waits (R173). `owes` are the stores of other groups that its loads have bound from the L1 before they were applied, with
the loads' places in program order (R125); `probed` what a walk for CACHE or PREF has found at an address (R39). -/
structure Group where
  resident : Bool
  block : Nat
  gid : Nat
  lanes : List (Nat × Lane)
  v : List (Nat × Word)
  s : List (Nat × DWord)
  m : List (Nat × DWord)
  mode : DWord
  merr : DWord
  trec : List (Nat × DWord)
  hf0 : Bool
  hf1 : Bool
  handler : Handler
  seen : BitVec 16
  allow : List (Nat × Nat)
  prod : BitVec 16
  erq : List ErqEnt
  mon : MonState
  monEntry : Nat
  monTag : Nat
  monPos : Option Nat
  floor : Nat
  owes : List (Nat × Nat)
  paths : List (Nat × Nat)
  flush : Option Flush
  async : List TrapInfo
  sync : Option TrapInfo
  preempt : Bool
  waiting : Wait
  arrived : Bool
  replay : Option Replay
  walked : List WalkOut
  probed : Option (Nat × Option (Nat × Kind × Bool))
  dlyUntil : Nat
  hazards : List Hazard
  results : List PendRes
  port2 : Option (Word × List Nat)
  stuck : Option (Word × List Nat)
  rel : Option (Word × Bool)
  nextSeq : Nat
  soLast : Option Nat
  bad : List BadReg
  ended : Bool
  stopped : Bool
  deriving DecidableEq, Repr

/-! ### Blocks -/

/-- An OB reservation (R425): where its run of granules starts, how many it has, and its 64-byte record. -/
structure ObHandle where
  start : Nat
  gran : Nat
  record : List Byte
  deriving DecidableEq, Repr

/-- A watch that a bank or a home slice holds for a monitor (R117): the 8-byte unit, whose monitor it is (of another chip's, the core), which MARM
entered it, and the tag, context and CGEN that its MARM carried (R132). -/
structure Watch where
  unit : Nat
  pos : Nat
  group : Nat
  entry : Nat
  tag : Nat
  ctx : Nat
  cgen : Nat
  deriving DecidableEq, Repr

/-- Where a gang member stands (R190): its pod position, its block key there, its scratchpad allocation (R14), and
whether it has departed. -/
structure Member where
  pos : Nat
  block : Nat
  alloc : Nat
  present : Bool
  departed : Bool
  deriving DecidableEq, Repr

/-- One block (R183). Its key is that of its leader group; `fresh` while its groups have still to wait for the attach of their
gang (R190, R194, R245). -/
structure Block where
  resident : Bool
  ctx : Nat
  grid : Nat
  blockId : Nat
  groups : List Nat
  regs : Nat
  scr : Nat
  obg : Nat
  gsz : Nat
  gangIdx : Nat
  members : List (Nat × Member)
  departed : Bool
  acks : List Nat
  frozen : Bool
  restoring : Bool
  preempting : Bool
  fresh : Bool
  tStart : Nat
  started : Bool
  held : Bool
  shrunk : Nat
  reported : Nat
  finished : Bool
  killed : Bool
  spad : List Host.Cell
  spadBad : List Nat
  ob : List Host.Cell
  obBad : List Nat
  handles : List (Nat × ObHandle)
  pushers : List (Nat × Nat)
  watches : List Watch
  deriving DecidableEq, Repr

/-- What ctl1 keeps of a block that was saved here (R193, R245, R425): its OB handles, whether it had departed, and the
members that had. -/
structure SavedBlock where
  handles : List (Nat × ObHandle)
  departed : Bool
  gone : List Nat
  deriving DecidableEq, Repr

/-! ### Entries in flight -/

/-- The address spaces (R7, R307). -/
inductive Space where
  | global
  | virt
  | scratch
  | window
  | priv
  deriving DecidableEq, Repr

/-- The atomics of R370 and R403. -/
inductive AtomOp where
  | add | incw | decw | badd | min | max | nmin | nmax | and | or | xor | xchg | cas | fadd | fmax
  deriving DecidableEq, Repr

/-- The reductions of R373. -/
inductive RedOp where
  | add | fadd | fmax | max | min | or
  deriving DecidableEq, Repr

/-- The summary objects (R277): the codes of SKINIT (R416). -/
inductive SkKind where
  | qsk | hhl | dcr | amx
  deriving DecidableEq, Repr

/-- What an entry does where it is applied (R85); `engWin` is an engine's access to a gang window on another chip
(R420), and `obld` the bytes, by their offsets in the reservation of a handle, that an OBLD has still to write (R376). -/
inductive EntOp where
  | load
  | store
  | atom (op : AtomOp)
  | red (op : RedOp)
  | insert (kind : SkKind) (vals : List Word)
  | skinit (kind : SkKind) (seed : Nat)
  | marm (expected : Nat)
  | arrive (k : Nat) (bits : DWord)
  | push (k : Nat) (group : Nat)
  | fence (kind : Nat) (all : Bool)
  | engine (op : Nat)
  | engWin (op : Nat) (read : Bool)
  | obld (handle : Nat) (bytes : List (Nat × Byte))
  deriving DecidableEq, Repr

/-- Where an entry is applied: memory of this chip at a physical address, a scratchpad of this chip, another chip at a
grid-global or window address, or nowhere (a fence). -/
inductive Target where
  | memory (pa : Nat)
  | bank (block off : Nat)
  | remote (pos : Nat) (win : Bool) (addr : Nat)
  | nowhere
  deriving DecidableEq, Repr

/-- The component that holds an entry (R83): its group queue, the core buffer, the bank port, the die network on the
way to its home slice, or a fabric flow. -/
inductive Stage where
  | gq
  | cb
  | bank
  | net
  | flow
  deriving DecidableEq, Repr

/-- Who issued an entry: a group of this chip, or another chip whose message it came by. -/
inductive Issuer where
  | group (g : Nat)
  | peer (pos : Nat) (msg : LsMsg)
  deriving DecidableEq, Repr

/-- One entry of the ordering machine (R83, R85): `seq`, `lane` and `sub` give its place in program order, `addr` the
address its word formed, `res` the result it binds and `off` its first byte within the access; `whole` are the sectors
that its instruction covers entirely (R75), `dscope` the default scope of its space, which the SO departure rule uses
(R95), `priv` marks a private access (R12), `opc` is the OP of its LS message (R153), `waits` is the result whose value a
push still waits for (R364), `early` are the bytes, by their place in the entry, that a load has taken from the L1 (R100), `prior` is the SO entry
that precedes it immediately in its group's program order (R90), and `begun` says that a part of it is applied (R88, R132). -/
structure Entry where
  id : Nat
  issuer : Issuer
  core : Nat
  ctx : Nat
  cgen : Nat
  seq : Nat
  sub : Nat
  lane : Option Nat
  pc : Word
  op : EntOp
  target : Target
  addr : Nat
  kind : Kind
  nc : Bool
  priv : Bool
  scope : Nat
  dscope : Nat
  acq : Bool
  rel : Bool
  size : Nat
  off : Nat
  res : Option Nat
  data : Nat
  data2 : Nat
  whole : List Nat
  byHandler : Bool
  opc : Nat
  wcode : Nat
  word : Word
  pfxWord : Word
  prefixed : Bool
  tag : Nat
  fseq : Nat
  epoch : Nat
  merged : List Nat
  waits : Option Nat
  early : List (Nat × Byte)
  prior : Option Nat
  begun : Bool
  stage : Stage
  deriving DecidableEq, Repr

/-! ### Engine operations -/

/-- The asynchronous engine operations (R421). -/
inductive EngKind where
  | copy | gather | tilex | mst | skmerge | hostcopy
  deriving DecidableEq, Repr

/-- A tile record as read (R418). -/
structure TileRec where
  base : Nat
  fmt : Nat
  space : Nat
  direct : Bool
  c4 : Bool
  red : Nat
  raxis : Nat
  barv : Bool
  bar : Nat
  d0 : Nat
  d1 : Nat
  d2 : Nat
  vr : Nat
  vc : Nat
  rank : Nat
  s1 : Nat
  s2 : Nat
  rmask : Nat
  efb : Nat
  gx : Int
  gy : Int
  gz : Int
  rslot : Nat
  flagOff : Nat
  dx : Nat
  dy : Nat
  deriving DecidableEq, Repr

/-- How far an engine operation has come (R114, R115). -/
inductive OpStage where
  | queued
  | left
  | accepted
  | remoteRead
  | moved
  | finished
  deriving DecidableEq, Repr

/-- An engine operation (R115): its command, the records read at issue, what MST read from the lanes, and its status
bits (R421). `list` holds GATHER's list offset, and from acceptance on its indices, each doubled, plus 1 where the index
was poisoned; `typ` is 0 until SKMERGE's TYPE byte is read, then one more than it; `image` holds the bytes fetched of a
source on another chip, with the addresses of those that were poisoned. `cargo` holds the elements read so far (destination bit, code with a block's
scale code above it, poison), `given` how far each target has got them, and `dead` says that it moves nothing (any more) (R35, R421). -/
structure EngineOp where
  id : Nat
  kind : EngKind
  cls : Nat
  group : Nat
  block : Nat
  core : Nat
  ctx : Nat
  cgen : Nat
  src : TileRec
  dst : TileRec
  handle : Nat
  list : List Nat
  elems : List (Nat × Nat × Nat)
  summary : List Word
  amx : Nat
  qsk : Nat
  typ : Nat
  stage : OpStage
  status : Nat
  targets : List Nat
  awaited : List Nat
  opnum : Nat
  image : List Host.Cell
  imageBad : List Nat
  cargo : List (Nat × Nat × Bool)
  given : List (Nat × Nat)
  dead : Bool
  deriving DecidableEq, Repr

/-! ### Translation -/

/-- A TLB entry (R38). -/
structure TlbEnt where
  ctx : Nat
  va : Nat
  bits : Nat
  pa : Nat
  w : Bool
  x : Bool
  kind : Kind
  exp : Bool
  nc : Bool
  d : Bool
  deriving DecidableEq, Repr

/-- A page walk in progress (R39): who waits for it, a group or, where `peer` is set, requests of other chips (R23), what it translates, and the
die's epoch when it started (R45); one for CACHE or PREF is `quiet`, and changes neither the tables nor a TLB (log 105). -/
structure Walk where
  id : Nat
  group : Nat
  core : Nat
  ctx : Nat
  va : Nat
  write : Bool
  fetch : Bool
  epoch : Nat
  peer : Bool
  quiet : Bool
  deriving DecidableEq, Repr

/-- A page-table change whose invalidation is not complete (R44): entries named before `before` may be translated under the old entry, and the
pages that the change frees, each an address and the bits of its size, may not be reused yet. -/
structure Inval where
  before : Nat
  freed : List (Nat × Nat)
  req : Option (List Byte)
  deriving DecidableEq, Repr

/-- A page pinned by a region handle (R33). -/
structure Pin where
  va : Nat
  bits : Nat
  pa : Nat
  kind : Kind
  nc : Bool
  deriving DecidableEq, Repr

/-- The state of a handle entry (R33). -/
inductive HandleState where
  | free
  | live
  | draining
  deriving DecidableEq, Repr

/-- A handle entry (R33); `users` are the commands accepted on it that have not retired (R37). -/
structure HandleEnt where
  base : Nat
  length : Nat
  rd : Bool
  wr : Bool
  st : HandleState
  pins : List Pin
  users : List Nat
  deriving DecidableEq, Repr

/-- A context descriptor (R229). -/
structure CtxDesc where
  state : Nat
  tmo : Nat
  root : Nat
  traph : Nat
  saveh : Nat
  resth : Nat
  crec : Nat
  htab : Nat
  deriving DecidableEq, Repr

/-- A grid as prepared on this chip (R230, R232); `bankBad` are the poisoned sectors of its constant bank's copy (R25, R74). -/
structure GridPrep where
  codeBase : Nat
  codeLen : Nat
  entry : Nat
  privBase : Nat
  psize : Nat
  saveBase : Nat
  saveStride : Nat
  bank : List Host.Cell
  bankBad : List Nat
  deriving DecidableEq, Repr

/-! ### L2 -/

/-- A line in its home slice (R66): the sectors that have been filled, and whether it has been written. -/
structure L2Line where
  sectors : BitVec 4
  dirty : Bool
  deriving DecidableEq, Repr

/-! ### Cores -/

/-- A sector of an L1 (R63, R101): its 32 bytes and its fill stamp. -/
structure L1Sector where
  bytes : List Byte
  stamp : Nat
  deriving DecidableEq, Repr

/-- A request slot (R136, R137); `resent` once a request has been answered NOT_HELD (R24, R108); `vias` are the
relays that it went by (R163). -/
structure ReqSlot where
  gen : Nat
  inUse : Bool
  resent : Bool
  withheld : Bool
  entry : Nat
  since : Nat
  limit : Nat
  vias : List Nat
  deriving DecidableEq, Repr

/-- A core (R83): `l1` by sector number, `slots` by slot number. -/
structure Core where
  l1 : List (Nat × L1Sector)
  fc : Nat
  tlb : List TlbEnt
  slots : List (Nat × ReqSlot)
  stale : Nat
  deriving DecidableEq, Repr

/-- A core with nothing in it. -/
abbrev Core.empty : Core := { l1 := [], fc := 0, tlb := [], slots := [], stale := 0 }

/-! ### Fabric -/

/-- The fabric parameters (R144). -/
structure FabParams where
  slotLen : Nat
  guard : Nat
  span : Nat
  active : Nat
  rateDiv : Nat
  deriving DecidableEq, Repr

/-- The receiver of a link (R160). -/
inductive RxState where
  | run
  | nak
  | down
  deriving DecidableEq, Repr

/-- Both halves of a port's link in this slot (R160): the receiver's state, expected number, NAK count and incomplete
message; the sender's next number, the flit times of this slot that have passed (R146), its replay buffer, and the messages whose flits wait for acknowledgement; link messages that wait for room in that
buffer; and whether the tail has passed (R161). -/
structure Link where
  rx : RxState
  e : Nat
  n : Nat
  timer : Bool
  partialMsg : List (List Byte)
  txNext : Nat
  ticks : Nat
  replayBuf : List (Nat × Flit)
  unacked : List (Nat × Nat × Nat)
  lsUsed : Nat
  bkUsed : Nat
  toSend : List Flit
  dueAck : Bool
  dueNak : Bool
  closed : Bool
  deriving DecidableEq, Repr

abbrev Link.empty : Link :=
  { rx := .run, e := 0, n := 0, timer := false, partialMsg := [], txNext := 0, ticks := 0, replayBuf := [], unacked := [],
    lsUsed := 0, bkUsed := 0, toSend := [], dueAck := false, dueNak := false, closed := false }

/-- A message that waits at the ports or in a path queue (R111, R150): its path, `via` 0xFFFF for direct; its HOP number with
the position that received it (R159); whether a port has sent it; whether it came by this relay (R149); and the slot in which it was handed back (R161). -/
structure OutMsg where
  id : Nat
  msg : Msg
  dst : Nat
  via : Nat
  hop : Option (Nat × Nat)
  sent : Bool
  relayed : Bool
  after : Option Nat
  deriving DecidableEq, Repr

/-- A message in the relay buffer (R149), with the slot in which it came (R148). -/
structure RelayItem where
  msg : Msg
  src : Nat
  dst : Nat
  bulk : Bool
  flits : Nat
  slot : Nat
  deriving DecidableEq, Repr

/-- A bulk operation as its source counts it to one destination (R154, R164), the `goal`-th target of its engine operation, with the block that issued it: the segments made so far, whether they are
all placed, whether its end markers are (R113), and whether one of these was lost with its relay (R163). -/
structure BulkOp where
  opnum : Nat
  engine : Nat
  group : Nat
  block : Nat
  grid : Nat
  blockId : Nat
  ctx : Nat
  dst : Nat
  paths : List Nat
  since : Nat
  limit : Nat
  reported : Bool
  stopped : Bool
  status : Nat
  flag : Nat
  segs : Nat
  whole : Bool
  marked : Bool
  lost : Bool
  goal : Nat
  deriving DecidableEq, Repr

/-- What a destination knows of a bulk operation (R459, R161): whether its extent was judged good, its status, the
segments applied, the handle it holds (R37), where its extent starts, how many sources' flags its refusal has reached (R435), and the bytes of a
summary object that wait for the end markers (R437). -/
structure BulkIn where
  src : Nat
  opnum : Nat
  ctx : Nat
  good : Bool
  status : Nat
  segs : List Nat
  handle : Nat
  lo : Nat
  told : Nat
  object : List Host.Cell
  objectBad : Bool
  deriving DecidableEq, Repr

/-- Markers gathered at a destination (R112, R113): `typ` 0 by (source, core, slot, number), 1 by (source, number). -/
structure Gather where
  typ : Nat
  src : Nat
  core : Nat
  gslot : Nat
  number : Nat
  ctx : Nat
  cgen : Nat
  paths : Nat
  got : List Nat
  status : Nat
  flag : Nat
  deriving DecidableEq, Repr

/-- A contribution of one operation that a relay reduction slot holds for a chunk (R170): element codes by destination offset, or with
`c4` the e2m1 code plus 16 times the block's scale code. -/
structure SlotPart where
  slot : Nat
  chunk : Nat
  rank : Nat
  src : Nat
  opnum : Nat
  ctx : Nat
  dest : Nat
  fmt : Nat
  c4 : Bool
  vals : List (Nat × Nat)
  bad : Bool
  deriving DecidableEq, Repr

/-- An operation of a source that a relay reduction slot serves (R170, R435): the chunks it contributed to and those
forwarded, the paths they went, the arrival flag that follows them, and the name by which it holds the handle of a destination on this chip (R37), and the
numbers under which its chunks went to another one. -/
structure SlotOp where
  src : Nat
  opnum : Nat
  slot : Nat
  ctx : Nat
  dest : Nat
  chunks : List Nat
  gone : List Nat
  paths : List Nat
  flag : Nat
  status : Nat
  ended : Bool
  user : Nat
  nums : List Nat
  deriving DecidableEq, Repr

/-- A TILEX of this chip whose destination lies here and whose data goes by a relay reduction slot of another module: the name by which it holds its
destination's handle, the slot's module and number, and the chunks that have still to come from it (R37). -/
structure SlotWait where
  user : Nat
  pos : Nat
  slot : Nat
  ctx : Nat
  index : Nat
  chunks : List Nat
  deriving DecidableEq, Repr

/-- A peer's summary object as it stood when the first of the messages that read it was applied (R299): by the requester's position and core and the name that the read has there. -/
structure ObjHold where
  key : Nat
  base : Nat
  bytes : List Byte
  bad : Bool
  deriving DecidableEq, Repr

/-- The fabric endpoint of the module (05). The debts count the credit that this chip has used at each relay, the owed ones
the credit that it has still to return to each source (R149); `flushNos` holds each group slot's next flush number (R112), those of the
submission queues from 8192 on; `nextIn` is the lowest number of an ordered flow that has not been applied, `delivered` the numbers delivered of an unordered one (R107), and `linesBack` holds
the numbers of rc that were answered NOT_HELD, with their lines (R109); `farDark` are the ports whose partner's port is dark in this slot (R142); `slotLost` names the chunks of a slot that a
fenced source leaves unfinished, with its rank (R171); `bulkWaits` are bulk messages for ranks that this chip does not hold yet (R24, R420); `lsFree` are the fenced positions whose LS and round messages are not refused (R225). -/
structure Fabric where
  pos : Nat
  params : FabParams
  t0 : Nat
  s0 : Nat
  podtime : Nat
  slot : Nat
  dark : List Nat
  fenced : List Nat
  lsFree : List Nat
  occupied : List Nat
  flowSeq : List (Nat × Nat)
  delivered : List (Nat × List Nat)
  nextIn : List (Nat × Nat)
  frb : List LsMsg
  lsOut : List OutMsg
  bulkOut : List OutMsg
  ctlOut : List OutMsg
  relay : List RelayItem
  lsDebt : List (Nat × Nat)
  bulkDebt : List (Nat × Nat)
  lsOwed : List (Nat × Nat)
  bulkOwed : List (Nat × Nat)
  links : List (Nat × Link)
  hopSent : List (Nat × Nat)
  hopSeen : List (Nat × List Nat)
  flushNos : List (Nat × Nat)
  nextOp : Nat
  bulkOps : List BulkOp
  bulkIn : List BulkIn
  gathers : List Gather
  slotParts : List SlotPart
  slotOps : List SlotOp
  winMerge : List (Nat × List Byte)
  linesBack : List (Nat × List (Nat × Nat))
  farDark : List Nat
  slotLost : List (Nat × Nat × Nat)
  objHold : List ObjHold
  slotWaits : List SlotWait
  bulkWaits : List Msg
  deriving DecidableEq, Repr

/-! ### Timetable and Ductus -/

/-- The pod parameters row (R199). -/
structure PodRow where
  slotLen : Nat
  guard : Nat
  span : Nat
  active : Nat
  rateDiv : Nat
  slice : Nat
  cfgRound : Nat
  deriving DecidableEq, Repr

/-- A context row (R199): STATE 0 free, 1 active, 2 blocked, 3 killing, 4 dead. -/
structure CtxRow where
  state : Nat
  part : Nat
  share : Nat
  pend : Nat
  cgen : Nat
  vt : Nat
  acc : Nat
  deriving DecidableEq, Repr

/-- A grid row (R199): STATE 0 free, 1 admitted, 2 ended, 3 killed. -/
structure GridRow where
  state : Nat
  flags : Nat
  ctx : Nat
  parent : Nat
  depth : Nat
  groups : Nat
  nranks : Nat
  gsz : Nat
  bpr : Nat
  regs : Nat
  obg : Nat
  scrKib : Nat
  children : Nat
  next : Nat
  ended : Nat
  admitRound : Nat
  desc : Nat
  expLen : Nat
  origin : Nat
  deriving DecidableEq, Repr

/-- A unit row (R199, R220): STATE 0 free, 1 reserved, 2 running, 3 pre-empting, 4 waiting; `saves` is DONE. Beside the row
stand the blocks it counts (R193, R212, R217, R220), for which R199 has no field (log 40): those that have ended without a row any more,
those marked RESTART, the members that have departed, the positions that have reported their save, and how many members
the grid's ENDED counts already. -/
structure UnitRow where
  grid : Nat
  state : Nat
  saved : Bool
  restart : Bool
  index : Nat
  commit : Nat
  runFrom : Nat
  departed : Nat
  saves : Nat
  gone : List Nat
  again : List Nat
  left : List Nat
  told : List Nat
  counted : Nat
  deriving DecidableEq, Repr

/-- A residency row (R199). -/
structure ResRow where
  grid : Nat
  shrunk : Nat
  block : Nat
  pos : Nat
  core : Nat
  held : Bool
  relocate : Bool
  unit : Nat
  deriving DecidableEq, Repr

/-- A core row (R199): the resources still free. -/
structure CoreRow where
  status : Nat
  slots : Nat
  regKib : Nat
  scrKib : Nat
  obg : Nat
  blocks : Nat
  deriving DecidableEq, Repr

/-- A membership row (R199). -/
structure MemberRow where
  member : Bool
  absent : Nat
  deriving DecidableEq, Repr

/-- A reduction slot row (R199). -/
structure SlotRow where
  held : Bool
  fmt : Nat
  op : Nat
  ctx : Nat
  grid : Nat
  dest : Nat
  srcBase : Nat
  srcMask : Nat
  deriving DecidableEq, Repr

/-- The Timetable (R199): free rows are not listed. Core rows are keyed by position × 256 + core, slot rows by
position × 16 + slot; `rankMap` holds the positions of a grid's ranks 0 to NRANKS − 1. -/
structure Timetable where
  pod : PodRow
  partition : List (Nat × List Nat)
  ctxs : List (Nat × CtxRow)
  grids : List (Nat × GridRow)
  rankMap : List (Nat × List Nat)
  units : List (Nat × UnitRow)
  rows : List (Nat × ResRow)
  cores : List (Nat × CoreRow)
  members : List (Nat × MemberRow)
  slots : List (Nat × SlotRow)
  deriving DecidableEq, Repr

/-- A contribution (R206): what a round message carries besides its ack records. -/
structure Contribution where
  origin : Nat
  round : Nat
  digest : BitVec 256
  events : List EvRec
  deriving DecidableEq, Repr

/-- What a module is to its pod (R214, R225, R251). -/
inductive PodRole where
  | off
  | member
  | fencedOff
  | observer
  deriving DecidableEq, Repr

/-- The Ductus endpoint and the Proctor (R206 to R209, R225): `asked` holds the contributions asked for, by round, origin and
of whom; `msgAcks` the ack records that each round message carried, by origin and round; `start` is the first round that this chip contributes to, and the slot
in which its rejoin began for one that observes; `told` are the records of chips that observe, which count in no quorum (R225). -/
structure Ductus where
  role : PodRole
  formation : List Nat
  contribs : List Contribution
  acks : List (Nat × AckRec)
  attempt : Nat
  lowest : Nat
  pendEvents : List EvRec
  nextEvSeq : Nat
  mine : List Contribution
  msgAcks : List (Nat × Nat × List AckRec)
  digests : List (Nat × BitVec 256)
  mHist : List (Nat × List Nat)
  idleSlots : Nat
  told : List (Nat × AckRec)
  snapshots : List (Nat × List Host.Cell)
  finalSets : List (Nat × List Contribution)
  snapRound : Nat
  snapIn : List Host.Cell
  replaySet : List Contribution
  peerDigests : List (Nat × Nat × BitVec 256)
  sponsored : List Nat
  clients : List Nat
  asked : List (Nat × Nat × Nat)
  start : Nat
  snapGot : Nat
  sponsor : Option Nat
  deriving DecidableEq, Repr

/-! ### Control complex -/

/-- A submission queue as ctl0 serves it (R234, R235): the descriptor's physical address, the packet in progress with the
steps it has taken, the bulk paths that its copies took, and its flush (R236). -/
structure SubQueue where
  desc : Nat
  base : Nat
  size : Nat
  ctx : Nat
  tail : Nat
  head : Nat
  busy : Bool
  step : Nat
  op : Nat
  packet : List Byte
  paths : List (Nat × Nat)
  flush : Option Flush
  deriving DecidableEq, Repr

/-- What ctl3 logs (R30, R79, R227, R235, R240, R405). -/
inductive LogItem where
  | tableError (ctx va : Nat)
  | trapLost (group : Nat) (record : List (Nat × DWord))
  | badRegister (group : Nat) (register : BadReg)
  | mailboxOverflow
  | packet (queue : Nat) (why : Nat)
  | completionRecord (ctx addr : Nat)
  | linkFault (port : Nat)
  deriving DecidableEq, Repr

/-- Where the module stands between power-on and its work (R249, R251, R247). -/
inductive BootPhase where
  | off
  | recovery
  | running
  | fatalHeld
  deriving DecidableEq, Repr

/-- A fatal dump (R248): its header, its sections (the Timetable's image, the final sets, the cores' groups and blocks, the
flows, the logs and counts), whether its DONE words are set, and whether the host has acknowledged it. The spec lays out no
bytes of it beyond the Timetable's image (log 50). -/
structure Dump where
  cause : FatalCause
  round : Nat
  digest : BitVec 256
  podtime : Nat
  timetable : List Host.Cell
  sets : List (Nat × List Contribution)
  groups : List (Nat × Group)
  blocks : List (Nat × Block)
  frb : List LsMsg
  flowSeq : List (Nat × Nat)
  slots : List (Nat × List (Nat × ReqSlot))
  paths : List OutMsg
  logs : List LogItem
  counts : List (Nat × Nat)
  finished : Bool
  acknowledged : Bool
  deriving DecidableEq, Repr

/-- The control complex (08): `turnStart` is the CLOCK at the start of ctl0's turn (R237, log 4); `charged` counts the periods of 64 rounds charged (R223); `crecs` holds, by grid row, the address
of the completion record of a grid that this chip submitted, its ADMIT round and the REASON it was killed for (R233); `replies` wait for room
in their ring to the host, `asks` are the host's requests not answered yet, by control core (R227, R228), and `handleAsks` those whose answer
is a handle's retirement, by context × 4096 + index (R37). -/
structure Control where
  phase : BootPhase
  measure : List (Nat × BitVec 512)
  rings : List (Nat × List (List Byte))
  overflow : Bool
  overflows : Nat
  queues : List (Nat × SubQueue)
  turnCtx : Nat
  turnStart : Nat
  overrun : List (Nat × Nat)
  preemptNamed : List Nat
  residency : List (Nat × Nat)
  charged : Nat
  crecs : List (Nat × (Nat × Nat × Nat))
  log : List LogItem
  counts : List (Nat × Nat)
  gating : Bool
  dump : Option Dump
  attested : Option (List (BitVec 512) × BitVec 256 × BitVec 4096)
  hostData : Option DWord
  hostResv : List (Nat × Nat)
  replies : List (Nat × List Byte)
  asks : List (Nat × List Byte)
  handleAsks : List (Nat × List Byte)
  deriving DecidableEq, Repr

/-! ### The machine -/

/-- Which step comes next when it is not the default one (R84, log 4): an event, an issue of a group, the event that an
arrived message is, or one that a link message is. -/
inductive Item where
  | event (i : Instr)
  | issue (group : Nat)
  | message (m : Msg)
  | linkAck (port a : Nat)
  | linkNak (port a : Nat)
  | linkCredit (port ls bulk : Nat)
  deriving DecidableEq, Repr

/-- The word being issued (R173, R314, R315): its group, its PC, the lanes issued at it, the latched PFX, and the raw
words; `port2` for the second port, `issued` once the word has left the issue stage. -/
structure Issue where
  group : Nat
  pc : Word
  sel : List Nat
  pfx : Option Pfx
  word : Word
  pfxWord : Word
  second : Bool
  issued : Bool
  deriving DecidableEq, Repr

/-- The state of the module. Groups are keyed by core × 32 + slot, blocks by their leader's key, context descriptors by
context, handles by context × 4096 + index, export entries by grid × 1024 + rank, saved blocks by grid × 2^32 + BLOCKID. -/
structure State where
  clock : Nat
  groups : List (Nat × Group)
  blocks : List (Nat × Block)
  cores : List (Nat × Core)
  mem : List Host.Cell
  poison : List Nat
  l2 : List (Nat × L2Line)
  watches : List Watch
  l2tlb : List (Nat × List TlbEnt)
  walks : List Walk
  epochs : List (Nat × Nat)
  inval : Option Inval
  handles : List (Nat × HandleEnt)
  ctxs : List (Nat × CtxDesc)
  exports : List (Nat × Nat)
  grids : List (Nat × GridPrep)
  saved : List (Nat × SavedBlock)
  entries : List Entry
  ops : List EngineOp
  fab : Fabric
  tt : Timetable
  duc : Ductus
  ctl : Control
  nextId : Nat
  free : Nat
  agenda : List Item
  cur : Nat
  iss : Issue
  deriving DecidableEq, Repr

/-! ### Values of absent rows -/

/-- A lane of a group that is not resident. -/
abbrev Lane.empty : Lane := { pc := 0, st := .exited, age := 0, sr := 0, shPc := 0, shSt := .run }

/-- A group slot that holds no group. -/
abbrev Group.empty : Group :=
  { resident := false, block := 0, gid := 0, lanes := [], v := [], s := [], m := [], mode := 0, merr := 0, trec := [],
    hf0 := false, hf1 := false, handler := .none, seen := 0, allow := [], prod := 0, erq := [], mon := .idle,
    monEntry := 0, monTag := 0, monPos := none, floor := 0, owes := [], paths := [], flush := none, async := [], sync := none, preempt := false,
    waiting := .nothing, arrived := false, replay := none, walked := [], probed := none, dlyUntil := 0, hazards := [], results := [],
    port2 := none, stuck := none, rel := none, nextSeq := 0, soLast := none, bad := [], ended := false, stopped := false }

/-- A block key that holds no block. -/
abbrev Block.empty : Block :=
  { resident := false, ctx := 0, grid := 0, blockId := 0, groups := [], regs := 0, scr := 0, obg := 0, gsz := 1,
    gangIdx := 0, members := [], departed := false, acks := [], frozen := false, restoring := false,
    preempting := false, fresh := true, tStart := 0, started := false, held := false, shrunk := 0, reported := 0,
    finished := false, killed := false, spad := [], spadBad := [], ob := [], obBad := [], handles := [], pushers := [], watches := [] }

abbrev CtxDesc.empty : CtxDesc :=
  { state := 0, tmo := 0, root := 0, traph := 0, saveh := 0, resth := 0, crec := 0, htab := 0 }

abbrev HandleEnt.empty : HandleEnt :=
  { base := 0, length := 0, rd := false, wr := false, st := .free, pins := [], users := [] }

abbrev GridPrep.empty : GridPrep :=
  { codeBase := 0, codeLen := 0, entry := 0, privBase := 0, psize := 0, saveBase := 0, saveStride := 0, bank := [], bankBad := [] }

abbrev ReqSlot.empty : ReqSlot :=
  { gen := 0, inUse := false, resent := false, withheld := false, entry := 0, since := 0, limit := 0, vias := [] }

abbrev CtxRow.empty : CtxRow := { state := 0, part := 0, share := 0, pend := 0, cgen := 0, vt := 0, acc := 0 }

abbrev GridRow.empty : GridRow :=
  { state := 0, flags := 0, ctx := 0, parent := 0, depth := 0, groups := 0, nranks := 0, gsz := 0, bpr := 0, regs := 0,
    obg := 0, scrKib := 0, children := 0, next := 0, ended := 0, admitRound := 0, desc := 0, expLen := 0, origin := 0 }

abbrev UnitRow.empty : UnitRow :=
  { grid := 0, state := 0, saved := false, restart := false, index := 0, commit := 0, runFrom := 0, departed := 0,
    saves := 0, gone := [], again := [], left := [], told := [], counted := 0 }

abbrev ResRow.empty : ResRow :=
  { grid := 0, shrunk := 0, block := 0, pos := 0, core := 0, held := false, relocate := false, unit := 0 }

/-- A core row of all zeros (R199). -/
abbrev CoreRow.empty : CoreRow := { status := 0, slots := 0, regKib := 0, scrKib := 0, obg := 0, blocks := 0 }

abbrev MemberRow.empty : MemberRow := { member := false, absent := 0 }

abbrev SlotRow.empty : SlotRow :=
  { held := false, fmt := 0, op := 0, ctx := 0, grid := 0, dest := 0, srcBase := 0, srcMask := 0 }

abbrev SubQueue.empty : SubQueue :=
  { desc := 0, base := 0, size := 0, ctx := 0, tail := 0, head := 0, busy := false, step := 0, op := 0, packet := [], paths := [],
    flush := none }

/-! ### Outcomes -/

/-- Why the machine stops. -/
inductive Fault where
  /-- Raised where an entry is applied at a physical address that no memory backs (R70). Safe: the spec gives no effect
  there. -/
  | outsideHbm (pa : Nat)
  deriving DecidableEq, Repr

/-- Why an instruction has no meaning. -/
inductive Refusal where
  /-- Raised by an arm of `exec` whose instruction is not modelled yet. Safe: nothing is claimed of it. -/
  | notModelled (mnemonic : String)
  deriving DecidableEq, Repr

/-! ### Reset -/

/-- The Timetable of a module before it joins a pod (R199, R251): all zero but partition row 0 and the fabric defaults
of R144. -/
abbrev Timetable.reset : Timetable :=
  { pod := { slotLen := 10000, guard := 500, span := 2, active := 64, rateDiv := 1, slice := 200, cfgRound := 0 },
    partition := [], ctxs := [], grids := [], rankMap := [], units := [], rows := [], cores := [], members := [],
    slots := [] }

/-- The machine right after reset: no block is placed, nothing is in flight, and the module is not yet in its pod
(R249). Every register that the spec gives no reset value has the value named in log 1. -/
def State.reset : State :=
  { clock := 0, groups := [], blocks := [], cores := [], mem := [], poison := [], l2 := [], watches := [], l2tlb := [],
    walks := [], epochs := [], inval := none, handles := [], ctxs := [], exports := [], grids := [], saved := [], entries := [],
    ops := [],
    fab := { pos := 0, params := { slotLen := 10000, guard := 500, span := 2, active := 64, rateDiv := 1 }, t0 := 0,
             s0 := 0, podtime := 0, slot := 0, dark := List.range 64, fenced := [], lsFree := [], occupied := [], flowSeq := [],
             delivered := [], nextIn := [], frb := [], lsOut := [], bulkOut := [], ctlOut := [], relay := [],
             lsDebt := [], bulkDebt := [], lsOwed := [], bulkOwed := [], links := [], hopSent := [], hopSeen := [],
             flushNos := [], nextOp := 0, bulkOps := [],
             bulkIn := [], gathers := [], slotParts := [], slotOps := [], winMerge := [], linesBack := [], farDark := [],
             slotLost := [], objHold := [], slotWaits := [], bulkWaits := [] },
    tt := Timetable.reset,
    duc := { role := .off, formation := [], contribs := [], acks := [], attempt := 0, lowest := 0, pendEvents := [],
             nextEvSeq := 0, mine := [], msgAcks := [], digests := [], mHist := [], idleSlots := 0, told := [], snapshots := [], finalSets := [],
             snapRound := 0, snapIn := [], replaySet := [], peerDigests := [], sponsored := [], clients := [], asked := [], start := 0, snapGot := 0,
             sponsor := none },
    ctl := { phase := .off, measure := [], rings := [], overflow := false, overflows := 0, queues := [], turnCtx := 0, turnStart := 0,
             overrun := [], preemptNamed := [], residency := [], charged := 0, crecs := [], log := [],
             counts := [], gating := false, dump := none, attested := none, hostData := none, hostResv := [], replies := [], asks := [], handleAsks := [] },
    nextId := 0, free := 0, agenda := [], cur := 0,
    iss := { group := 0, pc := 0, sel := [], pfx := none, word := 0, pfxWord := 0, second := false, issued := false } }

end Sys2Proof.Machine
end

