-- ==== Sys2Proof/Machine/Sparse.lean ====
section
/-! DEFINITION. Maps from Nat as lists in one canonical form: keys strictly rising, and no entry equal to the default.
Every memory and table of the machine is read and written through these. -/

namespace Sys2Proof.Machine

/-- The value of a key; `d` where none is listed. -/
def getKey {α : Type} (d : α) : List (Nat × α) → Nat → α
  | [], _ => d
  | (k', v) :: rest, k => if k = k' then v else getKey d rest k

/-- The list without a key. -/
def delKey {α : Type} : List (Nat × α) → Nat → List (Nat × α)
  | [], _ => []
  | (k', v) :: rest, k => if k = k' then delKey rest k else (k', v) :: delKey rest k

/-- The list with a key bound to a value, in its place. -/
def insKey {α : Type} : List (Nat × α) → Nat → α → List (Nat × α)
  | [], k, v => [(k, v)]
  | (k', v') :: rest, k, v =>
    if k < k' then (k, v) :: (k', v') :: rest
    else if k = k' then (k, v) :: rest
    else (k', v') :: insKey rest k v

/-- The map with a key set: a default value is not listed. -/
def setKey {α : Type} [DecidableEq α] (d : α) (m : List (Nat × α)) (k : Nat) (v : α) : List (Nat × α) :=
  if v = d then delKey m k else insKey m k v

/-- The value of a key, if listed. -/
def findKey {α : Type} : List (Nat × α) → Nat → Option α
  | [], _ => none
  | (k', v) :: rest, k => if k = k' then some v else findKey rest k

/-- Keys strictly rising, from `lo` on. -/
def risingFrom {α : Type} : Nat → List (Nat × α) → Bool
  | _, [] => true
  | lo, (k, _) :: rest => decide (lo ≤ k) && risingFrom (k + 1) rest

/-- The canonical form: keys strictly rising and no listed value equal to the default. -/
def canonical {α : Type} [DecidableEq α] (d : α) (m : List (Nat × α)) : Bool :=
  risingFrom 0 m && m.all (fun e => decide (e.2 ≠ d))

/-- The lowest key at or above `n` that is not listed, looking at most `fuel` keys far. -/
def lowestFree {α : Type} (m : List (Nat × α)) : Nat → Nat → Nat
  | 0, n => n
  | fuel + 1, n => if (findKey m n).isNone then n else lowestFree m fuel (n + 1)

/-! ### Bytes -/

/-- The low `n` bytes of a number, lowest first: every space is little-endian (R365). -/
def bytesLE : Nat → Nat → List Byte
  | 0, _ => []
  | n + 1, v => BitVec.ofNat 8 v :: bytesLE n (v / 256)

/-- The number that bytes spell, lowest first. -/
def natLE : List Byte → Nat
  | [] => 0
  | b :: rest => b.toNat + 256 * natLE rest

/-- What a byte of memory that nothing has written reads as (log 2). -/
def unwritten : Byte := 0

/-- One byte of a memory. -/
def readByte (m : List Host.Cell) (a : Nat) : Byte := getKey unwritten m a

/-- A memory with one byte written. -/
def writeByte (m : List Host.Cell) (a : Nat) (b : Byte) : List Host.Cell := setKey unwritten m a b

/-- `n` bytes from an address on. -/
def readBytes (m : List Host.Cell) (a : Nat) : Nat → List Byte
  | 0 => []
  | n + 1 => readByte m a :: readBytes m (a + 1) n

/-- A memory with bytes written from an address on. -/
def writeBytes (m : List Host.Cell) (a : Nat) : List Byte → List Host.Cell
  | [] => m
  | b :: rest => writeBytes (writeByte m a b) (a + 1) rest

/-- The number in `n` bytes from an address on. -/
def readNat (m : List Host.Cell) (a n : Nat) : Nat := natLE (readBytes m a n)

/-- A memory with the low `n` bytes of a number written. -/
def writeNat (m : List Host.Cell) (a n v : Nat) : List Host.Cell := writeBytes m a (bytesLE n v)

/-- The canonical form of a memory (log 2). -/
abbrev Memory.wf (m : List Host.Cell) : Bool := canonical unwritten m

/-- A sorted list of numbers with one added. -/
def addSorted : List Nat → Nat → List Nat
  | [], k => [k]
  | x :: rest, k => if k < x then k :: x :: rest else if k = x then x :: rest else x :: addSorted rest k

/-- The sectors of 32 bytes that `n` bytes from an address touch (R48). -/
def sectorsOf (a n : Nat) : List Nat :=
  if n = 0 then [] else (List.range ((a + n - 1) / 32 - a / 32 + 1)).map (fun i => a / 32 + i)

/-- `n` bytes from a byte list, from offset `o` on, 0 beyond its end. -/
def sliceBytes (l : List Byte) (o n : Nat) : List Byte := (List.range n).map (fun i => l.getD (o + i) 0)

/-- The number in bytes [o, o + n) of a record. -/
def recNat (l : List Byte) (o n : Nat) : Nat := natLE (sliceBytes l o n)

end Sys2Proof.Machine
end

