-- ==== Sys2Proof/Machine/Ops.lean ====
section
/-! DEFINITION. The named operations over the state: reading and writing registers, groups, blocks and memory; holding a
word back and moving past it; and taking a trap, the entry of a handler and the return from one (R240 to R245). -/

namespace Sys2Proof.Machine

/-- The outcome of one step of this machine. -/
abbrev Out := Host.Outcome State Fault Refusal

/-! ### Rows of the state -/

def State.group (s : State) (k : Nat) : Group := getKey Group.empty s.groups k

def State.setGroup (s : State) (k : Nat) (g : Group) : State := { s with groups := setKey Group.empty s.groups k g }

def State.block (s : State) (k : Nat) : Block := getKey Block.empty s.blocks k

def State.setBlock (s : State) (k : Nat) (b : Block) : State := { s with blocks := setKey Block.empty s.blocks k b }

def State.core (s : State) (c : Nat) : Core := getKey Core.empty s.cores c

def State.setCore (s : State) (c : Nat) (x : Core) : State := { s with cores := setKey Core.empty s.cores c x }

def State.ctxDesc (s : State) (c : Nat) : CtxDesc := getKey CtxDesc.empty s.ctxs c

def State.grid (s : State) (g : Nat) : GridPrep := getKey GridPrep.empty s.grids g

/-- The Timetable's row of a grid. -/
def State.gridRow (s : State) (g : Nat) : GridRow := getKey GridRow.empty s.tt.grids g

/-- The current generation of a context (R132). -/
def State.cgen (s : State) (c : Nat) : Nat := (getKey CtxRow.empty s.tt.ctxs c).cgen

/-- A new name for an entry, a result or an operation. -/
def State.fresh (s : State) : State := { s with nextId := s.nextId + 1 }

/-- The group whose word is being issued. -/
def State.issuing (s : State) : Group := s.group s.iss.group

/-- The block of the group whose word is being issued. -/
def State.issuingBlock (s : State) : Block := s.block s.issuing.block

/-- The core of a group key (32 group slots a core, R183). -/
def coreOf (k : Nat) : Nat := k / 32

/-- A line in the error log of ctl3. -/
def State.logError (s : State) (i : LogItem) : State := { s with ctl := { s.ctl with log := s.ctl.log ++ [i] } }

/-- A count of ctl6's telemetry. -/
def State.count (s : State) (site : Nat) : State :=
  { s with ctl := { s.ctl with counts := setKey 0 s.ctl.counts site (getKey 0 s.ctl.counts site + 1) } }

/-! ### Lanes, registers and masks -/

/-- A lane set as a mask. -/
def maskOf : List Nat → DWord
  | [] => 0
  | l :: rest => (1#64 <<< l) ||| maskOf rest

/-- The lanes of a mask, ascending. -/
def lanesOf (m : DWord) : List Nat := (List.range laneCount).filter (fun l => m.getLsbD l)

def Group.lane (g : Group) (l : Nat) : Lane := getKey Lane.empty g.lanes l

def Group.setLane (g : Group) (l : Nat) (x : Lane) : Group := { g with lanes := setKey Lane.empty g.lanes l x }

/-- A change of every lane of a list. -/
def Group.mapLanes (g : Group) (f : Nat → Lane → Lane) : List Nat → Group
  | [] => g
  | l :: rest => Group.mapLanes (g.setLane l (f l (g.lane l))) f rest

/-- Whether a lane is live (R172). -/
def Group.live (g : Group) (l : Nat) : Bool := decide ((g.lane l).st ≠ .exited)

/-- The live lanes, ascending. -/
def Group.liveLanes (g : Group) : List Nat := (List.range laneCount).filter g.live

/-- The lanes in a state. -/
def Group.lanesIn (g : Group) (st : LaneState) : List Nat :=
  (List.range laneCount).filter (fun l => decide ((g.lane l).st = st))

/-- The lanes that RUN at a PC. -/
def Group.runAt (g : Group) (p : Word) : List Nat :=
  (List.range laneCount).filter (fun l => decide ((g.lane l).st = .run ∧ (g.lane l).pc = p))

/-- A lane register (R48). -/
def Group.vreg (g : Group) (r l : Nat) : Word := getKey 0 g.v (r * laneCount + l)

def Group.setVreg (g : Group) (r l : Nat) (x : Word) : Group := { g with v := setKey 0 g.v (r * laneCount + l) x }

/-- A uniform register; s0 reads 0 (R316). -/
def Group.sreg (g : Group) (n : Nat) : DWord := if n = 0 then 0 else getKey 0 g.s n

/-- A uniform register written; a write to s0 is discarded (R316). -/
def Group.setSreg (g : Group) (n : Nat) (x : DWord) : Group := if n = 0 then g else { g with s := setKey 0 g.s n x }

/-- A mask register; m0 reads the lanes issued (R315, R381). -/
def Group.mreg (g : Group) (sel : List Nat) (n : Nat) : DWord := if n = 0 then maskOf sel else getKey 0 g.m n

def Group.setMreg (g : Group) (n : Nat) (x : DWord) : Group := { g with m := setKey 0 g.m n x }

/-- A dword of the trap record (R242, R408). -/
def Group.trecWord (g : Group) (i : Nat) : DWord := getKey 0 g.trec i

/-- The allowance on a channel (R184). -/
def Group.allowance (g : Group) (k : Nat) : Nat := getKey 0 g.allow k

def Group.setAllowance (g : Group) (k n : Nat) : Group := { g with allow := setKey 0 g.allow k n }

/-- A class counter: the operations of a class in the group's retire queues (R115). -/
def Group.counter (g : Group) (cls : Nat) : Nat := (g.erq.filter (fun e => e.cls = cls)).length

/-- MERR with error bits set; ANY follows (R408, R81). -/
def Group.setMerr (g : Group) (bits : DWord) : Group :=
  { g with merr := if (g.merr ||| bits) &&& 0x7FE = 0 then 0 else ((g.merr ||| bits) &&& 0x7FE) ||| 1 }

/-- An L1 floor raised to the core's fill counter (R96, R101). -/
def State.raiseFloor (s : State) (k : Nat) : State :=
  s.setGroup k { s.group k with floor := (s.core (coreOf k)).fc }

/-! ### Status bits (R56) -/

def stHandle : DWord := 0x002
def stBounds : DWord := 0x004
def stPoisonRead : DWord := 0x008
def stObParity : DWord := 0x010
def stResidue : DWord := 0x020
def stAccEcc : DWord := 0x040
def stTimeout : DWord := 0x080
def stFenced : DWord := 0x100
def stSummary : DWord := 0x200
def stClip : DWord := 0x400

/-! ### Trap codes (R411) -/

def tIllegalOp : Nat := 0x01
def tStallShort : Nat := 0x02
def tMisaligned : Nat := 0x03
def tPageFault : Nat := 0x04
def tProtection : Nat := 0x05
def tPoison : Nat := 0x06
def tWindowDeparted : Nat := 0x07
def tWindowRange : Nat := 0x08
def tFabricTimeout : Nat := 0x09
def tPeerFenced : Nat := 0x0A
def tChannel : Nat := 0x0B
def tNotConverged : Nat := 0x0C
def tDepth : Nat := 0x0D
def tObRecord : Nat := 0x0E
def tSummary : Nat := 0x0F
def tSwTrap : Nat := 0x10
def tPreempt : Nat := 0x11

/-! ### Event records -/

/-- A record of `n` bytes with fields (offset, width, value) laid into zeros. -/
def packBytes (n : Nat) (fields : List (Nat × Nat × Nat)) : List Byte :=
  readBytes (fields.foldl (fun m f => writeNat m f.1 f.2.1 f.2.2) []) 0 n

/-- The payload of an event record: fields at the offsets that R202 gives, which count from byte 0 of the record. -/
def evBody (fields : List (Nat × Nat × Nat)) : List Byte :=
  packBytes 48 (fields.map (fun f => (f.1 - 16, f.2.1, f.2.2)))

/-- An event that this chip contributes (R201): it waits for the next contribution to be closed (R208). -/
def State.contribute (s : State) (typ : Nat) (fields : List (Nat × Nat × Nat)) : State :=
  { s with duc := { s.duc with
      pendEvents := s.duc.pendEvents ++
        [{ typ := typ, origin := s.fab.pos, seq := s.duc.nextEvSeq, round := 0, body := evBody fields }],
      nextEvSeq := s.duc.nextEvSeq + 1 } }

/-- The ranks that a slot row names as sources (R199, R202). -/
def SlotRow.ranks (r : SlotRow) : List Nat :=
  ((List.range 64).filter (fun i => r.srcMask / 2 ^ i % 2 = 1)).map (fun i => r.srcBase + i)

/-- KILL of a context (R202, R204). -/
def State.contributeKill (s : State) (ctx reason : Nat) : State :=
  s.contribute 0x0006 [(16, 2, ctx), (18, 1, reason)]

/-! ### Holding a word back, and moving past it -/

/-- The word waits at issue: nothing of it happens, and its PC is kept (R173, R195). -/
def hold (w : Wait) (s : State) : Out :=
  .next (s.setGroup s.iss.group { s.issuing with waiting := w })

/-- The size of the word being issued, with its prefix (R314). -/
def Issue.size (i : Issue) : Word := if i.pfx.isSome then 8 else 4

/-- The issued lanes stand at a PC. -/
def State.moveSel (s : State) (p : Word) : State :=
  let g := s.issuing.mapLanes (fun _ x => { x with pc := p }) s.iss.sel
  { s.setGroup s.iss.group { g with waiting := .nothing, arrived := false, stuck := none } with iss := { s.iss with issued := true } }

/-- The issued lanes move past the word. -/
def State.advance (s : State) : State := s.moveSel (s.iss.pc + s.iss.size)

/-! ### Traps (R240 to R242) -/

/-- The trap record of a trap at delivery (R242). -/
def TrapInfo.record (t : TrapInfo) (merr : DWord) : List (Nat × DWord) :=
  let flags := (if t.indeterminate then 1 else 0) + (if t.uniform then 2 else 0) + (if t.async then 4 else 0) +
    (if t.prefixed then 8 else 0)
  let w0 : Nat := t.code + flags * 256 + t.pc.toNat * 2 ^ 32
  let w3 : Nat := t.lane + t.widthc * 256 + t.word.toNat * 2 ^ 32
  let m := setKey 0 [] 0 (BitVec.ofNat 64 w0)
  let m := setKey 0 m 1 t.lanes
  let m := setKey 0 m 2 t.addr
  let m := setKey 0 m 3 (BitVec.ofNat 64 w3)
  let m := setKey 0 m 4 (t.pfxWord.zeroExtend 64)
  let m := setKey 0 m 5 merr
  setKey 0 m 6 t.aux

/-- The lane PCs and states go to the trap shadow (R240 step 1). -/
def Group.saveShadow (g : Group) : Group :=
  g.mapLanes (fun _ x => { x with shPc := x.pc, shSt := x.st }) (List.range laneCount)

/-- A result that waits for its register; the bytes that a summary read waits for are none (R438). -/
def PendRes.awaited (r : PendRes) : Bool := decide (r.dst ≠ .held)

/-- Every live lane RUN at a handler's address (R240 step 3). -/
def Group.runHandler (g : Group) (p : Word) : Group :=
  let g := g.mapLanes (fun _ x => { x with pc := p, st := .run }) g.liveLanes
  { g with waiting := .nothing, arrived := false, port2 := none, stuck := none, walked := [], probed := none, results := g.results.filter PendRes.awaited }

/-- Entry of the trap handler: shadow, record, lanes, mark (R240). -/
def Group.enterTrap (g : Group) (t : TrapInfo) (traph : Word) : Group :=
  let g' := (g.saveShadow).runHandler traph
  { g' with trec := t.record g.merr, hf0 := true, hf1 := decide (g.async ≠ []), handler := .trap, sync := none }

/-- A trap that cannot be delivered: ctl3 logs its record and contributes KILL, and the group issues nothing more (R240). -/
def State.loseTrap (s : State) (k : Nat) (t : TrapInfo) : State :=
  let g := s.group k
  let s := s.setGroup k { g with sync := none, stopped := true }
  (s.logError (.trapLost k (t.record g.merr))).contributeKill (s.block g.block).ctx t.code

/-- A trap delivered to a group (R240), or lost. -/
def State.deliverTrap (s : State) (k : Nat) (t : TrapInfo) : State :=
  let g := s.group k
  let h := (s.ctxDesc (s.block g.block).ctx).traph
  if h = 0 ∨ g.handler ≠ .none then s.loseTrap k t
  else s.setGroup k (g.enterTrap t (BitVec.ofNat 32 h))

/-- Whether a trap or PREEMPT may be delivered to a group: no lane is PARKED, and every result is written, fixed-latency ones too, so that
the handler finds complete registers (R177, R323). -/
def Group.settled (g : Group) (clock : Nat) : Bool :=
  decide (g.lanesIn .parked = []) && !g.results.any PendRes.awaited && !g.hazards.any (fun h => decide (clock < h.ready))

/-- The pending asynchronous trap with the lowest code (R241). -/
def lowestTrap : List TrapInfo → Option TrapInfo
  | [] => none
  | t :: rest =>
    match lowestTrap rest with
    | none => some t
    | some u => if t.code ≤ u.code then some t else some u

/-- The traps of an issue boundary, in the order of R241: an asynchronous one outside handlers, then the word's own. -/
def State.boundaryTrap (s : State) (k : Nat) : State :=
  let g := s.group k
  if g.settled s.clock then
    match (if g.handler = .none then lowestTrap g.async else none) with
    | some t => (s.setGroup k { g with async := g.async.erase t }).deliverTrap k t
    | none =>
      match g.sync with
      | some t => s.deliverTrap k t
      | none => s
  else s

/-- The trap of the word being issued, as its record will read (R242). -/
def State.wordTrap (s : State) (code : Nat) (lanes : DWord) (lane : Nat) (addr : DWord) (widthc : Nat) (aux : DWord)
    (uniform : Bool) : TrapInfo :=
  { code := code, indeterminate := false, uniform := uniform, async := false, prefixed := s.iss.pfx.isSome, pc := s.iss.pc,
    lanes := lanes, addr := addr, lane := lane, widthc := widthc, word := s.iss.word,
    pfxWord := if s.iss.pfx.isSome then s.iss.pfxWord else 0, aux := aux }

/-- The word being issued traps: it has no effect, and its trap is taken at the boundary (R240). -/
def raise (t : TrapInfo) (s : State) : Out :=
  let g := s.issuing
  let s := s.setGroup s.iss.group { g with sync := some t, waiting := .nothing, arrived := false, stuck := none, walked := [], probed := none }
  .next ({ s with iss := { s.iss with issued := true } }.boundaryTrap s.iss.group)

/-- A trap reported for all issued lanes, with the lowest of them as the reporting lane. -/
def trapSel (code : Nat) (uniform : Bool) (addr aux : DWord) (s : State) : Out :=
  raise (s.wordTrap code (maskOf s.iss.sel) (s.iss.sel.headD 0) addr 0 aux uniform) s

/-- ILLEGAL_OP of a lane word (R326). -/
def illegal (s : State) : Out := trapSel tIllegalOp false 0 0 s

/-- ILLEGAL_OP of a uniform word (R326). -/
def illegalUni (s : State) : Out := trapSel tIllegalOp true 0 0 s

/-- Two reports of one condition of one word as one (R138): the lanes together, and the lowest lane's address. -/
def TrapInfo.join (t u : TrapInfo) : TrapInfo :=
  let low := if u.lane < t.lane then u else t
  { t with indeterminate := t.indeterminate || u.indeterminate, lanes := t.lanes ||| u.lanes, addr := low.addr,
           lane := low.lane, aux := low.aux }

/-- A pending list with a trap added. -/
def addAsync (u : TrapInfo) : List TrapInfo → List TrapInfo
  | [] => [u]
  | t :: rest => if t.code = u.code ∧ t.pc = u.pc ∧ t.word = u.word then t.join u :: rest else t :: addAsync u rest

/-- Whether a save handler's record tells of no trap of the program but of PREEMPT, or of an asynchronous trap that is pending still. -/
def Group.recordFree (g : Group) : Bool :=
  let code := (g.trecWord 0).toNat % 256
  decide (code = tPreempt) || decide (g.async ≠ [] ∧ (lowestTrap g.async).map TrapInfo.code = some code)

/-- An asynchronous trap becomes pending for a group (R241): one raised by a request of a handler is a trap in the
handler. In a save handler that PREEMPT itself started, the record becomes that of the pending trap, which the restored block then takes (R412):
code 0x11 never reaches TRAPH (R411, log 85). A condition of a handler's request that arises only when the group is in no handler any more is an
ordinary pending trap: the spec does not say which of the two it is (log 108). -/
def State.pendAsync (s : State) (k : Nat) (byHandler : Bool) (t : TrapInfo) : State :=
  let g := s.group k
  if byHandler && decide (g.handler ≠ .none) then s.loseTrap k t
  else
    let async := addAsync t g.async
    let g' := { g with async := async, hf1 := decide (g.handler ≠ .none) || g.hf1 }
    s.setGroup k (if g.handler = .save ∧ g.recordFree = true then { g' with trec := ((lowestTrap async).getD t).record g.merr } else g')

/-! ### Handler return and pre-emption (R243 to R245, R412) -/

/-- Every lane's PC and state from its shadow (R412). -/
def Group.loadShadow (g : Group) : Group :=
  g.mapLanes (fun _ x => { x with pc := x.shPc, st := x.shSt }) (List.range laneCount)

/-- With .skip, each lane of the record's LANES whose shadow PC equals the record's PC moves past the word and becomes
RUN; an asynchronous trap is re-issued (R412). -/
def Group.skipWord (g : Group) : Group :=
  let w0 := g.trecWord 0
  let flags := (w0 >>> 8).toNat % 256
  let pc : Word := BitVec.ofNat 32 ((w0 >>> 32).toNat)
  let step : Word := if flags / 8 % 2 = 1 then 8 else 4
  if flags / 4 % 2 = 1 then g
  else g.mapLanes (fun _ x => if x.shPc = pc then { x with pc := pc + step, st := .run } else x) (lanesOf (g.trecWord 1))

/-- The return from a trap handler (R412): bit 1 of HFLAG stays while an asynchronous trap is pending. -/
def Group.leaveTrap (g : Group) (skip : Bool) : Group :=
  let g := if skip then g.loadShadow.skipWord else g.loadShadow
  { g with hf0 := false, hf1 := decide (g.async ≠ []), handler := .none, waiting := .nothing }

/-- The trap record that the save handler's entry writes (R243). -/
def preemptInfo (pc : Word) : TrapInfo :=
  { code := tPreempt, indeterminate := false, uniform := false, async := false, prefixed := false, pc := pc, lanes := 0,
    addr := 0, lane := 0, widthc := 0, word := 0, pfxWord := 0, aux := 0 }

/-- Entry of the save handler (R243, R412): a trap that is pending or being handled keeps its shadow and record, and
HFLAG bit 1 is set; any wait is abandoned and the monitor is FIRED (R196, R117). -/
def Group.enterSave (g : Group) (saveh : Word) : Group :=
  let kept := decide (g.handler = .trap)
  let g' := if kept then g else
    { g.saveShadow with trec := (preemptInfo ((g.lane (g.liveLanes.headD 0)).pc)).record g.merr }
  let g'' := g'.runHandler saveh
  { g'' with handler := .save, hf1 := kept || g.hf1, preempt := false,
             mon := if g.mon = .armed ∨ g.mon = .pending then .fired else g.mon }

/-- One group of a thawed block: its lanes continue from the restored shadow, in a trap handler when HFLAG bit 0 says
so (R245). -/
def Group.thaw (g : Group) : Group :=
  let g := g.loadShadow
  { g with handler := if g.hf0 then .trap else .none, waiting := .nothing }

/-- The trap that the restored record describes (R412). -/
def Group.restoredTrap (g : Group) : TrapInfo :=
  let w0 := (g.trecWord 0).toNat
  let w3 := (g.trecWord 3).toNat
  let flags := w0 / 256 % 256
  { code := w0 % 256, indeterminate := flags % 2 = 1, uniform := flags / 2 % 2 = 1, async := flags / 4 % 2 = 1,
    prefixed := flags / 8 % 2 = 1, pc := BitVec.ofNat 32 (w0 / 2 ^ 32), lanes := g.trecWord 1, addr := g.trecWord 2,
    lane := w3 % 256, widthc := w3 / 256 % 256, word := BitVec.ofNat 32 (w3 / 2 ^ 32),
    pfxWord := (g.trecWord 4).truncate 32, aux := g.trecWord 6 }

/-! ### Memory and poison -/

/-- Whether a physical address is backed by HBM (R70). -/
def inHbm (pa : Nat) : Bool := decide (pa / 0x008000000000 < 4) && decide (pa % 0x008000000000 < 0x0059682F0000)

/-- Whether a physical address lies in a die reservation (R72). -/
def inReserve (pa : Nat) : Bool := inHbm pa && decide (0x0058582F0000 ≤ pa % 0x008000000000)

/-- The poison flags after a write of `n` bytes at `a` (R75): a clean write that covers a whole sector clears it, and a
poisoned write sets it. -/
def poisonAfter (p : List Nat) (a n : Nat) (bad : Bool) : List Nat :=
  (sectorsOf a n).foldl (fun p t =>
    if bad then addSorted p t
    else if decide (a ≤ t * 32) && decide (t * 32 + 32 ≤ a + n) then p.filter (· ≠ t) else p) p

/-- Whether any of `n` bytes from `a` on lies in a poisoned sector. -/
def poisoned (p : List Nat) (a n : Nat) : Bool := (sectorsOf a n).any (fun t => p.contains t)

/-- The home slice's number of a physical address (R66), with its die. -/
def homeSlice (pa : Nat) : Nat :=
  let off := pa % 0x008000000000
  let f := fun i => off / 2 ^ (7 + 6 * i) % 64
  (pa / 0x008000000000) * 64 + (f 0 ^^^ f 1 ^^^ f 2 ^^^ f 3 ^^^ f 4 ^^^ (off / 2 ^ 37 % 4))

/-- The set of a line in its home slice (R66): 512 sets, by the address bits above the lowest bits of the slice (log 64). -/
def l2Set (line : Nat) : Nat := homeSlice (line * 128) * 512 + line / 64 % 512

/-- Sectors of a line present in its home slice, and dirty when written; a set of 16 lines gives one up, which is written back where it is
dirty (R66). -/
def State.touchLine (s : State) (line : Nat) (sectors : BitVec 4) (dirty : Bool) : State :=
  match findKey s.l2 line with
  | some x => { s with l2 := insKey s.l2 line { sectors := x.sectors ||| sectors, dirty := x.dirty || dirty } }
  | none =>
    let ways := s.l2.filter (fun p => decide (l2Set p.1 = l2Set line))
    if ways.length < 16 then { s with l2 := insKey s.l2 line { sectors := sectors, dirty := dirty } }
    else
      let out := (ways.map Prod.fst).getD (Config.victim s.free % 16) 0
      { s with l2 := insKey (delKey s.l2 out) line { sectors := sectors, dirty := dirty }, free := s.free + 1 }

/-- The sectors of a line that `n` bytes from `pa` on lie in. -/
def lineSectors (line pa n : Nat) : BitVec 4 :=
  (List.range 4).foldl (fun m i => if pa < line * 128 + 32 * i + 32 ∧ line * 128 + 32 * i < pa + n then m ||| (1#4 <<< i) else m) 0

/-- The lines of `n` bytes from `pa` on present in their home slices, filled by sector (R66). -/
def State.touchL2 (s : State) (pa n : Nat) (dirty : Bool) : State :=
  (List.range ((pa + n - 1) / 128 + 1 - pa / 128)).foldl (fun s i =>
    s.touchLine (pa / 128 + i) (lineSectors (pa / 128 + i) pa n) dirty) s

/-- Bytes written at a home slice in one step, with their poison (R67, R75). -/
def State.writeMem (s : State) (pa : Nat) (bytes : List Byte) (bad : Bool) : State :=
  { s with mem := writeBytes s.mem pa bytes, poison := poisonAfter s.poison pa bytes.length bad }

/-- The bits of a byte of the control area that are not reserved (R55, R56, R58): reserved ones read as 0 (R6). -/
def controlBits (off : Nat) : Byte :=
  if 0x300 ≤ off then 0xFF
  else if off < 0x200 then
    let i := off % 32
    if 24 ≤ i then 0 else if i < 8 then 0xFF else if i % 8 = 1 then 0x07 else if 2 ≤ i % 8 ∧ i % 8 < 6 then 0 else 0xFF
  else
    let i := off % 16
    if i = 2 then 0x07 else if i = 3 then 0 else if i = 5 ∨ i = 9 then 0x01 else if i = 6 ∨ 10 ≤ i then 0 else 0xFF

/-- Bytes as a scratchpad takes them from an offset on (R6). -/
def keepBits (off : Nat) (bytes : List Byte) : List Byte :=
  if 0x300 ≤ off then bytes else bytes.zipIdx.map (fun b => b.1 &&& controlBits (off + b.2))

/-- Bytes written in a scratchpad in one pass, with their poison. -/
def Block.writeSpad (b : Block) (off : Nat) (bytes : List Byte) (bad : Bool) : Block :=
  { b with spad := writeBytes b.spad off (keepBits off bytes), spadBad := poisonAfter b.spadBad off bytes.length bad }

/-- Bytes written in the block's operand buffer, with their poison (R75). -/
def Block.writeOb (b : Block) (off : Nat) (bytes : List Byte) (bad : Bool) : Block :=
  { b with ob := writeBytes b.ob off bytes, obBad := poisonAfter b.obBad off bytes.length bad }

/-! ### Monitors (R117, R130) -/

/-- The monitor of a group goes FIRED when it is armed by the watch's entry (R117). -/
def State.fireGroup (s : State) (k entry : Nat) : State :=
  let g := s.group k
  if g.mon = .armed ∧ g.monEntry = entry then s.setGroup k { g with mon := .fired } else s

/-- A wake on the mon flow to another chip's group (R117): its data names the group and the MARM (log 33). -/
def wakeMsg (s : State) (w : Watch) : LsMsg :=
  { flow := 3, op := 0xF4, src := s.fab.pos, dst := w.pos, width := 0, scope := 5, order := 0, cgen := w.cgen, ctx := w.ctx,
    tag := w.tag, seq := 0, addr := 0, data := BitVec.ofNat 128 (w.group % 2 ^ 16 + w.entry % 2 ^ 64 * 2 ^ 64), data2 := 0 }

/-- A message handed to the ports for another chip (R150). -/
def State.sendLs (s : State) (m : LsMsg) : State :=
  { s with nextId := s.nextId + 1,
           fab := { s.fab with lsOut := s.fab.lsOut ++
             [{ id := s.nextId, msg := .ls m, dst := m.dst, via := 0xFFFF, hop := none, sent := false, relayed := false, after := none }] } }

/-- The next sequence number of a flow from this chip (R107), taken. -/
def State.takeSeq (s : State) (dst flow : Nat) : Nat × State :=
  let key := dst * 8 + flow
  let n := getKey 0 s.fab.flowSeq key
  (n, { s with fab := { s.fab with flowSeq := setKey 0 s.fab.flowSeq key ((n + 1) % 2 ^ 32) } })

/-- Whether a chip's LS and round messages are refused: it is fenced (R163), and no rejoin is under way between it and this chip (R225). -/
def Fabric.shut (f : Fabric) (x : Nat) : Bool := f.fenced.contains x && !f.lsFree.contains x

/-- A message that enters its flow: it takes the flow's next number and waits at the ports (R107); nothing enters a flow
to a fenced chip (R163). -/
def State.enterFlow (s : State) (m : LsMsg) : State :=
  if s.fab.shut m.dst then s
  else
    let (n, s) := s.takeSeq m.dst m.flow
    s.sendLs { m with seq := n }

/-- A watch fires: the local monitor at once, another chip's by a wake on mon (R117). -/
def State.fireWatch (s : State) (w : Watch) : State :=
  if w.pos = s.fab.pos then s.fireGroup w.group w.entry else s.enterFlow (wakeMsg s w)

/-- The watches that a write of `n` bytes at `a` fires (R117). -/
def firedBy (ws : List Watch) (a n : Nat) : List Watch :=
  ws.filter (fun w => decide (a < w.unit * 8 + 8) && decide (w.unit * 8 < a + n))

/-- A write applied at home slices fires the watches on its units (R117, R130), and kills host reservations (R140). -/
def State.fireMemory (s : State) (pa n : Nat) : State :=
  let hit := firedBy s.watches pa n
  let s := { s with watches := s.watches.filter (fun w => !hit.contains w),
                    ctl := { s.ctl with hostResv := s.ctl.hostResv.filter (fun r => decide (pa + n ≤ r.2) || decide (r.2 + 8 ≤ pa)) } }
  hit.foldl (fun s w => s.fireWatch w) s

/-- A write applied at a scratchpad's bank fires the watches held there. -/
def State.fireBank (s : State) (bk off n : Nat) : State :=
  let b := s.block bk
  let hit := firedBy b.watches off n
  let s := s.setBlock bk { b with watches := b.watches.filter (fun w => !hit.contains w) }
  hit.foldl (fun s w => s.fireWatch w) s

/-- One indivisible write at a home slice: bytes, poison, L2 line and watches (R67). -/
def State.storeMem (s : State) (pa : Nat) (bytes : List Byte) (bad : Bool) : State :=
  ((s.writeMem pa bytes bad).touchL2 pa bytes.length true).fireMemory pa bytes.length

/-- One indivisible write at a bank (R124). -/
def State.storeBank (s : State) (bk off : Nat) (bytes : List Byte) (bad : Bool) : State :=
  (s.setBlock bk ((s.block bk).writeSpad off bytes bad)).fireBank bk off bytes.length

end Sys2Proof.Machine
end

