-- ==== Sys2Proof/Machine/Operands.lean ====
section
/-! DEFINITION. Operand forms: guards and PFX fields (R312 to R315), channels (R58, R184, R185), early reads and the two
scoreboards (R321 to R324), and the common frame of lane words (R337) and uniform words (R381, R382). -/

namespace Sys2Proof.Machine

/-! ### The PFX fields a word accepts (R313) -/

/-- Which fields of a PFX a lane word accepts besides MASK and NEG (R313). -/
structure Accept where
  guard : Bool
  z : Bool
  rnd : Bool
  vc : Bool
  space : Bool
  order : Nat
  sat : Bool
  deriving DecidableEq, Repr

/-- A word that takes a guard and writes a register or mask. -/
def accPlain : Accept := { guard := true, z := true, rnd := false, vc := false, space := false, order := 0, sat := false }

/-- A word that takes a guard and writes no register. -/
def accStore : Accept := { accPlain with z := false }

/-- Whether a PFX carries only fields that the word after it accepts (R313); `order` 0 none, 1 release only, 2 all. -/
def pfxOk (a : Accept) : Option Pfx → Bool
  | none => true
  | some p => (a.guard || (p.mask = 0 && !p.neg)) && (a.z || !p.z) && (a.rnd || p.rnd = 0) &&
      (a.vc || p.vc = .reg 0) && (a.space || (p.space = 0 && p.scope = 0)) &&
      (p.order = 0 || a.order = 2 || (a.order = 1 && p.order = 2)) && (a.sat || !p.sat)

/-- The third source of a three-source word (R311): VC after a PFX, else vd read as a register. -/
def thirdSrc (s : State) (d : Dst) : Option Src :=
  match s.iss.pfx with
  | some p => some p.vc
  | none =>
    match d with
    | .reg n => some (.reg n)
    | .push _ => none

def pfxSat (s : State) : Bool :=
  match s.iss.pfx with
  | some p => p.sat
  | none => false

def pfxZ (s : State) : Bool :=
  match s.iss.pfx with
  | some p => p.z
  | none => false

/-! ### Early reads (R321, R322) -/

/-- The value a read of a lane register gives: the register's, or one from before a producer that is still within its
cycles, whichever the free value picks (R322); `slot` names the operand. -/
def earlyPick (free slot : Nat) (clock : Nat) (isMask : Bool) (r l : Nat) : List Hazard → Word → Word
  | [], x => x
  | h :: rest, x =>
    if h.isMask = isMask ∧ h.reg = r ∧ h.lane = l ∧ clock < h.ready then
      if Config.earlyRead free (slot * 65536 + rest.length * 16384 + r * 64 + l) then earlyPick free slot clock isMask r l rest h.old
      else x
    else earlyPick free slot clock isMask r l rest x

/-- A lane register as a source of the word being issued (R322). The newest producer stands first. -/
def readV (s : State) (g : Group) (slot r l : Nat) : Word :=
  earlyPick s.free slot s.clock false r l g.hazards (g.vreg r l)

/-- One bit of a mask register as a source (R321). -/
def readMBit (s : State) (g : Group) (slot r l : Nat) : Bool :=
  decide (earlyPick s.free slot s.clock true r l g.hazards (if (getKey 0 g.m r).getLsbD l then 1 else 0) ≠ 0)

/-- A mask register as a source; m0 reads the issued lanes (R315, R381). -/
def readM (s : State) (g : Group) (slot r : Nat) : DWord :=
  if r = 0 then maskOf s.iss.sel else maskOf ((List.range laneCount).filter (readMBit s g slot r))

/-- Whether a read of a lane register (or of a mask bit) now comes too early (R321). -/
def tooEarly (s : State) (g : Group) (isMask : Bool) (r l : Nat) : Bool :=
  g.hazards.any (fun h => decide (h.isMask = isMask ∧ h.reg = r ∧ h.lane = l ∧ s.clock < h.ready))

/-- The checking scoreboard is on (R261, R324). -/
def Group.chk (g : Group) : Bool := g.mode.getLsbD 4

/-! ### The register scoreboard (R323) -/

def ResDst.coversV (d : ResDst) (r l : Nat) : Bool :=
  match d with
  | .lane l' rs => l' = l && rs.contains r
  | _ => false

def ResDst.coversS (d : ResDst) (n : Nat) : Bool :=
  match d with
  | .uniform rs => rs.contains n
  | _ => false

/-- A result is pending in a lane register. -/
def Group.pendingV (g : Group) (r l : Nat) : Bool := g.results.any (fun p => p.dst.coversV r l)

/-- A result is pending in a uniform register. -/
def Group.pendingS (g : Group) (n : Nat) : Bool := g.results.any (fun p => p.dst.coversS n)

/-! ### Guards (R315) -/

/-- The lanes that execute the word (R315). -/
def actLanes (s : State) : List Nat :=
  match s.iss.pfx with
  | none => s.iss.sel.filter s.issuing.live
  | some p =>
    let g := readM s s.issuing 15 p.mask
    let g := if p.neg then ~~~g else g
    s.iss.sel.filter (fun l => g.getLsbD l && s.issuing.live l)

/-- The issued lanes that a zeroing guard writes (R315). -/
def zeroLanes (s : State) (act : List Nat) : List Nat :=
  if pfxZ s then s.iss.sel.filter (fun l => !act.contains l) else []

/-- The bits of the guard mask that the word reads, if any (R321). -/
def guardBits (s : State) : List (Nat × Nat) :=
  match s.iss.pfx with
  | some p => if p.mask = 0 then [] else s.iss.sel.map (fun l => (p.mask, l))
  | none => []

/-! ### Channels (R58, R184, R185) -/

/-- A channel descriptor (R58). -/
structure ChDesc where
  count : Nat
  head : Nat
  depth : Nat
  base : Nat
  deriving DecidableEq, Repr

/-- Where the descriptor of a channel lies (R54). -/
def chOff (k : Nat) : Nat := 0x200 + 16 * k

/-- A channel's descriptor as it stands (R58). -/
def Block.chan (b : Block) (k : Nat) : ChDesc :=
  let lo := readNat b.spad (chOff k) 8
  let hi := readNat b.spad (chOff k + 8) 8
  { count := hi % 512, head := lo / 2 ^ 56 % 256, depth := lo / 2 ^ 32 % 512, base := lo % 2 ^ 19 }

/-- A channel's descriptor written (R58). -/
def Block.setChan (b : Block) (k : Nat) (c : ChDesc) : Block :=
  let m := writeNat b.spad (chOff k) 8 (c.base % 2 ^ 19 + c.depth * 2 ^ 32 + c.head % 256 * 2 ^ 56)
  { b with spad := writeNat m (chOff k + 8) 8 (c.count % 512) }

/-- How an operand names a channel. -/
inductive ChUse where
  | pop (k : Nat)
  | peek (k : Nat)
  | push (k : Nat)
  deriving DecidableEq, Repr

def ChUse.chan : ChUse → Nat
  | .pop k => k
  | .peek k => k
  | .push k => k

def srcUse : Src → List ChUse
  | .reg _ => []
  | .ch true k => [.pop k]
  | .ch false k => [.peek k]

def dstUse : Dst → List ChUse
  | .reg _ => []
  | .push k => [.push k]

/-- The channel that makes an instruction trap CHANNEL: DEPTH 0, or a push outside the producer mask (R185). -/
def chanFault (g : Group) (b : Block) : List ChUse → Option Nat
  | [] => none
  | u :: rest =>
    if (b.chan u.chan).depth = 0 then some u.chan
    else
      match u with
      | .push k => if g.prod.getLsbD k then chanFault g b rest else some k
      | _ => chanFault g b rest

/-- Whether every pop and peek can be served and every push has allowance (R185); `taken` are the pops before. -/
def chanReady (g : Group) (b : Block) (taken : List Nat) : List ChUse → Bool
  | [] => true
  | .pop k :: rest => decide (taken.count k < (b.chan k).count) && chanReady g b (k :: taken) rest
  | .peek k :: rest => decide (taken.count k < (b.chan k).count) && chanReady g b taken rest
  | .push k :: rest => decide (0 < g.allowance k) && chanReady g b taken rest

/-- The entry at HEAD of a channel. -/
def Block.headEntry (b : Block) (k : Nat) : Word :=
  BitVec.ofNat 32 (readNat b.spad ((b.chan k).base + 4 * (b.chan k).head) 4)

/-- The group of a block with a group number. -/
def Block.groupNo (b : Block) (n : Nat) : Nat := b.groups.getD n 0

/-- A pop applied: HEAD and COUNT move on, and the group that pushed the entry gets its allowance back (R185). Neither R76 nor R185 says what a
ring entry in a poisoned sector gives: a pop or a peek of one reads its word without a trap, the model's choice (log 87). -/
def popChan (bk k : Nat) (s : State) : State :=
  let b := s.block bk
  let c := b.chan k
  let owner := b.groupNo (getKey 0 b.pushers (k * 256 + c.head))
  let s := s.setBlock bk { (b.setChan k { c with head := (c.head + 1) % c.depth, count := c.count - 1 }) with
    pushers := setKey 0 b.pushers (k * 256 + c.head) 0 }
  let p := s.group owner
  s.setGroup owner (p.setAllowance k (p.allowance k + 1))

/-- A push applied at the channel unit (R185): the tail entry takes the value and the pusher's number. -/
def pushChan (bk k : Nat) (gid : Nat) (x : Word) (s : State) : State :=
  let b := s.block bk
  let c := b.chan k
  if c.depth = 0 then s
  else
    let t := (c.head + c.count) % c.depth
    let b := { b with spad := writeBytes b.spad (c.base + 4 * t) (keepBits (c.base + 4 * t) (bytesLE 4 x.toNat)),
                      pushers := setKey 0 b.pushers (k * 256 + t) gid }
    (s.setBlock bk (b.setChan k { c with count := c.count + 1 })).fireBank bk (c.base + 4 * t) 4

/-- One unit of push allowance taken (R185, R364). -/
def takeAllowance (k : Nat) (s : State) : State :=
  let g := s.issuing
  s.setGroup s.iss.group (g.setAllowance k (g.allowance k - 1))

/-- The last SO entry of a group so far, in program order (R90). -/
def State.lastSoOf (s : State) (k : Nat) : Option Nat :=
  let g := s.group k
  match (s.entries.filter (fun e => decide (e.issuer = .group k ∧ e.seq = g.nextSeq ∧ e.kind = .so))).getLast? with
  | some e => some e.id
  | none => g.soLast

/-- An entry of the word being issued, at its place in program order (R85); the fields of its own are set over it. -/
def baseEntry (s : State) (k : Nat) : Entry :=
  let g := s.group k
  let b := s.block g.block
  { id := s.nextId, issuer := .group k, core := coreOf k, ctx := b.ctx, cgen := s.cgen b.ctx, seq := g.nextSeq, sub := 0,
    lane := none, pc := s.iss.pc, op := .load, target := .nowhere, addr := 0, kind := .rc, nc := false, priv := false,
    scope := 2, dscope := 2, acq := false, rel := false, size := 0, off := 0, res := none, data := 0, data2 := 0, whole := [],
    byHandler := decide (g.handler ≠ .none), opc := 0, wcode := 2, word := s.iss.word,
    pfxWord := if s.iss.pfx.isSome then s.iss.pfxWord else 0, prefixed := s.iss.pfx.isSome, tag := 0, fseq := 0,
    epoch := getKey 0 s.epochs (coreOf k / 64), merged := [], waits := none, early := [], prior := s.lastSoOf k, begun := false, stage := .gq }

/-- An entry placed in its group queue (R85). -/
def State.placeEntry (s : State) (e : Entry) : State := { s.fresh with entries := s.entries ++ [e] }

/-- The group's next instruction stands after every entry placed so far (R85). -/
def State.nextInstr (s : State) (k : Nat) : State :=
  s.setGroup k { s.group k with nextSeq := (s.group k).nextSeq + 1, soLast := s.lastSoOf k }

/-- The push entry of the word being issued (R185): an RC entry at .blk with a release side. It stands at the word's place in program
order; one whose value is still to be bound waits for that result (R364). -/
def pushEntry (s : State) (ch data : Nat) (waits : Option Nat) : Entry :=
  let g := s.issuing
  { baseEntry s s.iss.group with
    op := .push ch g.gid, target := .bank g.block (chOff ch), addr := chOff ch, rel := true, size := 16, data := data, waits := waits }

/-- The push of the word being issued. -/
def placePush (ch : Nat) (x : Word) (s : State) : State := (s.placeEntry (pushEntry s ch x.toNat none)).nextInstr s.iss.group

/-! ### Sources of lane words -/

/-- The lane registers that a source reads. -/
def srcRegs (a : Src) (act : List Nat) : List (Nat × Nat) :=
  match a with
  | .reg r => act.map (fun l => (r, l))
  | .ch _ _ => []

/-- A source read, in the order A, B, C, with its channel action (R185, R337): a channel gives every lane one value. -/
def readSrc (slot : Nat) (a : Src) (s : State) : (Nat → Word) × State :=
  match a with
  | .reg r => (fun l => readV s s.issuing slot r l, s)
  | .ch pop k =>
    let x := s.issuingBlock.headEntry k
    (fun _ => x, if pop then popChan s.issuing.block k s else s)

/-- Several sources read in order. -/
def readSrcs (slot : Nat) : List Src → State → List (Nat → Word) × State
  | [], s => ([], s)
  | a :: rest, s =>
    let (x, s) := readSrc slot a s
    let (xs, s) := readSrcs (slot + 1) rest s
    (x :: xs, s)

/-! ### The gate of a lane word: what comes before its effect -/

/-- An uncorrectable register error that the word reads: the group stops, ctl3 logs the register and contributes KILL with
REASON 0x22 (R79, R204). -/
def registerKill (r : BadReg) (s : State) : Out :=
  let k := s.iss.group
  let s := s.setGroup k { s.group k with stopped := true, waiting := .nothing }
  let s := { s with iss := { s.iss with issued := true } }
  .next ((s.logError (.badRegister k r)).contributeKill (s.block (s.group k).block).ctx 0x22)

/-- What a word reads and writes, as far as the gate needs it: lane registers and mask bits by (number, lane). An
accumulator register's error does not stop the group (R79). -/
structure Uses where
  readV : List (Nat × Nat)
  writeV : List (Nat × Nat)
  readM : List (Nat × Nat)
  readS : List Nat
  writeS : List Nat
  chans : List ChUse
  readAcc : List (Nat × Nat) := []
  late : Bool := false
  deriving Repr

/-- A word that uses nothing. -/
def noUses : Uses := { readV := [], writeV := [], readM := [], readS := [], writeS := [], chans := [] }

/-- The register with an uncorrectable error that the word reads, if there is one (R79). -/
def badRead (g : Group) (u : Uses) : Option BadReg :=
  g.bad.find? (fun b =>
    match b with
    | .lane l r => u.readV.contains (r, l)
    | .uniform r => u.readS.contains r
    | .mask r => u.readM.any (fun x => x.1 = r)
    | _ => false)

/-- Whether the word reads a register that holds an uncorrectable error (R79). -/
def readsBad (g : Group) (u : Uses) : Bool := (badRead g u).isSome

/-- Whether a result that the word reads or would overwrite is pending (R323). -/
def pendingUse (g : Group) (u : Uses) : Bool :=
  u.readV.any (fun x => g.pendingV x.1 x.2) || u.writeV.any (fun x => g.pendingV x.1 x.2) ||
  u.readAcc.any (fun x => g.pendingV x.1 x.2) ||
  u.readS.any g.pendingS || u.writeS.any g.pendingS

/-- Whether the word would read a fixed-latency result early (R324). -/
def earlyUse (s : State) (g : Group) (u : Uses) : Bool :=
  (u.readV ++ u.readAcc).any (fun x => tooEarly s g false x.1 x.2) || u.readM.any (fun x => tooEarly s g true x.1 x.2)

/-- Whether the gate finds an early read under CHK: a word that waits for a record reads its other operands, and is tested, after it (R417, R327). -/
def shortAtGate (s : State) (g : Group) (u : Uses) : Bool := g.chk && !u.late && earlyUse s g u

/-- STALL_SHORT at the word's PC, for all its lanes (R324, log 18). -/
def stallShort (uniform : Bool) (s : State) : Out := trapSel tStallShort uniform 0 0 s

/-- CHANNEL, with the channel number in AUX (R242). -/
def channelTrap (uniform : Bool) (k : Nat) (s : State) : Out :=
  trapSel tChannel uniform 0 (BitVec.ofNat 64 k) s

/-- The offsets in the scratchpad of the ring entries that the pops and peeks of a word read (R185); `taken` are the pops before. -/
def headOffs (b : Block) (taken : List Nat) : List ChUse → List Nat
  | [] => []
  | .pop k :: rest => ((b.chan k).base + 4 * (((b.chan k).head + taken.count k) % (b.chan k).depth)) :: headOffs b (k :: taken) rest
  | .peek k :: rest => ((b.chan k).base + 4 * (((b.chan k).head + taken.count k) % (b.chan k).depth)) :: headOffs b taken rest
  | .push _ :: rest => headOffs b taken rest

/-- Whether an access of the issuing group to some bytes of a scratchpad has still to be applied. -/
def bankBusy (s : State) (bk off n : Nat) : Bool :=
  s.entries.any (fun e => decide (e.issuer = .group s.iss.group) &&
    (match e.target with
    | .bank b o => decide (b = bk) && decide (o < off + n) && decide (off < o + e.size)
    | _ => false))

/-- Whether a ring entry that the word reads is still to be accessed by an earlier word of the group: a pop or peek comes after it, like
any access to that address (R59). -/
def ringBusy (s : State) (u : Uses) : Bool :=
  (headOffs s.issuingBlock [] u.chans).any (fun o => bankBusy s s.issuing.block o 4)

/-- The gate: register errors and pending results; the waits for the channel operands; then, in the cycle in which the word issues, early reads
under CHK and the traps of its channels (R327, R323, R185, R59, R324), and then the body. A channel whose descriptor lies beyond the allocation traps PROTECTION (R54). With no lane in act
(`chanActs` false) a channel does not act: it traps nothing, and one of DEPTH 0 is not waited for either; but an operand that cannot be
served is waited for, so that a push of a group outside the producer mask, which never has allowance, waits for ever. The spec does not
say what becomes of these two cases: this is the model's choice (log 51). -/
def gate (uniform : Bool) (chanActs : Bool) (u : Uses) (body : State → Out) (s : State) : Out :=
  let g := s.issuing
  let b := s.issuingBlock
  match badRead g u with
  | some r => registerKill r s
  | none =>
  if pendingUse g u then hold .scoreboard s
  else
    let beyond := chanActs && u.chans.any (fun c => decide (b.scr < chOff c.chan + 16))
    let fault := if chanActs then chanFault g b u.chans else none
    let served := !beyond && fault.isNone
    if served && (u.chans.all (fun c => (b.chan c.chan).depth ≠ 0) && !chanReady g b [] u.chans) then hold .channel s
    else if served && (chanActs && ringBusy s u) then hold .store s
    else if shortAtGate s g u then stallShort uniform s
    else if beyond then trapSel tProtection uniform 0 0 s
    else
      match fault with
      | some k => channelTrap uniform k s
      | none => body { s with free := s.free + 1 }

/-- The gate of a lane word: its PFX must be one it accepts (R313), and a channel acts only when some lane does. It writes the lanes of
act and those that a zeroing guard clears (R315, R323). -/
def laneGate (acc : Accept) (u : List Nat → Uses) (body : List Nat → State → Out) (s : State) : Out :=
  if pfxOk acc s.iss.pfx then
    let act := actLanes s
    let v := u act
    gate false (decide (act ≠ [])) { v with readM := guardBits s ++ v.readM, writeV := (u (act ++ zeroLanes s act)).writeV } (body act) s
  else illegal s

/-! ### Results of lane words -/

/-- Whether two hazards are of one register in one lane. -/
def Hazard.same (h x : Hazard) : Bool := decide (x.isMask = h.isMask ∧ x.reg = h.reg ∧ x.lane = h.lane)

/-- A hazard list with one more producer, the newest first. Producers that are available are dropped; an older producer of the same
register can be read no longer than until the newer one is available (R322). -/
def addHazard (clock : Nat) (hs : List Hazard) (h : Hazard) : List Hazard :=
  h :: (hs.filter (fun x => clock < x.ready)).map (fun x => if h.same x then { x with ready := min x.ready h.ready } else x)

/-- A lane register written by the word being issued, available `lat` cycles later (R321); an error that waited in it
is gone. -/
def Group.putV (g : Group) (clock lat r l : Nat) (x : Word) : Group :=
  let g' := { g.setVreg r l x with bad := g.bad.filter (fun x => decide (x ≠ BadReg.lane l r)) }
  if lat = 0 then { g' with hazards := g'.hazards.filter (fun h => !(decide (h.isMask = false ∧ h.reg = r ∧ h.lane = l))) }
  else { g' with hazards := addHazard clock g'.hazards { isMask := false, reg := r, lane := l, old := g.vreg r l, ready := clock + lat } }

/-- A bit of a mask written by a lane compare (R343); an error of the mask stays, since its other bits do. -/
def Group.putMBit (g : Group) (clock lat r l : Nat) (x : Bool) : Group :=
  let m := getKey 0 g.m r
  let bit : DWord := 1#64 <<< l
  let g' := g.setMreg r (if x then m ||| bit else m &&& ~~~bit)
  let h : Hazard := { isMask := true, reg := r, lane := l, old := if m.getLsbD l then 1 else 0, ready := clock + lat }
  { g' with hazards := addHazard clock g'.hazards h }

/-- Results written to a register in each lane of a list. -/
def putLanes (clock lat r : Nat) (f : Nat → Word) : List Nat → Group → Group
  | [], g => g
  | l :: rest, g => putLanes clock lat r f rest (g.putV clock lat r l (f l))

/-- A zeroing guard's writes (R315): available at once, since their lanes are not in the producer's act. -/
def putZeros (clock r : Nat) : List Nat → Group → Group
  | [], g => g
  | l :: rest, g => putZeros clock r rest (g.putV clock 0 r l 0)

/-- The destination of a lane word written: each lane of act its own value, or a push of the lowest lane's (R337). -/
def putDst (lat : Nat) (d : Dst) (act : List Nat) (f : Nat → Word) (s : State) : State :=
  match d with
  | .reg r => s.setGroup s.iss.group (putZeros s.clock r (zeroLanes s act) (putLanes s.clock lat r f act s.issuing))
  | .push k =>
    match act with
    | [] => s
    | l :: _ => placePush k (f l) (takeAllowance k s)

/-- What a lane word with register operands reads and writes. -/
def laneUses (d : Dst) (srcs : List Src) (act : List Nat) : Uses :=
  { readV := srcs.flatMap (fun a => srcRegs a act),
    writeV := match d with
      | .reg r => act.map (fun l => (r, l))
      | .push _ => [],
    readM := [], readS := [], writeS := [], chans := srcs.flatMap srcUse ++ dstUse d }

/-- The common frame of the computing lane words (R337): the sources in order, the function lane by lane, the
destination, and the PCs. With no lane in act nothing is read or written but zeros (R315). -/
def laneWord (acc : Accept) (lat : Nat) (d : Dst) (srcs : List Src) (f : State → Nat → List Word → Word) (s : State) : Out :=
  laneGate acc (laneUses d srcs) (fun act s =>
    if act = [] then .next ((putDst lat d [] (fun _ => 0) s).advance)
    else
      let (xs, s') := readSrcs 0 srcs s
      .next ((putDst lat d act (fun l => f s l (xs.map (fun x => x l))) s').advance)) s

/-- A three-source word (R311): without a PFX, a vd that names a channel traps ILLEGAL_OP. -/
def laneWord3 (acc : Accept) (lat : Nat) (d : Dst) (a b : Src) (f : State → Nat → List Word → Word) (s : State) : Out :=
  match thirdSrc s d with
  | none => illegal s
  | some c => laneWord { acc with vc := true } lat d [a, b, c] f s

/-- The values of a list of sources, as a function of two or three. -/
def bin (f : Word → Word → Word) : List Word → Word
  | a :: b :: _ => f a b
  | _ => 0

def un (f : Word → Word) : List Word → Word
  | a :: _ => f a
  | _ => 0

def tern (f : Word → Word → Word → Word) : List Word → Word
  | a :: b :: c :: _ => f a b c
  | _ => 0

/-! ### Uniform words (R381, R382) -/

/-- What a uniform word with these operands reads and writes. -/
def uniUses (d : Option Dst) (srcs : List Src) : Uses :=
  { readV := [], writeV := [], readM := [],
    readS := srcs.filterMap Src.regNo,
    writeS := match d with
      | some (.reg n) => [n]
      | _ => [],
    chans := srcs.flatMap srcUse ++ (match d with
      | some d => dstUse d
      | none => []) }

/-- The gate of a uniform word: a PFX before it traps ILLEGAL_OP (R381, R326). -/
def uniGate (u : Uses) (body : State → Out) (s : State) : Out :=
  if s.iss.pfx.isSome then illegalUni s else gate true true u body s

/-- A uniform source read with its channel action; a channel entry is zero-extended (R316). -/
def readU (a : Src) (s : State) : DWord × State :=
  match a with
  | .reg n => (s.issuing.sreg n, s)
  | .ch pop k =>
    let x := s.issuingBlock.headEntry k
    (x.zeroExtend 64, if pop then popChan s.issuing.block k s else s)

/-- Uniform sources read in the order sa, then sb (R382). -/
def readUs : List Src → State → List DWord × State
  | [], s => ([], s)
  | a :: rest, s =>
    let (x, s) := readU a s
    let (xs, s) := readUs rest s
    (x :: xs, s)

/-- A uniform register written whole: an error that waited in it is gone (R79). -/
def Group.putS (g : Group) (n : Nat) (x : DWord) : Group :=
  { g.setSreg n x with bad := g.bad.filter (fun b => decide (b ≠ BadReg.uniform n)) }

/-- A uniform destination written; a channel push takes bits [31:0] (R316). -/
def putU (d : Dst) (x : DWord) (s : State) : State :=
  match d with
  | .reg n => s.setGroup s.iss.group (s.issuing.putS n x)
  | .push k => placePush k (x.truncate 32) (takeAllowance k s)

/-- The common frame of the uniform words that compute (R383). -/
def uniWord (d : Dst) (srcs : List Src) (f : State → List DWord → DWord) (s : State) : Out :=
  uniGate (uniUses (some d) srcs) (fun s =>
    let (xs, s') := readUs srcs s
    .next ((putU d (f s xs) s').advance)) s

def ubin (f : DWord → DWord → DWord) : List DWord → DWord
  | a :: b :: _ => f a b
  | _ => 0

def uun (f : DWord → DWord) : List DWord → DWord
  | a :: _ => f a
  | _ => 0

end Sys2Proof.Machine
end

