-- ==== Sys2Proof/Machine/Float.lean ====
section
/-! DEFINITION. Number formats, exact values and rounding (R253 to R268), and the coin function (R267). -/

namespace Sys2Proof.Machine

/-! ### Exact values -/

/-- An exact value: NaN, an infinity, or (−1)^neg × m × 2^e. Zero keeps its sign. -/
inductive FVal where
  | nan
  | inf (neg : Bool)
  | num (neg : Bool) (m : Nat) (e : Int)
  deriving DecidableEq, Repr

/-- The value of an integer. -/
def ofInt (x : Int) : FVal := .num (decide (x < 0)) x.natAbs 0

/-- The value of +0. -/
def fzero : FVal := .num false 0 0

/-- A mantissa moved to a lower exponent: m × 2^e as a multiple of 2^e'. -/
def alignTo (m : Nat) (e e' : Int) : Nat := m * 2 ^ (e - e').toNat

/-- The exact sum; a zero sum of opposite signs is −0 only when `rd` (R268). -/
def fAdd (rd : Bool) : FVal → FVal → FVal
  | .nan, _ => .nan
  | _, .nan => .nan
  | .inf a, .inf b => if a = b then .inf a else .nan
  | .inf a, _ => .inf a
  | _, .inf b => .inf b
  | .num a m e, .num b n f =>
    let lo := if e ≤ f then e else f
    let x := alignTo m e lo
    let y := alignTo n f lo
    if a = b then .num a (x + y) lo
    else if x = y then .num rd 0 lo
    else if y < x then .num a (x - y) lo
    else .num b (y - x) lo

/-- The exact product. -/
def fMul : FVal → FVal → FVal
  | .nan, _ => .nan
  | _, .nan => .nan
  | .inf a, .inf b => .inf (a != b)
  | .inf a, .num b n _ => if n = 0 then .nan else .inf (a != b)
  | .num a m _, .inf b => if m = 0 then .nan else .inf (a != b)
  | .num a m e, .num b n f => .num (a != b) (m * n) (e + f)

def fNegate : FVal → FVal
  | .nan => .nan
  | .inf a => .inf (!a)
  | .num a m e => .num (!a) m e

/-- Whether x < y; false with a NaN, and −0 equals +0. -/
def fLt : FVal → FVal → Bool
  | .nan, _ => false
  | _, .nan => false
  | .inf a, .inf b => a && !b
  | .inf a, .num _ _ _ => a
  | .num _ _ _, .inf b => !b
  | .num a m e, .num b n f =>
    let lo := if e ≤ f then e else f
    let x : Int := if a then -(alignTo m e lo : Int) else alignTo m e lo
    let y : Int := if b then -(alignTo n f lo : Int) else alignTo n f lo
    decide (x < y)

def fIsNan : FVal → Bool
  | .nan => true
  | _ => false

def fEq (x y : FVal) : Bool := !fIsNan x && !fIsNan y && !fLt x y && !fLt y x

/-! ### Formats (R253, R258) -/

/-- The layout of a binary floating-point format: fraction and exponent widths, bias, the largest finite code, and the
codes of infinity (none: 0) and of the default NaN. -/
structure Layout where
  frac : Nat
  expo : Nat
  bias : Nat
  maxFinite : Nat
  infinity : Nat
  nan : Nat
  deriving DecidableEq, Repr

def layF32 : Layout := { frac := 23, expo := 8, bias := 127, maxFinite := 0x7F7FFFFF, infinity := 0x7F800000, nan := 0x7FC00000 }
def layF16 : Layout := { frac := 10, expo := 5, bias := 15, maxFinite := 0x7BFF, infinity := 0x7C00, nan := 0x7E00 }
def layBf16 : Layout := { frac := 7, expo := 8, bias := 127, maxFinite := 0x7F7F, infinity := 0x7F80, nan := 0x7FC0 }
def layE4m3 : Layout := { frac := 3, expo := 4, bias := 7, maxFinite := 0x7E, infinity := 0, nan := 0x7F }
def layE5m2 : Layout := { frac := 2, expo := 5, bias := 15, maxFinite := 0x7B, infinity := 0x7C, nan := 0x7E }
def layE2m1 : Layout := { frac := 1, expo := 2, bias := 1, maxFinite := 0x7, infinity := 0, nan := 0 }

/-- The sign bit's place. -/
def Layout.signBit (l : Layout) : Nat := l.frac + l.expo

/-- The exponent of the smallest subnormal. -/
def Layout.minExp (l : Layout) : Int := 1 - (l.bias : Int) - (l.frac : Int)

/-- The value of a code. -/
def Layout.value (l : Layout) (x : Nat) : FVal :=
  let neg := x / 2 ^ l.signBit % 2 = 1
  let mag := x % 2 ^ l.signBit
  if mag ≤ l.maxFinite then
    let e := mag / 2 ^ l.frac
    let m := mag % 2 ^ l.frac
    if e = 0 then .num neg m l.minExp
    else .num neg (m + 2 ^ l.frac) (l.minExp + (e : Int) - 1)
  else if mag = l.infinity then .inf neg
  else .nan

/-- The value of a ds8 code in units of 2^−7 (R255). -/
def ds8Units (c : Nat) : Int :=
  let term := fun t => (if t / 8 % 2 = 1 then -1 else 1 : Int) * 2 ^ (7 - t % 8)
  term (c / 16 % 16) + term (c % 16)

/-- The canonical code of a ds8 value (R255). -/
def ds8Code (v : Int) : Nat := ((List.range 256).find? (fun c => ds8Units c = v)).getD 0x08

/-- A number read as signed in `w` bits. -/
def signedOf (w x : Nat) : Int := if x % 2 ^ w < 2 ^ (w - 1) then (x % 2 ^ w : Nat) else (x % 2 ^ w : Nat) - 2 ^ w

/-- The layout of a floating-point format code (R258), but for ds8 and the integers. -/
def layoutOf (f : Nat) : Option Layout :=
  match f with
  | 0x0 => some layF32
  | 0x1 => some layF16
  | 0x2 => some layBf16
  | 0x3 => some layE4m3
  | 0x4 => some layE5m2
  | 0x5 => some layE2m1
  | _ => none

/-- Whether a format code is a signed integer. -/
def isSignedFmt (f : Nat) : Bool := f = 7 || f = 8 || f = 9

/-- The value of the low bits of a register in a format (R259). -/
def valueOf (f x : Nat) : FVal :=
  match layoutOf f with
  | some l => l.value (x % 2 ^ fmtBits f)
  | none =>
    if f = 6 then
      let v := ds8Units (x % 256)
      .num (decide (v < 0)) v.natAbs (-7)
    else if isSignedFmt f then ofInt (signedOf (fmtBits f) x)
    else .num false (x % 2 ^ fmtBits f) 0

/-! ### Rounding (R260 to R265) -/

/-- Rounding modes as R260 numbers them: 0 RNE, 1 RZ, 2 RD, 3 RU, 4 SR. Whether the magnitude k + rem/2^d goes up to
k + 1; `u` is the coin of SR. -/
def roundsUp (mode : Nat) (neg : Bool) (k rem d u : Nat) : Bool :=
  if rem = 0 then false
  else
    match mode with
    | 0 => decide (2 ^ d < rem * 2) || (decide (rem * 2 = 2 ^ d) && k % 2 = 1)
    | 1 => false
    | 2 => neg
    | 3 => !neg
    | _ => if neg then !decide (u * 2 ^ d < (2 ^ d - rem) * 2 ^ 32) else decide (u * 2 ^ d < rem * 2 ^ 32)

/-- A magnitude m × 2^e as a multiple of 2^q, rounded (R262). -/
def roundAt (mode : Nat) (neg : Bool) (m : Nat) (e q : Int) (u : Nat) : Nat :=
  if q ≤ e then alignTo m e q
  else
    let d := (q - e).toNat
    let k := m / 2 ^ d
    if roundsUp mode neg k (m % 2 ^ d) d u then k + 1 else k

/-- The exponent of the last fraction bit for a magnitude m × 2^e (R262). -/
def Layout.unit (l : Layout) (m : Nat) (e : Int) : Int :=
  let q := (Nat.log2 m : Int) + e - l.frac
  if q ≤ l.minExp then l.minExp else q

/-- The code of an overflowed or infinite result (R263). `finite` for a finite overflow. -/
def Layout.overflow (l : Layout) (mode : Nat) (sat neg finite : Bool) : Nat :=
  let s := if neg then 2 ^ l.signBit else 0
  if l.infinity = 0 then
    (if l.nan = 0 then s + l.maxFinite else if sat then s + l.maxFinite else l.nan)
  else if sat then s + l.maxFinite
  else if finite && (mode = 1 || (mode = 2 && !neg) || (mode = 3 && neg)) then s + l.maxFinite
  else s + l.infinity

/-- Whether a magnitude lies beyond the largest finite value: its code rounded towards zero does, or is the largest with something left. -/
def Layout.beyond (l : Layout) (m : Nat) (e : Int) : Bool :=
  let q := l.unit m e
  let code := (q - l.minExp).toNat * 2 ^ l.frac + roundAt 1 false m e q 0
  decide (l.maxFinite < code) || (decide (code = l.maxFinite ∧ e < q) && decide (m % 2 ^ (q - e).toNat ≠ 0))

/-- The code of a value rounded to a floating-point layout (R262, R263); under SR a value beyond the largest finite one overflows (R265). -/
def Layout.round (l : Layout) (mode : Nat) (sat : Bool) (u : Nat) : FVal → Nat
  | .nan => l.nan
  | .inf neg => l.overflow mode sat neg false
  | .num neg m e =>
    let q := l.unit m e
    let k := roundAt mode neg m e q u
    let code := (q - l.minExp).toNat * 2 ^ l.frac + k
    if m = 0 then (if neg then 2 ^ l.signBit else 0)
    else if l.maxFinite < code ∨ (mode = 4 ∧ l.beyond m e = true) then l.overflow mode sat neg true
    else (if neg then 2 ^ l.signBit else 0) + code

/-- The code of a value rounded to ds8 (R262, R263): the candidates are the values of R255. -/
def ds8Round (mode u : Nat) : FVal → Nat
  | .nan => 0x08
  | .inf neg => ds8Code (if neg then -256 else 256)
  | .num neg m e =>
    let d := (-(e + 7)).toNat
    let n : Int := (if neg then -1 else 1 : Int) * (alignTo m (if -7 ≤ e then e else -7) (-7) : Nat)
    let x : Int := if -7 ≤ e then n else (if neg then -1 else 1 : Int) * (m : Nat)
    let d := if -7 ≤ e then 0 else d
    let lo := (List.range 256).foldl (fun b c => let v := ds8Units c; if v * 2 ^ d ≤ x ∧ b < v then v else b) (-257)
    let hi := (List.range 256).foldl (fun b c => let v := ds8Units c; if x ≤ v * 2 ^ d ∧ v < b then v else b) 257
    if hi = 257 then ds8Code 256
    else if lo = -257 then ds8Code (-256)
    else if lo = hi then ds8Code lo
    else
      let up := hi * 2 ^ d - x
      let down := x - lo * 2 ^ d
      match mode with
      | 0 => if down < up then ds8Code lo else if up < down then ds8Code hi
             else if lo.natAbs ≤ hi.natAbs then ds8Code lo else ds8Code hi
      | 1 => if neg then ds8Code hi else ds8Code lo
      | 2 => ds8Code lo
      | 3 => ds8Code hi
      | _ => if (u : Int) * ((hi - lo) * 2 ^ d) < down * 2 ^ 32 then ds8Code hi else ds8Code lo

/-- A value rounded to an integer format, clamped (R263): the value, not yet a code. -/
def intRound (f mode u : Nat) : FVal → Int
  | .nan => 0
  | .inf neg =>
    if isSignedFmt f then (if neg then -2 ^ (fmtBits f - 1) else 2 ^ (fmtBits f - 1) - 1)
    else (if neg then 0 else 2 ^ fmtBits f - 1)
  | .num neg m e =>
    let k := roundAt mode neg m e (if 0 ≤ e then e else 0) u
    let k := if 0 ≤ e then k * 2 ^ e.toNat else k
    let v : Int := if neg then -(k : Int) else k
    let lo : Int := if isSignedFmt f then -2 ^ (fmtBits f - 1) else 0
    let hi : Int := if isSignedFmt f then 2 ^ (fmtBits f - 1) - 1 else 2 ^ fmtBits f - 1
    if v < lo then lo else if hi < v then hi else v

/-- The element code of a value rounded to a format (R262, R263), in the format's width. -/
def roundTo (f mode : Nat) (sat : Bool) (u : Nat) (x : FVal) : Nat :=
  match layoutOf f with
  | some l => l.round mode sat u x
  | none => if f = 6 then ds8Round mode u x else ((intRound f mode u x) % 2 ^ fmtBits f).toNat

/-- An element code as a single value in a lane register (R259): i8 and i16 are filled with the sign. -/
def fillReg (f x : Nat) : Word :=
  if isSignedFmt f then BitVec.ofInt 32 (signedOf (fmtBits f) x) else BitVec.ofNat 32 x

/-! ### The coin function (R267) -/

def cf64Step (x : DWord) : DWord := (x ^^^ (x >>> 32)) * 0xD6E8FEB86659FD93

def cf64 (seed stream index : DWord) : DWord :=
  let x := seed ^^^ (stream * 0xD6E8FEB86659FD93) ^^^ (index * 0x9E3779B97F4A7C15)
  let x := cf64Step (cf64Step x)
  x ^^^ (x >>> 32)

/-- The coin of stochastic rounding (R265): `pc` of the PFX or of MST, and the lane's SR count. -/
def srCoin (mode : DWord) (pc : Word) (lane : Nat) (srcnt : Word) : Nat :=
  ((cf64 ((mode >>> 32)) (pc.zeroExtend 64) (BitVec.ofNat 64 (lane * 2 ^ 32) + srcnt.zeroExtend 64)) >>> 32).toNat

/-! ### f32 -/

def fv (x : Word) : FVal := layF32.value x.toNat

/-- f32, rounded RNE. -/
def rne32 (x : FVal) : Word := BitVec.ofNat 32 (layF32.round 0 false 0 x)

/-- The f32 default NaN (R254). -/
def nan32 : Word := 0x7FC00000

def isNan32 (x : Word) : Bool := fIsNan (fv x)

/-- The order of FMIN and FMAX (R345): −0 is below +0. -/
def f32Below (a b : Word) : Bool :=
  fLt (fv a) (fv b) || (fEq (fv a) (fv b) && a.getLsbD 31 && !b.getLsbD 31)

def fmin32 (a b : Word) : Word :=
  if isNan32 a then (if isNan32 b then nan32 else b)
  else if isNan32 b then a else if f32Below b a then b else a

def fmax32 (a b : Word) : Word :=
  if isNan32 a then (if isNan32 b then nan32 else b)
  else if isNan32 b then a else if f32Below a b then b else a

/-- f32 addition rounded RNE, as the reductions and atomics use it (R356, R370). -/
def fadd32 (a b : Word) : Word := rne32 (fAdd false (fv a) (fv b))

end Sys2Proof.Machine
end

