-- ==== Sys2Proof/Machine/Sfu.lean ====
section
/-! DEFINITION. The special functions (R276, R352). RCP and SQRT are correctly rounded. EXP2, LOG2, SIN, COS and TANH are
one of the two f32 neighbours of the exact value, and RSQ is within one ulp of it: Config says which (log 7). The exact
value is found in fixed point with 700 fraction bits, far finer than the gap of any f32 argument's result from an f32. -/

namespace Sys2Proof.Machine

/-- The fraction bits of the fixed point. -/
abbrev fxBits : Nat := 700

abbrev fxOne : Nat := 2 ^ fxBits

/-- The product of two fixed-point numbers. -/
def fxMul (a b : Nat) : Nat := a * b / fxOne

/-- 1 + r + r²/2! + … to `fuel` terms, from term number n. -/
def expSum (r : Nat) : Nat → Nat → Nat → Nat
  | 0, _, _ => 0
  | fuel + 1, n, t => t + expSum r fuel (n + 1) (fxMul t r / (n + 1))

/-- e^r for 0 ≤ r < 1. -/
def fxExp (r : Nat) : Nat := expSum r 160 0 fxOne

/-- z + z³/3 + z⁵/5 + …, `p` the power of z reached. -/
def atanhSum (zz : Nat) : Nat → Nat → Nat → Nat
  | 0, _, _ => 0
  | fuel + 1, n, p => p / n + atanhSum zz fuel (n + 2) (fxMul p zz)

/-- ln y for 1 ≤ y < 2, as a fraction num/den: 2 artanh((y − 1)/(y + 1)). -/
def fxLn (num den : Nat) : Nat :=
  let z := (num - den) * fxOne / (num + den)
  2 * atanhSum (fxMul z z) 240 1 z

/-- ln 2. -/
def fxLn2 : Nat :=
  let z := fxOne / 3
  2 * atanhSum (fxMul z z) 240 1 z

/-- artan(1/k) with `g` more fraction bits. -/
def arctanInv (k : Nat) : Nat → Nat → Nat → Bool → Int
  | 0, _, _, _ => 0
  | fuel + 1, n, p, neg => (if neg then -((p / n : Nat) : Int) else (p / n : Nat)) + arctanInv k fuel (n + 2) (p / (k * k)) (!neg)

/-- π/2 with fxBits + 140 fraction bits: 8 artan(1/5) − 2 artan(1/239). -/
def halfPi : Nat :=
  let one := 2 ^ (fxBits + 160)
  ((8 * arctanInv 5 200 1 (one / 5) false - 2 * arctanInv 239 60 1 (one / 239) false).toNat) / 2 ^ 20

/-- The alternating sum t − t r²/((n+1)(n+2)) + … of sine (from n = 1) and cosine (from n = 0). -/
def trigSum (rr : Nat) : Nat → Nat → Int → Int
  | 0, _, _ => 0
  | fuel + 1, n, t => t + trigSum rr fuel (n + 2) (-(t * rr / fxOne) / ((n + 1) * (n + 2) : Nat))

def fxSin (r : Nat) : Nat := (trigSum (fxMul r r) 100 1 r).toNat
def fxCos (r : Nat) : Nat := (trigSum (fxMul r r) 100 0 fxOne).toNat

/-- One of the two neighbours of an inexact value (R276): its magnitude is m × 2^e. -/
def faithful (fn : Nat) (x : Word) (neg : Bool) (m : Nat) (e : Int) : Word :=
  let lo := layF32.round 1 false 0 (.num false m e)
  let c := if Config.sfuUpper fn x then lo + 1 else lo
  BitVec.ofNat 32 (c + if neg then 2 ^ 31 else 0)

/-- 2^i × e^(f ln 2) as a magnitude. -/
def pow2 (i : Int) (f : Nat) : Nat × Int := (fxExp (fxMul f fxLn2), i - fxBits)

/-- m × 2^e as an integer part and a fraction, for e ≥ −fxBits. -/
def splitFx (m : Nat) (e : Int) : Nat := m * 2 ^ (e + fxBits).toNat

def sfuExp2 (x : Word) : Word :=
  match fv x with
  | .nan => nan32
  | .inf neg => if neg then 0 else 0x7F800000
  | .num neg m e =>
    if m = 0 then 0x3F800000
    else
      let a := splitFx m e
      if 400 * fxOne ≤ a then (if neg then faithful 0 x false 1 (-300) else 0x7F800000)
      else
        let whole : Int := (a / fxOne : Nat)
        let frac := a % fxOne
        if frac = 0 then rne32 (.num false 1 (if neg then -whole else whole)) |> (fun r =>
            if neg && decide (149 < whole) then faithful 0 x false 1 (-whole) else r)
        else
          let (v, e') := if neg then pow2 (-whole - 1) (fxOne - frac) else pow2 whole frac
          if 128 ≤ whole && !neg then 0x7F800000 else faithful 0 x false v e'

def sfuLog2 (x : Word) : Word :=
  match fv x with
  | .nan => nan32
  | .inf neg => if neg then nan32 else 0x7F800000
  | .num neg m e =>
    if m = 0 then 0xFF800000
    else if neg then nan32
    else
      let k := Nat.log2 m
      let i : Int := e + k
      if m = 2 ^ k then rne32 (ofInt i)
      else
        let v : Int := i * fxOne + (fxLn m (2 ^ k) * fxOne / fxLn2 : Nat)
        faithful 1 x (decide (v < 0)) v.natAbs (-(fxBits : Int))

/-- A quotient with a sticky last bit, so that one rounding of it is the rounding of the exact quotient. -/
def sticky (q : Nat) (exact : Bool) : Nat := 2 * q + if exact then 0 else 1

def sfuRcp (x : Word) : Word :=
  match fv x with
  | .nan => nan32
  | .inf neg => if neg then 0x80000000 else 0
  | .num neg m e =>
    if m = 0 then (if neg then 0xFF800000 else 0x7F800000)
    else rne32 (.num neg (sticky (2 ^ 100 / m) (decide (2 ^ 100 % m = 0))) (-e - 101))

/-- The integer square root, bit by bit from bit `n`. -/
def isqrtFrom (x : Nat) : Nat → Nat → Nat
  | 0, r => r
  | n + 1, r => if (r + 2 ^ n) * (r + 2 ^ n) ≤ x then isqrtFrom x n (r + 2 ^ n) else isqrtFrom x n r

/-- m × 2^e with an even exponent and many bits. -/
def evenScale (m : Nat) (e : Int) : Nat × Int := if e % 2 = 0 then (m * 2 ^ 80, e - 80) else (m * 2 ^ 81, e - 81)

def sfuSqrt (x : Word) : Word :=
  match fv x with
  | .nan => nan32
  | .inf neg => if neg then nan32 else 0x7F800000
  | .num neg m e =>
    if m = 0 then x
    else if neg then nan32
    else
      let (y, f) := evenScale m e
      let r := isqrtFrom y 64 0
      rne32 (.num false (sticky r (decide (r * r = y))) (f / 2 - 1))

/-- The code of the largest f32 not above 1/√(m × 2^e). -/
def rsqFloor (m : Nat) (e : Int) : Nat :=
  let (y, f) := evenScale m e
  let r := isqrtFrom (2 ^ 300 / y) 160 0
  layF32.round 1 false 0 (.num false r (-150 - f / 2))

/-- Whether a × 2^p, squared and times m × 2^e, is at most 1. -/
def sqLeOne (a : Nat) (p : Int) (m : Nat) (e : Int) : Bool :=
  let k := 2 * p + e
  if 0 ≤ k then decide (a * a * m * 2 ^ k.toNat ≤ 1) else decide (a * a * m ≤ 2 ^ (-k).toNat)

/-- Whether a × 2^p, squared and times m × 2^e, is at least 1. -/
def sqGeOne (a : Nat) (p : Int) (m : Nat) (e : Int) : Bool :=
  let k := 2 * p + e
  if 0 ≤ k then decide (1 ≤ a * a * m * 2 ^ k.toNat) else decide (2 ^ (-k).toNat ≤ a * a * m)

/-- Whether an f32 code stands within one ulp of 1/√(m × 2^e), the ulp being that of the code `lo` below it. -/
def withinUlp (lo : Nat) (m : Nat) (e : Int) (c : Nat) : Bool :=
  match layF32.value lo, layF32.value c with
  | .num _ _ q, .num _ n p =>
    let b := if q ≤ p then q else p
    let v := alignTo n p b
    let u := alignTo 1 q b
    (decide (v ≤ u) || sqLeOne (v - u) b m e) && sqGeOne (v + u) b m e
  | _, _ => false

def sfuRsq (x : Word) : Word :=
  match fv x with
  | .nan => nan32
  | .inf neg => if neg then nan32 else 0
  | .num neg m e =>
    if m = 0 then (if neg then 0xFF800000 else 0x7F800000)
    else if neg then nan32
    else
      let lo := rsqFloor m e
      let ok := ((List.range 5).map (fun i => lo + i - 2)).filter (withinUlp lo m e)
      BitVec.ofNat 32 (ok.getD (Config.rsqStep x % ok.length) lo)

/-- The quadrant of x and the rest of x in it. -/
def quadrant (m : Nat) (e : Int) : Nat × Nat :=
  let a := splitFx m e * 2 ^ 140
  (a / halfPi % 4, a % halfPi / 2 ^ 140)

def sfuTrig (fn : Nat) (turn : Nat) (neg : Bool) (x : Word) (m : Nat) (e : Int) : Word :=
  let (k, r) := quadrant m e
  let k := (k + turn) % 4
  let v := if k % 2 = 0 then fxSin r else fxCos r
  faithful fn x (decide (2 ≤ k) != neg) v (-(fxBits : Int))

def sfuSin (x : Word) : Word :=
  match fv x with
  | .num neg m e => if m = 0 then x else sfuTrig 5 0 neg x m e
  | _ => nan32

def sfuCos (x : Word) : Word :=
  match fv x with
  | .num _ m e => if m = 0 then 0x3F800000 else sfuTrig 6 1 false x m e
  | _ => nan32

def sfuTanh (x : Word) : Word :=
  match fv x with
  | .nan => nan32
  | .inf neg => if neg then 0xBF800000 else 0x3F800000
  | .num neg m e =>
    if m = 0 then x
    else
      let a := splitFx m e
      if 128 * fxOne ≤ a then faithful 7 x neg (2 ^ 40 - 1) (-40)
      else
        let y := 2 * a * fxOne / fxLn2
        let (t, e') := pow2 (-(y / fxOne + 1 : Nat)) (fxOne - y % fxOne)
        let t := t / 2 ^ (-(e' + fxBits)).toNat
        faithful 7 x neg ((fxOne - t) * fxOne / (fxOne + t)) (-(fxBits : Int))

/-- The special function with a function code (R310, R352). -/
def sfu (fn : Nat) (x : Word) : Word :=
  match fn with
  | 0 => sfuExp2 x
  | 1 => sfuLog2 x
  | 2 => sfuRcp x
  | 3 => sfuRsq x
  | 4 => sfuSqrt x
  | 5 => sfuSin x
  | 6 => sfuCos x
  | _ => sfuTanh x

end Sys2Proof.Machine
end

