-- ==== Sys2Proof/Machine/Summary.lean ====
section
/-! DEFINITION. The mergeable summaries (R277 to R296): layouts, inserts, merges and reads, over an object's bytes. -/

namespace Sys2Proof.Machine

/-! ### Objects (R277 to R279) -/

/-- The TYPE byte of a kind. -/
def SkKind.type : SkKind → Nat
  | .qsk => 0x51
  | .hhl => 0x48
  | .dcr => 0x44
  | .amx => 0x41

def SkKind.size : SkKind → Nat
  | .qsk => 2048
  | .hhl => 1024
  | .dcr => 2112
  | .amx => 64

/-- The kind of a code of SKINIT (R416). -/
def skKindOf (k : Nat) : SkKind :=
  match k with
  | 0 => .qsk
  | 1 => .hhl
  | 2 => .dcr
  | _ => .amx

/-- The kind that a TYPE byte names (R277). -/
def skKindOfType (t : Nat) : Option SkKind :=
  if t = 0x51 then some .qsk else if t = 0x48 then some .hhl else if t = 0x44 then some .dcr
  else if t = 0x41 then some .amx else none

/-- A byte list with the low `n` bytes of a number at an offset. -/
def putBytes (l : List Byte) (o n v : Nat) : List Byte := l.take o ++ bytesLE n v ++ l.drop (o + n)

/-- Whether bytes [o, o + n) are 0. -/
def zeroBytes (l : List Byte) (o n : Nat) : Bool := (sliceBytes l o n).all (· == 0)

def sat32 (x : Nat) : Nat := if 2 ^ 32 ≤ x then 2 ^ 32 - 1 else x
def sat64 (x : Nat) : Nat := if 2 ^ 64 ≤ x then 2 ^ 64 - 1 else x

def objType (l : List Byte) : Nat := recNat l 0 1
def objSeed (l : List Byte) : Nat := recNat l 8 8
def objWeight (l : List Byte) : Nat := recNat l 16 8

/-- WEIGHT with a number of values added, saturating (R277). -/
def addWeight (l : List Byte) (n : Nat) : List Byte := putBytes l 16 8 (sat64 (objWeight l + n))

/-- The registers of a DCR (R292). -/
def dcrRegs (l : List Byte) : List Nat := ((l.drop 64).take 2048).map BitVec.toNat

/-- Whether an object of a kind is well formed (R278, R280, R288, R292, R296). -/
def wellFormed (k : SkKind) (l : List Byte) : Bool :=
  decide (objType l = k.type) &&
  (match k with
  | .qsk => zeroBytes l 1 1 && decide (recNat l 2 1 ≤ 49) && zeroBytes l 3 1 &&
      (List.range 15).all (fun i => decide (recNat l (32 + i) 1 ≤ 31)) && zeroBytes l 47 1 && zeroBytes l 52 12 &&
      zeroBytes l 1984 64
  | .hhl => zeroBytes l 1 1 && decide (recNat l 2 1 ≤ 60) && zeroBytes l 3 5 && zeroBytes l 24 40
  | .dcr => zeroBytes l 1 1 && zeroBytes l 4 4 && zeroBytes l 24 40 && (dcrRegs l).all (fun r => decide (r ≤ 54)) &&
      decide (recNat l 2 2 = ((dcrRegs l).filter (fun r => decide (r = 0))).length)
  | .amx => decide (recNat l 1 1 ≤ 1) && zeroBytes l 2 2 && decide (recNat l 4 4 ≤ 0x7F800000) && zeroBytes l 24 40)

/-- The initial image (R279). -/
def initialImage (k : SkKind) (seed : Nat) : List Byte :=
  let l := putBytes (putBytes (List.replicate k.size 0) 0 1 k.type) 8 8 seed
  if k = .dcr then putBytes l 2 2 2048 else l

/-! ### Quantile sketch (R280 to R286) -/

/-- A QSK taken apart: `touched` are the levels that have been written. -/
structure Qsk where
  top : Nat
  compact : Nat
  seed : Nat
  weight : Nat
  mn : Word
  mx : Word
  nans : Nat
  levels : List (List Word)
  touched : List Nat
  deriving DecidableEq, Repr

/-- The items of level i (R280). -/
def levelItems (l : List Byte) (i : Nat) : List Word :=
  (List.range (recNat l (32 + i) 1)).map (fun j => BitVec.ofNat 32 (recNat l (64 + 128 * i + 4 * j) 4))

def readQsk (l : List Byte) : Qsk :=
  { top := recNat l 2 1, compact := recNat l 4 4, seed := objSeed l, weight := objWeight l,
    mn := BitVec.ofNat 32 (recNat l 24 4), mx := BitVec.ofNat 32 (recNat l 28 4), nans := recNat l 48 4,
    levels := (List.range 15).map (levelItems l), touched := [] }

/-- The 128 bytes of a level: its items, and 0 from FILL upward (R280). -/
def levelBytes (items : List Word) : List Byte :=
  let b := items.flatMap (fun w => bytesLE 4 w.toNat)
  b ++ List.replicate (128 - b.length) 0

/-- The object with a QSK written back. -/
def writeQsk (l : List Byte) (q : Qsk) : List Byte :=
  let l := putBytes (putBytes l 2 1 q.top) 4 4 q.compact
  let l := putBytes (putBytes (putBytes l 16 8 q.weight) 24 4 q.mn.toNat) 28 4 q.mx.toNat
  let l := putBytes l 48 4 q.nans
  (List.range 15).foldl (fun l i =>
    if q.touched.contains i then
      let items := q.levels.getD i []
      let l := putBytes l (32 + i) 1 items.length
      l.take (64 + 128 * i) ++ levelBytes items ++ l.drop (64 + 128 * i + 128)
    else l) l

/-- The order of items (R281): numeric, with NaN above +Inf. -/
def itemLe (a b : Word) : Bool := isNan32 b || (!isNan32 a && !fLt (fv b) (fv a))

def insertItem (x : Word) : List Word → List Word
  | [] => [x]
  | y :: rest => if itemLe y x then y :: insertItem x rest else x :: y :: rest

def sortItems : List Word → List Word
  | [] => []
  | x :: rest => insertItem x (sortItems rest)

/-- Every other item of a list, the first one taken or not. -/
def everyOther : Bool → List Word → List Word
  | _, [] => []
  | true, x :: rest => x :: everyOther false rest
  | false, _ :: rest => everyOther true rest

/-- A coin of the sketch for a stream (R267, R282). -/
def qskCoin (seed stream compact : Nat) : Nat :=
  (cf64 (BitVec.ofNat 64 seed) (BitVec.ofNat 64 stream) (BitVec.ofNat 64 compact)).toNat % 2

def Qsk.setLevel (q : Qsk) (i : Nat) (items : List Word) : Qsk :=
  { q with levels := q.levels.set i items, touched := if q.touched.contains i then q.touched else i :: q.touched }

/-- push and compact of R282; `fuel` levels remain above level i. -/
def qskPush : Nat → Nat → Word → Qsk → Qsk
  | fuel, i, x, q =>
    let items := q.levels.getD i [] ++ [x]
    let q := q.setLevel i items
    if items.length < 32 then q
    else
      let c := qskCoin q.seed i q.compact
      let keep := everyOther (c = 0) (sortItems items)
      let q := { q with compact := (q.compact + 1) % 2 ^ 32 }
      match fuel with
      | 0 => { q.setLevel i keep with top := q.top + 1 }
      | fuel + 1 => keep.foldl (fun q y => qskPush fuel (i + 1) y q) (q.setLevel i [])

/-- qsk_insert (R282). -/
def qskInsert (q : Qsk) (x : Word) : Qsk :=
  if isNan32 x then { q with nans := sat32 (q.nans + 1) }
  else
    let x := if x = 0x80000000 then 0 else x
    let q := if q.weight = 0 then { q with mn := x, mx := x } else { q with mn := fmin32 q.mn x, mx := fmax32 q.mx x }
    qskPush 14 0 x { q with weight := sat64 (q.weight + 1) }

/-- thin (R283): the coin comes from `seed` and `compact`. -/
def qskThin (q : Qsk) (seed compact : Nat) : Qsk :=
  let c := qskCoin seed 15 compact
  { q.setLevel 14 (everyOther (c = 0) (sortItems (q.levels.getD 14 []))) with top := q.top + 1 }

/-- The two loops of R285 that bring both TOPSHIFTs to one value. -/
def qskLevelUp : Nat → Qsk → Qsk → Qsk × Qsk
  | 0, d, t => (d, t)
  | fuel + 1, d, t =>
    if d.top < t.top then
      qskLevelUp fuel { qskThin d d.seed d.compact with compact := (d.compact + 1) % 2 ^ 32 } t
    else if t.top < d.top then
      qskLevelUp fuel { d with compact := (d.compact + 1) % 2 ^ 32 } (qskThin t d.seed d.compact)
    else (d, t)

/-- qsk_merge (R285). -/
def qskMerge (d t : Qsk) : Qsk :=
  let (d', t') := qskLevelUp 50 d t
  let d' := (List.range 15).foldl (fun q i => (t'.levels.getD i []).foldl (fun q y => qskPush (14 - i) i y q) q) d'
  let d' := if t.weight = 0 then d'
    else if d'.weight = 0 then { d' with mn := t.mn, mx := t.mx }
    else { d' with mn := fmin32 d'.mn t.mn, mx := fmax32 d'.mx t.mx }
  { d' with weight := sat64 (d'.weight + t.weight), nans := sat32 (d'.nans + t.nans) }

/-- The weight of an item of a level (R281). -/
def itemWeight (q : Qsk) (i : Nat) : Nat := if i = 14 then 2 ^ (14 + q.top) else 2 ^ i

/-- All items with their weights. -/
def qskItems (q : Qsk) : List (Word × Nat) :=
  (List.range 15).flatMap (fun i => (q.levels.getD i []).map (fun x => (x, itemWeight q i)))

/-- The quantile read (R286). -/
def qskRead (l : List Byte) (qv : Word) : Word :=
  let o := readQsk l
  let items := qskItems o
  let wr := (items.map Prod.snd).sum
  match fv qv with
  | .num neg m e =>
    if (neg && decide (m ≠ 0)) || fLt (fv 0x3F800000) (fv qv) then nan32
    else if o.weight = 0 ∨ wr = 0 then nan32
    else if m = 0 then o.mn
    else if qv = 0x3F800000 then o.mx
    else
      let cum := fun v => ((items.filter (fun p => itemLe p.1 v)).map Prod.snd).sum
      let reach := fun v => decide (m * wr ≤ cum v * 2 ^ (-e).toNat)
      ((sortItems (items.map Prod.fst)).find? reach).getD nan32
  | _ => nan32

/-! ### Heavy-hitter list (R288 to R291) -/

/-- An HHL entry (R288). -/
structure HhlEnt where
  key : Nat
  count : Nat
  excess : Nat
  flags : Nat
  deriving DecidableEq, Repr

def hhlEnt (l : List Byte) (k : Nat) : HhlEnt :=
  { key := recNat l (64 + 16 * k) 4, count := recNat l (68 + 16 * k) 4, excess := recNat l (72 + 16 * k) 4,
    flags := recNat l (76 + 16 * k) 4 }

def hhlUsed (l : List Byte) : Nat := recNat l 2 1

def hhlEnts (l : List Byte) : List HhlEnt := (List.range (hhlUsed l)).map (hhlEnt l)

def putHhl (l : List Byte) (k : Nat) (e : HhlEnt) : List Byte :=
  putBytes (putBytes (putBytes (putBytes l (64 + 16 * k) 4 e.key) (68 + 16 * k) 4 e.count) (72 + 16 * k) 4 e.excess) (76 + 16 * k) 4 e.flags

/-- FLAGS with bit 1 set when a sum was clamped (R289). -/
def satFlag (f x : Nat) : Nat := if 2 ^ 32 ≤ x ∧ f / 2 % 2 = 0 then f + 2 else f

/-- The entry with the smallest COUNT, ties to the lowest number (R289). -/
def hhlSmallest (es : List HhlEnt) : Nat :=
  (es.zipIdx.foldl (fun (b : Option (Nat × Nat)) p =>
    match b with
    | none => some (p.1.count, p.2)
    | some (c, i) => if p.1.count < c then some (p.1.count, p.2) else some (c, i)) none).elim 0 Prod.snd

/-- hhl_insert (R289). -/
def hhlInsert (l : List Byte) (key : Nat) : List Byte :=
  let l := addWeight l 1
  let es := hhlEnts l
  match es.findIdx? (fun e => decide (e.key = key)) with
  | some i =>
    let e := hhlEnt l i
    putHhl l i { e with count := sat32 (e.count + 1), flags := satFlag e.flags (e.count + 1) }
  | none =>
    if hhlUsed l < 60 then
      putBytes (putHhl l (hhlUsed l) { key := key, count := 1, excess := 0, flags := 1 }) 2 1 (hhlUsed l + 1)
    else
      let i := hhlSmallest es
      let e := hhlEnt l i
      putHhl l i { key := key, count := sat32 (e.count + 1), excess := e.count, flags := satFlag e.flags (e.count + 1) }

/-- COUNT descending, then KEY ascending (R290, R291). -/
def hhlBefore (a b : HhlEnt) : Bool := decide (b.count < a.count) || (decide (a.count = b.count) && decide (a.key ≤ b.key))

def insertEnt (x : HhlEnt) : List HhlEnt → List HhlEnt
  | [] => [x]
  | y :: rest => if hhlBefore y x then y :: insertEnt x rest else x :: y :: rest

def sortEnts : List HhlEnt → List HhlEnt
  | [] => []
  | x :: rest => insertEnt x (sortEnts rest)

/-- The smallest COUNT of a full list, else 0 (R290). -/
def hhlFloor (l : List Byte) : Nat :=
  if hhlUsed l = 60 then (hhlEnt l (hhlSmallest (hhlEnts l))).count else 0

/-- A candidate of the merge (R290). -/
def hhlCand (d t : List Byte) (key : Nat) : HhlEnt :=
  let pick := fun (l : List Byte) => ((hhlEnts l).find? (fun e => decide (e.key = key))).getD
    { key := key, count := hhlFloor l, excess := hhlFloor l, flags := 0 }
  let a := pick d
  let b := pick t
  let f := 1 + (if a.flags / 2 % 2 = 1 ∨ b.flags / 2 % 2 = 1 then 2 else 0)
  { key := key, count := sat32 (a.count + b.count), excess := sat32 (a.excess + b.excess),
    flags := satFlag (satFlag f (a.count + b.count)) (a.excess + b.excess) }

def addUnique (l : List Nat) (x : Nat) : List Nat := if l.contains x then l else l ++ [x]

/-- The merge of two lists (R290). -/
def hhlMerge (d t : List Byte) : List Byte :=
  let keys := ((hhlEnts d ++ hhlEnts t).map HhlEnt.key).foldl addUnique []
  let es := (sortEnts (keys.map (hhlCand d t))).take 60
  let l := d.take 64 ++ List.replicate 960 0
  let l := es.zipIdx.foldl (fun l p => putHhl l p.2 p.1) l
  addWeight (putBytes l 2 1 es.length) (objWeight t)

/-- The read of index j (R291): KEY, COUNT and lower bound. -/
def hhlRead (l : List Byte) (j : Nat) : Nat × Nat × Nat :=
  match (sortEnts (hhlEnts l))[j]? with
  | some e => (e.key, e.count, if e.excess ≤ e.count then e.count - e.excess else 0)
  | none => (0xFFFFFFFF, 0, 0)

/-! ### Distinct count (R292 to R294) -/

/-- Leading zeros of w in `n` bits. -/
def leadingZeros (w : Nat) : Nat → Nat
  | 0 => 0
  | n + 1 => if w / 2 ^ n % 2 = 1 then 0 else 1 + leadingZeros w n

/-- The DCR insert (R292). -/
def dcrInsert (l : List Byte) (key : Nat) : List Byte :=
  let h := (cf64 (BitVec.ofNat 64 (objSeed l)) 0xD (BitVec.ofNat 64 key)).toNat
  let j := h / 2 ^ 53
  let w := h % 2 ^ 53
  let rho := if w = 0 then 54 else leadingZeros w 53 + 1
  let r := recNat l (64 + j) 1
  let l := addWeight l 1
  if r < rho then
    let l := if r = 0 then putBytes l 2 2 (recNat l 2 2 - 1) else l
    putBytes l (64 + j) 1 rho
  else l

/-- The merge of R293. -/
def dcrMerge (d t : List Byte) : List Byte :=
  let regs := List.zipWith (fun a b : Nat => if a < b then b else a) (dcrRegs d) (dcrRegs t)
  let l := d.take 64 ++ regs.map (BitVec.ofNat 8)
  addWeight (putBytes l 2 2 (regs.filter (fun r => decide (r = 0))).length) (objWeight t)

/-- A rational number rounded RNE to f32. -/
def ratioF32 (n d : Nat) : Word := rne32 (.num false (sticky (n * 2 ^ 100 / d) (decide (n * 2 ^ 100 % d = 0))) (-101))

/-- The estimate (R294); in the logarithmic branch one of the two neighbours, as Config picks (log 7). -/
def dcrRead (l : List Byte) : Word :=
  let z := ((dcrRegs l).map (fun r => 2 ^ (54 - r))).sum
  let num := 7213 * 2048000 * 2048 * 2048 * 2 ^ 54
  let den := 10000 * 2049079 * z
  let zeros := recNat l 2 2
  if num ≤ 5120 * den ∧ 0 < zeros then
    if zeros = 2048 then 0
    else
      let k := 11 - Nat.log2 zeros - (if zeros = 2 ^ Nat.log2 zeros then 0 else 1)
      let v := (k * fxLn2 + fxLn (2048 / 2 ^ k) zeros) * 2048
      let lo := layF32.round 1 false 0 (.num false v (-(fxBits : Int)))
      BitVec.ofNat 32 (if Config.dcrUpper zeros 0 then lo + 1 else lo)
  else ratioF32 num den

/-! ### Absolute maximum (R296) -/

def amxInsert (l : List Byte) (x : Word) : List Byte :=
  let l := addWeight l 1
  if isNan32 x then putBytes l 1 1 1
  else putBytes l 4 4 (fmax32 (BitVec.ofNat 32 (recNat l 4 4)) (x &&& 0x7FFFFFFF)).toNat

def amxMerge (d t : List Byte) : List Byte :=
  let l := putBytes d 4 4 (fmax32 (BitVec.ofNat 32 (recNat d 4 4)) (BitVec.ofNat 32 (recNat t 4 4))).toNat
  addWeight (putBytes l 1 1 (if recNat d 1 1 = 1 ∨ recNat t 1 1 = 1 then 1 else 0)) (objWeight t)

/-! ### Inserts and merges of any kind -/

/-- The lanes' values inserted in order (R297); none when TOPSHIFT would pass 49 (R284). -/
def skInsert (k : SkKind) (l : List Byte) (vals : List Word) : Option (List Byte) :=
  match k with
  | .qsk =>
    let q := vals.foldl qskInsert (readQsk l)
    if 49 < q.top then none else some (writeQsk l q)
  | .hhl => some (vals.foldl (fun l x => hhlInsert l x.toNat) l)
  | .dcr => some (vals.foldl (fun l x => dcrInsert l x.toNat) l)
  | .amx => some (vals.foldl amxInsert l)

/-- d ⊕ s (R285, R290, R293, R296); none when TOPSHIFT would pass 49 (R284). -/
def skMerge (k : SkKind) (d t : List Byte) : Option (List Byte) :=
  match k with
  | .qsk =>
    let q := qskMerge (readQsk d) (readQsk t)
    if 49 < q.top then none else some (writeQsk d q)
  | .hhl => some (hhlMerge d t)
  | .dcr => some (dcrMerge d t)
  | .amx => some (amxMerge d t)

/-- A merge of two whole objects (R278, R284): none where it ends with SUMMARY. -/
def mergeObjects (k : SkKind) (d t : List Byte) : Option (List Byte) :=
  if wellFormed k d && wellFormed k t && decide (objSeed d = objSeed t) then skMerge k d t else none

end Sys2Proof.Machine
end

