-- ==== Sys2Proof/Machine/Translate.lean ====
section
/-! DEFINITION. Page tables, TLBs and walks (R26 to R32, R38 to R47), the six address spaces and the checks that come
before any access performs (R7 to R25, R40, R41). -/

namespace Sys2Proof.Machine

/-! ### Page tables (R26 to R32) -/

/-- One level of the tree (R26, R27): the lowest address bit of its index, the bits of the index, the alignment of the
table below it, and whether a descriptor or a leaf may stand here. -/
structure PtLevel where
  shift : Nat
  bits : Nat
  nextAlign : Nat
  desc : Bool
  leaf : Bool

/-- LV3 to LV0 (R26). -/
def ptLevels : List PtLevel :=
  [{ shift := 43, bits := 13, nextAlign := 16, desc := true, leaf := false },
   { shift := 30, bits := 13, nextAlign := 12, desc := true, leaf := true },
   { shift := 21, bits := 9, nextAlign := 8, desc := true, leaf := true },
   { shift := 16, bits := 5, nextAlign := 0, desc := false, leaf := true }]

/-- A leaf found by a walk, with the physical address of its entry. -/
structure Leaf where
  entry : Nat
  raw : Nat
  bits : Nat
  pa : Nat
  deriving DecidableEq, Repr

def Leaf.w (l : Leaf) : Bool := l.raw / 2 % 2 = 1
def Leaf.x (l : Leaf) : Bool := l.raw / 4 % 2 = 1
def Leaf.kind (l : Leaf) : Kind := match l.raw / 8 % 4 with
  | 0 => .rc
  | 1 => .so
  | _ => .uo
def Leaf.exp (l : Leaf) : Bool := l.raw / 32 % 2 = 1
def Leaf.nc (l : Leaf) : Bool := l.raw / 64 % 2 = 1
def Leaf.d (l : Leaf) : Bool := l.raw / 256 % 2 = 1

/-- Whether a leaf is free of table errors (R29, R30, R72): reserved bits, alignment, and a page of the chip's HBM
outside the reservations. -/
def leafOk (raw bits : Nat) : Bool :=
  let pa := raw / 2 ^ 16 % 2 ^ 36 * 2 ^ 16
  decide (raw / 2 ^ 52 = 0) && decide (raw / 2 ^ 9 % 2 ^ 7 = 0) && decide (pa % 2 ^ bits = 0) && inHbm pa &&
  inHbm (pa + 2 ^ bits - 1) && !inReserve pa && !inReserve (pa + 2 ^ bits - 1)

/-- Whether a table descriptor is free of table errors (R28, R30). -/
def descOk (raw align : Nat) : Bool :=
  let pa := raw / 2 ^ 8 % 2 ^ 44 * 2 ^ 8
  decide (raw / 2 ^ 52 = 0) && decide (raw / 2 ^ 5 % 8 = 0) && decide (raw / 2 % 4 = 0) && decide (pa % 2 ^ align = 0) &&
  inHbm pa

/-- The walk from a table down (R27): a leaf, or a table error or an entry with V = 0. -/
def walkFrom (mem : List Host.Cell) (poison : List Nat) (va : Nat) : List PtLevel → Nat → Leaf ⊕ WalkEnd
  | [], _ => .inr .tableError
  | lv :: rest, table =>
    let ea := table + va / 2 ^ lv.shift % 2 ^ lv.bits * 8
    if !inHbm ea || poisoned poison ea 8 then .inr .tableError
    else
      let raw := readNat mem ea 8
      if raw % 2 = 0 then .inr .notMapped
      else if raw / 8 % 4 = 3 then
        (if lv.desc && descOk raw lv.nextAlign then walkFrom mem poison va rest (raw / 2 ^ 8 % 2 ^ 44 * 2 ^ 8)
         else .inr .tableError)
      else if lv.leaf && leafOk raw lv.shift then
        .inl { entry := ea, raw := raw, bits := lv.shift, pa := raw / 2 ^ 16 % 2 ^ 36 * 2 ^ 16 }
      else .inr .tableError

/-- The walk of a context's tables for an address. -/
def State.walkVa (s : State) (ctx va : Nat) : Leaf ⊕ WalkEnd := walkFrom s.mem s.poison va ptLevels (s.ctxDesc ctx).root

/-- A walk's answer for an access (R31): W for a write, X for a fetch. -/
def Leaf.allows (l : Leaf) (write fetch : Bool) : Option WalkEnd :=
  if write && !l.w then some .noWrite else if fetch && !l.x then some .noFetch else none

/-! ### TLBs (R38, R39) -/

def dieOf (core : Nat) : Nat := core / 64

/-- The entry of a TLB that covers an address. -/
def tlbCovers (ctx va : Nat) (e : TlbEnt) : Bool := decide (e.ctx = ctx ∧ e.va = va / 2 ^ e.bits * 2 ^ e.bits)

/-- The L1 TLB of the core, then the L2 TLB of its die (R38). -/
def State.tlbFind (s : State) (core ctx va : Nat) : Option TlbEnt :=
  match (s.core core).tlb.find? (tlbCovers ctx va) with
  | some e => some e
  | none => (getKey [] s.l2tlb (dieOf core)).find? (tlbCovers ctx va)

/-- A TLB with an entry added, the newest first, at most `n` kept (R38). -/
def tlbAdd (n : Nat) (l : List TlbEnt) (e : TlbEnt) : List TlbEnt :=
  (e :: l.filter (fun x => !decide (x.ctx = e.ctx ∧ x.va = e.va ∧ x.bits = e.bits))).take n

/-- Both TLBs filled after a walk (R38). -/
def State.tlbFill (s : State) (core : Nat) (e : TlbEnt) : State :=
  let c := s.core core
  let s := s.setCore core { c with tlb := tlbAdd 64 c.tlb e }
  { s with l2tlb := setKey [] s.l2tlb (dieOf core) (tlbAdd 8192 (getKey [] s.l2tlb (dieOf core)) e) }

def Leaf.tlbEnt (l : Leaf) (ctx va : Nat) (d : Bool) : TlbEnt :=
  { ctx := ctx, va := va / 2 ^ l.bits * 2 ^ l.bits, bits := l.bits, pa := l.pa, w := l.w, x := l.x, kind := l.kind,
    exp := l.exp, nc := l.nc, d := d }

/-- What a look at the TLBs gives an access. -/
inductive Look where
  | hit (e : TlbEnt)
  | bad (w : WalkEnd)
  | miss
  deriving DecidableEq, Repr

/-- A bad end that the group's own walk for this word met (R41). -/
def walkedFor (g : Group) (va : Nat) (write fetch : Bool) : Option WalkEnd :=
  (g.walked.find? (fun w => decide (w.page = va / 65536 ∧ w.write = write ∧ (fetch = true ∨ w.out ≠ .noFetch)))).map WalkOut.out

/-- The translation of one address for an access (R31, R32): a write through a clean D walks first. -/
def State.look (s : State) (k ctx va : Nat) (write fetch : Bool) : Look :=
  match s.tlbFind (coreOf k) ctx va with
  | some e =>
    if write && !e.w then .bad .noWrite
    else if fetch && !e.x then .bad .noFetch
    else if write && !e.d then
      (match walkedFor (s.group k) va write fetch with
      | some w => .bad w
      | none => .miss)
    else .hit e
  | none =>
    match walkedFor (s.group k) va write fetch with
    | some w => .bad w
    | none => .miss

/-- A walk added behind those that the die's walkers have still to end (R39, R45). -/
def State.addWalk (s : State) (k core ctx va : Nat) (write fetch peer quiet : Bool) : State :=
  { s.fresh with walks := s.walks ++
    [{ id := s.nextId, group := k, core := core, ctx := ctx, va := va, write := write, fetch := fetch,
       epoch := getKey 0 s.epochs (dieOf core), peer := peer, quiet := quiet }] }

/-- A walk started for a group, unless it waits for the same one already (R39, R45). -/
def State.startWalk (s : State) (k ctx va : Nat) (write fetch : Bool) : State :=
  if s.walks.any (fun w => decide (w.peer = false ∧ w.quiet = false ∧ w.group = k ∧ w.va / 65536 = va / 65536 ∧ w.write = write ∧ w.fetch = fetch)) then s
  else s.addWalk k (coreOf k) ctx va write fetch false false

/-- The walk of CACHE or PREF started for a group, unless it waits for it already (R39). -/
def State.startProbe (s : State) (k ctx va : Nat) : State :=
  if s.walks.any (fun w => decide (w.peer = false ∧ w.quiet = true ∧ w.group = k ∧ w.va = va)) then s
  else s.addWalk k (coreOf k) ctx va false false false true

/-- A walk started for requests of other chips, on die 0 (R23, R39, log 54), unless one stands already. -/
def State.startPeerWalk (s : State) (ctx va : Nat) (write : Bool) : State :=
  if s.walks.any (fun w => decide (w.peer = true ∧ w.ctx = ctx ∧ w.va / 65536 = va / 65536 ∧ w.write = write)) then s
  else s.addWalk 0 0 ctx va write false true false

/-! ### Places -/

/-- A piece of an access that one entry carries (R85, R87): its first byte within the access, its length, where it is
applied, and its kind and NC. -/
structure Piece where
  off : Nat
  n : Nat
  target : Target
  kind : Kind
  nc : Bool
  deriving DecidableEq, Repr

/-- Why an access may not perform (R41): the order of the condition and its trap code. -/
structure Cond where
  order : Nat
  code : Nat
  deriving DecidableEq, Repr

def WalkEnd.cond : WalkEnd → Cond
  | .tableError => { order := 4, code := tProtection }
  | .noWrite => { order := 5, code := tProtection }
  | .noFetch => { order := 5, code := tProtection }
  | .notMapped => { order := 6, code := tPageFault }

/-- An access of a lane or uniform word. -/
structure Access where
  lane : Nat
  addr : Nat
  deriving DecidableEq, Repr

/-- What a memory word does to its addresses: its space, size and width code, whether it writes (for W, export mode and
control area), whether it must be aligned in every space (R9), and whether it writes a control area of the block's own
when frozen. -/
structure MemUse where
  space : Space
  n : Nat
  wcode : Nat
  write : Bool
  atomic : Bool
  deriving DecidableEq, Repr

/-- The rank of a grid-global address and its offset (R7). -/
def rankOf (a : Nat) : Nat := a / 2 ^ 54
def winOff (a : Nat) : Nat := a % 2 ^ 54

/-- The position that holds a rank, by this chip's copy of the rank map (R24). -/
def State.rankPos (s : State) (grid rank : Nat) : Nat := (getKey [] s.tt.rankMap grid).getD rank 0xFFFF

/-- The local virtual address behind a private offset (R10). -/
def privVa (s : State) (b : Block) (gid lane off : Nat) : Nat :=
  let p := s.grid b.grid
  let gidx := b.blockId * b.groups.length + gid
  p.privBase + gidx * p.psize * laneCount + off / 16 * (laneCount * 16) + lane * 16 + off % 16

def Block.member (b : Block) (i : Nat) : Member :=
  getKey { pos := 0, block := 0, alloc := 0, present := false, departed := false } b.members i

/-- The condition of a gang-window access of `n` bytes by its range or its member's presence (R14, R17), with `kept` for a
write that the control area refuses (R60). -/
def windowFault (b : Block) (a n : Nat) (kept : Bool) : Option Cond :=
  let i := a / 2 ^ 19
  let off := a % 2 ^ 19
  let own := decide (i = b.gangIdx)
  let alloc := if b.gsz ≤ 1 then b.scr else (b.member i).alloc
  if b.gsz ≤ i ∨ alloc < off + n then some { order := 2, code := tWindowRange }
  else if kept = true ∧ off < 0x300 ∧ ¬(own = true ∧ b.frozen = true) then some { order := 2, code := tProtection }
  else if b.departed ∨ (1 < b.gsz ∧ own = false ∧ (b.member i).present = false) then some { order := 3, code := tWindowDeparted }
  else none

/-- The first condition of orders 1 to 3 that an access raises (R41, R9, R11, R13, R14, R17, R20, R22, R25, R60). -/
def placeFault (s : State) (b : Block) (u : MemUse) (a : Nat) : Option Cond :=
  let row := s.gridRow b.grid
  let mis := decide (a % u.n ≠ 0)
  let loose := !u.atomic && decide (u.space = .virt ∨ u.space = .global)
  if mis && !loose then some { order := 1, code := tMisaligned }
  else
    match u.space with
    | .priv => if (s.grid b.grid).psize < a + u.n then some { order := 2, code := tProtection } else none
    | .scratch =>
      if b.scr < a + u.n ∨ (u.write = true ∧ a < 0x300 ∧ b.frozen = false) then some { order := 2, code := tProtection } else none
    | .window => windowFault b a u.n u.write
    | .virt => if 2 ^ 56 ≤ a + u.n - 1 then some { order := 2, code := tProtection } else none
    | .global =>
      if row.nranks ≤ rankOf a ∨ row.expLen < winOff a + u.n ∨ (u.write = true ∧ row.flags / 8 % 2 = 1) then
        some { order := 2, code := tProtection }
      else none

/-- The two pages that a translated access may touch: its own, and the page that follows the first one's end (R87). -/
def pagesOf (s : State) (k ctx va n : Nat) (write : Bool) : List Nat :=
  let last := va + n - 1
  if va / 65536 = last / 65536 then [va]
  else
    match s.look k ctx va write false with
    | .hit e => if tlbCovers ctx last e then [va] else [va, last / 65536 * 65536]
    | _ => [va, last / 65536 * 65536]

/-- The pieces of a translated access whose pages all hit (R87). -/
def virtPieces (s : State) (k ctx va n : Nat) (write : Bool) : List Piece :=
  (pagesOf s k ctx va n write).zipIdx.filterMap (fun p =>
    match s.look k ctx p.1 write false with
    | .hit e =>
      let lo := if p.2 = 0 then va else p.1
      let pageEnd := e.va + 2 ^ e.bits
      let hi := if va + n ≤ pageEnd then va + n else pageEnd
      some { off := lo - va, n := hi - lo, target := .memory (e.pa + (lo - e.va)), kind := e.kind, nc := e.nc }
    | _ => none)

/-- The pieces of an access to another chip's export window, split at 64 KiB of the offset (R87). -/
def remotePieces (pos a n : Nat) (kind : Kind) : List Piece :=
  let edge := (a / 65536 + 1) * 65536
  if a + n ≤ edge then [{ off := 0, n := n, target := .remote pos false a, kind := kind, nc := false }]
  else [{ off := 0, n := edge - a, target := .remote pos false a, kind := kind, nc := false },
        { off := edge - a, n := n - (edge - a), target := .remote pos false edge, kind := kind, nc := false }]

/-- The local virtual address that an access translates, if it translates one on this chip (R10, R20, R23). -/
def localVa (s : State) (k : Nat) (b : Block) (u : MemUse) (x : Access) : Option Nat :=
  match u.space with
  | .virt => some x.addr
  | .priv => some (privVa s b (s.group k).gid x.lane x.addr)
  | .global =>
    if s.rankPos b.grid (rankOf x.addr) = s.fab.pos then
      (findKey s.exports (b.grid * 1024 + rankOf x.addr)).map (fun base => base + winOff x.addr)
    else none
  | _ => none

/-- The pieces of an access that passed every check. Which split holds for a grid-global access to this chip's own rank is open: it is split as its
local virtual addresses are, at the boundaries of its pages (log 100). -/
def piecesOf (s : State) (k : Nat) (b : Block) (u : MemUse) (x : Access) : List Piece :=
  match localVa s k b u x with
  | some va => virtPieces s k b.ctx va u.n u.write
  | none =>
    match u.space with
    | .scratch => [{ off := 0, n := u.n, target := .bank (s.group k).block x.addr, kind := .rc, nc := false }]
    | .window =>
      let i := x.addr / 2 ^ 19
      let m := b.member i
      if b.gsz ≤ 1 ∨ i = b.gangIdx then
        [{ off := 0, n := u.n, target := .bank (s.group k).block (x.addr % 2 ^ 19), kind := .rc, nc := false }]
      else if m.pos = s.fab.pos then
        [{ off := 0, n := u.n, target := .bank m.block (x.addr % 2 ^ 19), kind := .rc, nc := false }]
      else [{ off := 0, n := u.n, target := .remote m.pos true x.addr, kind := .rc, nc := false }]
    | _ =>
      let kind := if (s.gridRow b.grid).flags / 16 % 2 = 1 then Kind.so else Kind.rc
      remotePieces (s.rankPos b.grid (rankOf x.addr)) x.addr u.n kind

/-- The condition of orders 1 to 3 that an access of a lane raises: those of its address, and a private access whose local virtual address is not
canonical (R10, R20). -/
def accessFault (s : State) (k : Nat) (b : Block) (u : MemUse) (x : Access) : Option Cond :=
  match placeFault s b u x.addr with
  | some c => some c
  | none =>
    match localVa s k b u x with
    | some va => if 2 ^ 56 < va + u.n then some { order := 2, code := tProtection } else none
    | none => none

/-- The pages an access must have translated, by address. -/
def accessPages (s : State) (k : Nat) (b : Block) (u : MemUse) (x : Access) : List Nat :=
  match localVa s k b u x with
  | some va => pagesOf s k b.ctx va u.n u.write
  | none => []

/-- The condition of orders 4 to 6 that one access raises, the lowest order of its pages (R41). -/
def pageFault (s : State) (k : Nat) (b : Block) (u : MemUse) (x : Access) : Option Cond :=
  (accessPages s k b u x).foldl (fun c va =>
    match s.look k b.ctx va u.write false with
    | .bad w =>
      (match c with
      | some c => if c.order ≤ w.cond.order then some c else some w.cond
      | none => some w.cond)
    | _ => c) none

/-- The pages of an access that miss. -/
def missing (s : State) (k : Nat) (b : Block) (u : MemUse) (x : Access) : List Nat :=
  (accessPages s k b u x).filter (fun va => decide (s.look k b.ctx va u.write false = .miss))

/-- Whether an access reads a poisoned sector of its own chip (R76). -/
def readsPoison (s : State) (k : Nat) (b : Block) (u : MemUse) (x : Access) : Bool :=
  (piecesOf s k b u x).any (fun p =>
    match p.target with
    | .memory pa => poisoned s.poison pa p.n
    | .bank bk off => poisoned (s.block bk).spadBad off p.n
    | _ => false)

/-- The outcome of the checks of a memory word (R40, R41, R363). -/
inductive Check where
  | trap (code lanes lane addr : Nat)
  | fault (lanes : List Nat)
  | walk (missing : List Nat)
  | ok
  deriving DecidableEq, Repr

/-- The lowest order among conditions. -/
def minOrder : List (Nat × Cond) → Option Cond
  | [] => none
  | (_, c) :: rest =>
    match minOrder rest with
    | none => some c
    | some d => if c.order ≤ d.order then some c else some d

/-- The report of a condition (R41): every lane that raised it, the lowest of them and its address. -/
def reportOf (c : Cond) (cs : List (Access × Cond)) : Check :=
  let hit := (cs.filter (fun p => decide (p.2 = c))).map Prod.fst
  .trap c.code (maskOf (hit.map Access.lane)).toNat ((hit.map Access.lane).headD 0) ((hit.map Access.addr).headD 0)

/-- The conditions that the accesses raise under a check. -/
def condsOf (f : Access → Option Cond) (xs : List Access) : List (Access × Cond) :=
  xs.filterMap (fun x => (f x).map (fun c => (x, c)))

/-- Translate before perform (R40): orders 1 to 3 over all lanes, then the walks, orders 4 to 6, and poison (R363). -/
def checkAccess (s : State) (k : Nat) (u : MemUse) (poisonTraps : Bool) (xs : List Access) : Check :=
  let b := s.block (s.group k).block
  let early := condsOf (accessFault s k b u) xs
  match minOrder (early.map (fun p => (p.1.lane, p.2))) with
  | some c => reportOf c early
  | none =>
    let miss := xs.flatMap (missing s k b u)
    if miss ≠ [] then .walk miss
    else
      let late := condsOf (pageFault s k b u) xs
      match minOrder (late.map (fun p => (p.1.lane, p.2))) with
      | some c =>
        if c.order = 6 then
          .fault ((late.filter (fun p => decide (p.2 = c))).flatMap (fun p =>
            (accessPages s k b u p.1).filter (fun va => decide (s.look k b.ctx va u.write false = .bad .notMapped))))
        else reportOf c late
      | none =>
        let bad := xs.filter (readsPoison s k b u)
        if poisonTraps && decide (bad ≠ []) then reportOf { order := 7, code := tPoison } (bad.map (fun x => (x, { order := 7, code := tPoison })))
        else .ok

/-- PAGE_FAULT (R42, R43): the group goes into replay at the word. -/
def pageFaultHold (pages : List Nat) (s : State) : Out :=
  .next (s.setGroup s.iss.group { s.issuing with replay := some { pages := pages }, waiting := .nothing, walked := [], probed := none })

/-- The checks of a memory word, and what follows when one fails: a trap, a replay, or walks (R41, R42, R39). -/
def memGate (uniform : Bool) (u : MemUse) (poisonTraps : Bool) (xs : List Access) (body : State → Out) (s : State) : Out :=
  let k := s.iss.group
  match checkAccess s k u poisonTraps xs with
  | .trap code lanes lane addr =>
    raise (s.wordTrap code (if uniform then 0 else BitVec.ofNat 64 lanes) (if uniform then 0 else lane)
      (BitVec.ofNat 64 addr) u.wcode 0 uniform) s
  | .fault pages => pageFaultHold pages s
  | .walk miss => hold .walk (miss.foldl (fun s va => s.startWalk k (s.block (s.group k).block).ctx va u.write false) s)
  | .ok => body s

end Sys2Proof.Machine
end

