-- ==== Sys2Proof/Machine/Order.lean ====
section
/-! DEFINITION. The ordering machine (R83 to R117): program order, kinds, scopes and sides, the departure of entries,
where loads bind, what home slices and banks apply, and the replies to other chips. -/

namespace Sys2Proof.Machine

/-! ### Program order and addresses (R85, R86, R90) -/

/-- Whether two entries come from one group of this chip. -/
def Entry.sameGroup (e f : Entry) : Bool :=
  match e.issuer, f.issuer with
  | .group a, .group b => a = b
  | _, _ => false

/-- The group of this chip that an entry belongs to. -/
def Entry.owner (e : Entry) : Nat :=
  match e.issuer with
  | .group k => k
  | .peer _ _ => 0

/-- The place of an entry among those of its word: its lane's, and for a push of the word's result after every lane (R185, R364). -/
def Entry.laneNo (e : Entry) : Nat :=
  match e.op with
  | .push _ _ => laneCount
  | _ => e.lane.getD 0

/-- Whether f stands before e in its group's program order (R85, R86). -/
def Entry.after (e f : Entry) : Bool :=
  e.sameGroup f && (decide (f.seq < e.seq) || (decide (f.seq = e.seq) && (decide (f.laneNo < e.laneNo) ||
    (decide (f.laneNo = e.laneNo) && decide (f.sub < e.sub)))))

/-- Whether f belongs to an earlier instruction of e's group. Sides order instructions: the entries of one instruction neither hold each other back
nor wait for each other by them, which R96 and R97 leave open (log 89). -/
def Entry.behind (e f : Entry) : Bool := e.sameGroup f && decide (f.seq < e.seq)

/-- Whether two byte ranges meet. -/
def rangesMeet (a n b m : Nat) : Bool := decide (a < b + m) && decide (b < a + n)

/-- Whether two entries touch a common byte (R90). -/
def Entry.overlaps (e f : Entry) : Bool :=
  match e.target, f.target with
  | .memory a, .memory b => rangesMeet a e.size b f.size
  | .bank p a, .bank q b => decide (p = q) && rangesMeet a e.size b f.size
  | .remote p v a, .remote q w b => decide (p = q ∧ v = w) && rangesMeet a e.size b f.size
  | _, _ => false

/-- The first byte of a target, or the address of one on another chip. -/
def Target.base : Target → Nat
  | .memory a => a
  | .bank _ a => a
  | .remote _ _ a => a
  | .nowhere => 0

def Entry.ordered (e : Entry) : Bool := decide (e.kind ≠ .uo)

/-- The entries of one store instruction that the core buffer combines with e: those that share a wholly covered
sector, one with another (R75). -/
def sharing (l : List Entry) (e : Entry) : List Entry :=
  l.filter (fun f => f.sameGroup e && decide (f.seq = e.seq) && f.whole.any (fun t => e.whole.contains t))

def growShare (l : List Entry) : Nat → List Entry → List Entry
  | 0, xs => xs
  | n + 1, xs => growShare l n (l.filter (fun f => decide (f ∈ xs) || xs.any (fun e => decide (f ∈ sharing l e))))

/-- The combined write that e belongs to, in program order; e alone where nothing is combined. -/
def combined (s : State) (e : Entry) : List Entry := if e.whole = [] then [e] else growShare s.entries 64 [e]

/-- Whether two entries name one word of one scratchpad: those of one instruction have one width and are aligned (R9). -/
def Entry.sameWord (e f : Entry) : Bool :=
  match e.target, f.target with
  | .bank p a, .bank q b => decide (p = q ∧ a / 4 = b / 4)
  | _, _ => false

/-- The entries of one lane load or store that name the same word as e, by rising lanes: the bank reads the word once for all of them, or writes it
once, with the value of the highest lane (R53). -/
def bankMates (s : State) (e : Entry) : List Entry :=
  if e.lane.isSome && (decide (e.op = .load) || decide (e.op = .store)) then
    s.entries.filter (fun f => f.sameGroup e && f.lane.isSome && decide (f.seq = e.seq ∧ f.op = e.op) && f.sameWord e)
  else [e]

/-! ### Performing at a scope (R92, R93) -/

def EntOp.isStore : EntOp → Bool
  | .store => true
  | .skinit _ _ => true
  | .push _ _ => true
  | _ => false

/-- What FENCE.acq waits for (R99): loads and atomics. -/
def EntOp.isRead : EntOp → Bool
  | .load => true
  | .atom _ => true
  | _ => false

def EntOp.isMarm : EntOp → Bool
  | .marm _ => true
  | _ => false

/-- What FENCE.rel holds back (R99). -/
def EntOp.heldByRel : EntOp → Bool
  | .load => false
  | .fence _ _ => false
  | _ => true

/-- Whether an entry that is still in flight has performed at a scope, 1 .grp to 5 .pod (R92, R93). R92 gives no step at which a store to a gang window
on another chip performs at .blk: it counts as one to memory does, from the core buffer on (log 88). -/
def Entry.performedAt (e : Entry) (scope : Nat) : Bool :=
  match e.op with
  | .engine _ => decide (e.stage ≠ .gq)
  | op =>
    if scope ≤ 1 then op.isStore
    else
      match e.target with
      | .remote _ _ _ => decide (scope = 2) && op.isStore && decide (e.stage ≠ .gq)
      | .memory _ => decide (scope = 2) && op.isStore && decide (e.stage ≠ .gq)
      | _ => false

/-- Whether a release at a scope leaves an earlier entry out of account: at .chp one to another chip (R93, R114). -/
def Entry.exempt (e : Entry) (scope : Nat) : Bool :=
  decide (scope = 3) &&
  (match e.target with
  | .remote _ _ _ => true
  | _ => false)

/-- Whether a store of another group that one of the group's loads before a place in program order has bound from the L1 is still on its way
to its home slice: the group's release covers it (R125). -/
def State.owed (s : State) (k seq : Nat) : Bool :=
  (s.group k).owes.any (fun p => decide (p.1 < seq) && s.entries.any (fun f => decide (f.id = p.2)))

/-! ### Flushes (R112) -/

/-- A bulk-class message handed to the path queues (R111); nothing goes to a fenced chip (R163). -/
def State.sendBulk (s : State) (m : Msg) (dst via : Nat) : State :=
  if s.fab.fenced.contains dst then s
  else
    { s.fresh with fab := { s.fab with bulkOut := s.fab.bulkOut ++
        [{ id := s.nextId, msg := m, dst := dst, via := via, hop := none, sent := false, relayed := false, after := none }] } }

/-- The flush marker of a group for one path (R155). -/
def flushMarkerMsg (s : State) (k dst via : Nat) : MarkerMsg :=
  let g := s.group k
  let ctx := (s.block g.block).ctx
  { src := s.fab.pos, dst := dst, ctx := ctx, cgen := s.cgen ctx, typ := 0, via := via, core := coreOf k, gslot := k % 32,
    number := getKey 0 s.fab.flushNos k,
    paths := (g.paths.filter (fun p => decide (p.1 = dst))).length, status := 0, flag := 2 ^ 64 - 1 }

/-- A flush begins (R112 step 1): one marker on each path of PU(g). -/
def State.startFlush (s : State) (k : Nat) : State :=
  let g := s.group k
  let s' := g.paths.foldl (fun t p => t.sendBulk (.marker (flushMarkerMsg s k p.1 p.2)) p.1 p.2) s
  let lost := g.paths.any (fun p => s.fab.fenced.contains p.1 || s.fab.fenced.contains p.2)
  let fl : Flush :=
    { number := getKey 0 s.fab.flushNos k, paths := g.paths, awaited := if lost then [] else (g.paths.map Prod.fst).foldl addUnique [],
      fenced := lost }
  let nos := setKey 0 s'.fab.flushNos k ((getKey 0 s.fab.flushNos k + 1) % 2 ^ 32)
  { s' with fab := { s'.fab with flushNos := nos } }.setGroup k { g with paths := [], flush := some fl }

/-- Whether a flush has ended with PEER_FENCED and nothing has reported it yet (R163). -/
def Group.flushLost (g : Group) : Bool :=
  match g.flush with
  | some f => decide (f.awaited = []) && f.fenced
  | none => false

/-- Whether the flush that a release at .grd or .pod needs has ended (R97). R112 step 5 has PU(g) empty at a flush's end, and does not say what becomes
of a path used after its markers: it stays in PU(g), and the release runs one more flush (log 102). -/
def Group.flushed (g : Group) : Bool := decide (g.paths = []) && g.flush.isNone

/-! ### Departure (R90, R91, R96, R97, R99, R114) -/

/-- Whether a load may take bytes from a queued entry (R100). -/
def EntOp.forwards : EntOp → Bool
  | .store => true
  | .skinit _ _ => true
  | _ => false

/-- Whether an earlier entry f lets e leave by the row of e's kind (R90, R91); `forwarded` for a load that would take
its bytes from the earlier stores. A private access is ordered only against its own lane's (R12) when its page is RC or UO; on an SO page the
model gives it the order of SO entries (R89), against other lanes' too: R12 and R89 leave it open which of them holds there (log 65). UO loads of one
address by different lanes are ordered as R90's row for UO says, which R102's sentence on two loads of a group does not spell out (log 104). -/
def kindAllows (forwarded : Bool) (e f : Entry) : Bool :=
  let queued := decide (f.stage = .gq)
  let meets := e.overlaps f && queued && !(forwarded && f.op.forwards)
  match e.kind with
  | .so => if f.kind = .so then !queued else !(meets && (f.ordered || decide (f.lane = e.lane)))
  | .rc => if e.priv then !(meets && f.ordered && decide (f.lane = e.lane)) else !(meets && f.ordered)
  | .uo => !(meets && (decide (f.lane = e.lane) || decide (f.seq = e.seq)))

def State.findEntry (s : State) (id : Nat) : Option Entry := s.entries.find? (fun e => decide (e.id = id))

/-- The first SO entry, from one name back in program order, that is not part of a combined write; none where it has performed and is gone. -/
def soBefore (s : State) (c : List Entry) : Nat → Option Nat → Option Entry
  | 0, _ => none
  | n + 1, id => (id.bind s.findEntry).bind (fun f => if f ∈ c then soBefore s c n f.prior else some f)

/-- The SO entry that precedes e immediately, not part of its combined write, while it is in flight (R90). -/
def lastSo (s : State) (e : Entry) : Option Entry := soBefore s (combined s e) (s.entries.length + 1) e.prior

/-- The SO departure rule (R90, R91). -/
def soAllows (s : State) (e : Entry) : Bool :=
  if e.kind ≠ .so then true
  else
    match lastSo s e with
    | none => true
    | some f => f.performedAt e.dscope ||
      (match e.target, f.target with
      | .remote p _ _, .remote q _ _ => decide (p = q) && decide (f.stage = .flow)
      | _, _ => false)

/-- Whether a fence f lets the later entry e leave (R99). -/
def fenceAllows (e f : Entry) : Bool :=
  match f.op with
  | .fence kind all => !((e.ordered || all) && (decide (kind ≠ 1) || e.op.heldByRel))
  | _ => true

/-- Whether the sides of e itself let it leave: its release (R97), its own condition as a fence (R99) or as an engine
command (R114), but for the flush. -/
def sidesAllow (s : State) (e : Entry) : Bool :=
  let earlier := s.entries.filter e.behind
  match e.op with
  | .fence kind all =>
    earlier.all (fun f => !((f.ordered || all) && (decide (kind ≠ 0) || f.op.isRead)) || f.performedAt e.scope ||
      (f.exempt e.scope && (decide (kind = 1) || !f.op.isRead))) &&
    (decide (kind = 0 ∨ e.scope < 3) || !s.owed e.owner e.seq)
  | .engine _ => earlier.all (fun f => !f.ordered || f.performedAt 3 || f.exempt 3) && !s.owed e.owner e.seq
  | _ => !e.rel || (earlier.all (fun f => !f.ordered || f.performedAt e.scope || f.exempt e.scope) &&
      (decide (e.scope < 3) || !s.owed e.owner e.seq))

/-- Whether e needs a flush before it leaves (R97, R99). -/
def Entry.needsFlush (e : Entry) : Bool :=
  match e.op with
  | .fence kind _ => decide (kind ≠ 0) && decide (4 ≤ e.scope)
  | _ => e.rel && decide (4 ≤ e.scope)

/-- Whether a SKMERGE that the group issued before an insert has still to be applied to the same scratchpad object: they are applied in program order
(R297). -/
def mergeAhead (s : State) (e : Entry) : Bool :=
  match e.op with
  | .insert _ _ =>
    let b := s.block (s.group e.owner).block
    s.ops.any (fun o => decide (o.kind = .skmerge ∧ o.group = e.owner ∧ o.id < e.id ∧ o.stage ≠ .moved ∧ o.stage ≠ .finished) &&
      (decide (o.dst.space = 1) || (decide (o.dst.space = 3) && decide (b.gsz ≤ 1 ∨ o.dst.base % 2 ^ 32 / 2 ^ 19 = b.gangIdx))) &&
      decide (o.dst.base % 2 ^ 19 = e.target.base))
  | _ => false

/-- The kind of object that a read word of another chip asks for (R438). -/
def readKind (opc : Nat) : Option SkKind :=
  match opc with
  | 0xC4 => some .qsk
  | 0xC5 => some .hhl
  | 0xC6 => some .dcr
  | 0xC8 => some .amx
  | _ => none

/-- Whether an entry reads a part of a peer's summary object for the word `f` does too: these enter the flow in the order of the object (R299,
R438). -/
def Entry.objectPart (e f : Entry) : Bool :=
  (readKind e.opc).isSome && e.sameGroup f && decide (f.seq = e.seq ∧ f.res = e.res ∧ f.sub < e.sub)

/-- Whether e may leave its group queue, but for the flush (R90 to R99, R114). An earlier MARM of the group is applied before a newer one
(R117). -/
def mayLeave (s : State) (forwarded : Bool) (e : Entry) : Bool :=
  decide (e.waits = none) && !mergeAhead s e && soAllows s e && sidesAllow s e &&
  s.entries.all (fun f => !(e.objectPart f && decide (f.stage = .gq))) &&
  s.entries.all (fun f =>
    (!e.after f || kindAllows forwarded e f || (decide (e.kind = .so) && decide (f ∈ combined s e))) &&
    (!e.behind f || (fenceAllows e f && !(f.acq && e.ordered) && !(e.op.isMarm && f.op.isMarm))))

/-! ### Results (R323, R364) -/

/-- Bytes of a result bound (R100). -/
def bindIn (id off val : Nat) : List PendRes → List PendRes
  | [] => []
  | r :: rest =>
    if r.id = id then { r with left := r.left - 1, value := r.value + val * 2 ^ (8 * off) } :: rest else r :: bindIn id off val rest

/-- Some bytes of an entry bound, of which others are still to come. -/
def State.bindPart (s : State) (k : Nat) (res : Option Nat) (off val : Nat) : State :=
  s.setGroup k { s.group k with results := (s.group k).results.map (fun r =>
    if some r.id = res then { r with value := r.value + val * 2 ^ (8 * off) } else r) }

def State.bindRes (s : State) (k : Nat) (res : Option Nat) (off val : Nat) : State :=
  match res with
  | none => s
  | some id => s.setGroup k { s.group k with results := bindIn id off val (s.group k).results }

/-- Registers of a lane written from the lowest bytes up. -/
def putRegs (clock : Nat) (l : Nat) (value : Nat) : List Nat → Nat → Group → Group
  | [], _, g => g
  | r :: rest, i, g => putRegs clock l value rest (i + 1) (g.putV clock 0 r l (BitVec.ofNat 32 (value / 2 ^ (32 * i))))

/-- The push of a word gets its value (R364). -/
def Entry.bound (id value : Nat) (e : Entry) : Entry := if e.waits = some id then { e with data := value, waits := none } else e

/-- A result written to its destination and taken off the scoreboard (R323). -/
def State.writeResult (s : State) (k : Nat) (r : PendRes) : State :=
  let s := s.setGroup k { s.group k with results := (s.group k).results.filter (fun x => decide (x.id ≠ r.id)) }
  match r.dst with
  | .lane l regs => s.setGroup k (putRegs s.clock l r.value regs 0 (s.group k))
  | .uniform regs =>
    (match regs with
    | [] => s
    | n :: _ => s.setGroup k ((s.group k).putS n (BitVec.ofNat 64 r.value)))
  | .push _ => { s with entries := s.entries.map (Entry.bound r.id (r.value % 2 ^ 32)) }
  | .discard => s
  | .held => s
  | .lost => s
  | .ob => s

/-- A result given up: its registers keep their values, and a push's allowance returns (R364). -/
def State.dropResult (s : State) (k : Nat) (res : Option Nat) : State :=
  match (s.group k).results.find? (fun r => decide (some r.id = res)) with
  | none => s
  | some r =>
    let g := { s.group k with results := (s.group k).results.filter (fun x => decide (x.id ≠ r.id)) }
    { s with entries := s.entries.filter (fun e => decide (e.waits ≠ some r.id)) }.setGroup k (match r.dst with
      | .push ch => g.setAllowance ch (g.allowance ch + 1)
      | _ => g)

/-- An entry leaves the machine. -/
def State.removeEntry (s : State) (e : Entry) : State :=
  { s with entries := s.entries.filter (fun f => decide (f.id ≠ e.id)) }

/-- An entry replaced by a new form of itself, last in arrival order. -/
def State.moveEntry (s : State) (e : Entry) : State := { s.removeEntry e with entries := (s.removeEntry e).entries ++ [e] }

/-- An entry's load or atomic has its value (R96): the result binds, and an acquire side at .chp or wider raises AF. -/
def State.finishRead (s : State) (k : Nat) (e : Entry) (val : Nat) : State :=
  let s := (s.removeEntry e).bindRes k e.res e.off val
  if e.acq && decide (3 ≤ e.scope) then s.raiseFloor k else s

/-- The asynchronous trap that an entry's outcome raises (R241, R242). -/
def Entry.trapInfo (e : Entry) (code : Nat) (indeterminate : Bool) (aux : Nat) : TrapInfo :=
  { code := code, indeterminate := indeterminate, uniform := e.lane.isNone, async := true, prefixed := e.prefixed,
    pc := e.pc, lanes := match e.lane with
      | some l => 1#64 <<< l
      | none => 0,
    addr := BitVec.ofNat 64 e.addr, lane := e.laneNo, widthc := e.wcode, word := e.word, pfxWord := e.pfxWord,
    aux := BitVec.ofNat 64 aux }

/-- A lane whose request has ended runs again, once no other entry of its word is outstanding (R172, R176). -/
def State.resume (s : State) (k : Nat) (e : Entry) : State :=
  match e.lane with
  | none => s
  | some l =>
    let g := s.group k
    let more := s.entries.any (fun f => f.sameGroup e && decide (f.seq = e.seq ∧ f.lane = e.lane ∧ f.res = e.res))
    if (g.lane l).st = .parked && !more then s.setGroup k (g.setLane l { g.lane l with st := .run }) else s

/-- Whether an entry reads a part of a peer's summary object for a word that waits at issue (R438). -/
def Entry.summaryRead (g : Group) (e : Entry) : Bool := g.results.any (fun r => decide (some r.id = e.res ∧ r.dst = .held))

/-- Whether an entry belongs to such a read that has failed already. -/
def Entry.lostRead (g : Group) (e : Entry) : Bool := g.results.any (fun r => decide (some r.id = e.res ∧ r.dst = .lost))

/-- The read of a summary object has failed: what is still to come of it is discarded, so that its word traps once (R438). -/
def State.loseRead (s : State) (k : Nat) (e : Entry) : State :=
  let lose := fun (r : PendRes) => if some r.id = e.res then { r with dst := .lost, left := r.left - 1 } else r
  s.setGroup k { s.group k with results := (s.group k).results.map lose }

/-- A summary read that fails: the word traps at its own PC, for every lane that issued it (R438). -/
def State.failRead (s : State) (k : Nat) (t : TrapInfo) : State :=
  let g := s.group k
  let t := { t with async := false, lanes := maskOf g.liveLanes, lane := g.liveLanes.headD 0 }
  (s.setGroup k { g with sync := some t, waiting := .nothing, arrived := false }).boundaryTrap k

/-- The status bit of an engine's window access that ended so (R56, R461, R163, R164). -/
def codeStatus (code : Nat) : Nat := if code = tFabricTimeout then 0x080 else 0x100

/-- An engine's window access fails: a poisoned unit counts as read and poisoned (R78); otherwise the operation moves
nothing further and takes the status bit (R461). -/
def State.failWindow (s : State) (e : Entry) (op : Nat) (read : Bool) (code : Nat) : State :=
  let s := s.removeEntry e
  if code = tPoison ∧ read = true then
    let bytes := (List.range e.size).map (fun i => e.target.base % 2 ^ 19 + i)
    { s with ops := s.ops.map (fun o => if o.id = op then { o with imageBad := o.imageBad ++ bytes } else o) }
  else
    let ops := s.ops.map (fun o => if o.id = op then { o with status := Nat.lor o.status (codeStatus code), dead := true } else o)
    { s with ops := ops, entries := s.entries.filter (fun f => decide (f.op ≠ .engWin op true ∧ f.op ≠ .engWin op false)) }

/-- An entry that ends without its effect: registers unchanged, and a trap pending (R138, R460, R461); what comes of a summary read that a trap has
ended tells nobody (R438). -/
def State.failEntry (s : State) (k : Nat) (e : Entry) (code : Nat) (indeterminate : Bool) (aux : Nat) : State :=
  let waits := e.summaryRead (s.group k)
  match e.op with
  | .engWin op read => s.failWindow e op read code
  | _ =>
  if waits then ((s.removeEntry e).loseRead k e).failRead k (e.trapInfo code indeterminate aux)
  else if e.lostRead (s.group k) then (s.removeEntry e).loseRead k e
  else if (readKind e.opc).isSome then s.removeEntry e
  else
  let s := ((s.removeEntry e).dropResult k e.res).resume k e
  s.pendAsync k e.byHandler (e.trapInfo code indeterminate aux)

/-! ### L1 (R63, R64, R101, R102) -/

/-- The bytes of a sector with a store's bytes laid over them. -/
def layBytes (sector pa : Nat) (new old : List Byte) : List Byte :=
  old.zipIdx.map (fun b =>
    let a := sector * 32 + b.2
    if pa ≤ a ∧ a < pa + new.length then new.getD (a - pa) 0 else b.1)

/-- The sectors an L1 holds, with the bytes of a store laid over those it touches (R64). -/
def l1Store (l1 : List (Nat × L1Sector)) (pa : Nat) (bytes : List Byte) : List (Nat × L1Sector) :=
  l1.map (fun p =>
    if rangesMeet (p.1 * 32) 32 pa bytes.length then (p.1, { p.2 with bytes := layBytes p.1 pa bytes p.2.bytes }) else p)

/-- The sectors of an L1 without those that a byte range touches. -/
def l1Drop (l1 : List (Nat × L1Sector)) (pa n : Nat) : List (Nat × L1Sector) :=
  l1.filter (fun p => !rangesMeet (p.1 * 32) 32 pa n)

/-- The lines of a set of an L1 (R63). -/
def l1Lines (l1 : List (Nat × L1Sector)) (set : Nat) : List Nat :=
  (l1.map (fun p => p.1 / 4)).foldl (fun ls l => if decide (l % 128 = set) && !ls.contains l then ls ++ [l] else ls) []

/-- FC has wrapped (R101): the whole L1 goes, and every floor of the core is 0. -/
def State.wrapFc (s : State) (core : Nat) : State :=
  let s := s.setCore core { s.core core with l1 := [], fc := 0 }
  (s.groups.filter (fun p => decide (coreOf p.1 = core))).foldl (fun s p => s.setGroup p.1 { s.group p.1 with floor := 0 }) s

/-- The entries of a core that have left its core buffer for their home slices, in the order they left (R104). -/
def State.onTheWay (s : State) (core : Nat) : List Entry :=
  s.entries.filter (fun f => decide (f.stage = .net ∧ f.core = core) &&
    (match f.issuer with
    | .group _ => true
    | .peer _ _ => false))

/-- Whether an entry meets bytes of this chip's memory. -/
def Entry.meetsMem (e : Entry) (pa n : Nat) : Bool :=
  match e.target with
  | .memory b => rangesMeet b e.size pa n
  | _ => false

/-- Whether an atomic or a reduction of the core to a sector is on its way: its L1 may not hold the sector until it is applied (R64). -/
def State.sectorAway (s : State) (core sector : Nat) : Bool :=
  (s.onTheWay core).any (fun f =>
    match f.op with
    | .atom _ => f.meetsMem (sector * 32) 32
    | .red _ => f.meetsMem (sector * 32) 32 || s.entries.any (fun x => x.merged.contains f.id && x.meetsMem (sector * 32) 32)
    | _ => false)

/-- A sector's bytes as its home slice holds them, with the core's own stores that have left its core buffer laid over them: the L1 never goes
back behind those (R64, R65). -/
def State.sectorBytes (s : State) (core sector : Nat) : List Byte :=
  (s.onTheWay core).foldl (fun bs f =>
    match f.op, f.target with
    | .store, .memory b => layBytes sector b (bytesLE f.size f.data) bs
    | _, _ => bs) (readBytes s.mem (sector * 32) 32)

/-- One sector filled from its home slice with the stamp FC, which then advances (R101); a full set gives up a line. A poisoned sector is never
filled (R77). -/
def State.l1FillSector (s : State) (core sector : Nat) : State :=
  if s.poison.contains sector || s.sectorAway core sector then s
  else
  let s := if 2 ^ 32 ≤ (s.core core).fc then s.wrapFc core else s
  let c := s.core core
  let lines := l1Lines c.l1 (sector / 4 % 128)
  let l1 := if lines.contains (sector / 4) || decide (lines.length < 16) then c.l1
    else
      let out := lines.getD (Config.victim s.free % 16) 0
      c.l1.filter (fun p => decide (p.1 / 4 ≠ out))
  let sec : L1Sector := { bytes := s.sectorBytes core sector, stamp := c.fc }
  let s' := s.setCore core { c with l1 := insKey l1 sector sec, fc := c.fc + 1 }
  { s' with free := s.free + 1 }

/-- A load that bound at a home slice refreshes the sectors of its core's L1 that hold those bytes (R102), and fills the others where the L1 may
cache them. -/
def State.l1Fill (s : State) (e : Entry) (pa n : Nat) : State :=
  (sectorsOf pa n).foldl (fun s t =>
    if (e.kind = .so ∨ e.nc = true) ∧ findKey (s.core e.core).l1 t = none then s else s.l1FillSector e.core t) s

/-! ### Binding before the home slice (R100) -/

/-- The byte that an entry writes at an address, where its bytes are known before it is applied. -/
def storeByte (f : Entry) (base i : Nat) : Option Byte :=
  if base ≤ i ∧ i < base + f.size then
    match f.op with
    | .store => some (BitVec.ofNat 8 (f.data / 2 ^ (8 * (i - base))))
    | .skinit kind seed => (initialImage kind seed)[i - base]?
    | _ => none
  else none

/-- The value of byte `i` of a store's target, where the entry is a store to the same place as `t`. -/
def forwardByte (t : Target) (i : Nat) (f : Entry) : Option Byte :=
  match t, f.target with
  | .memory _, .memory b => storeByte f b i
  | .bank p _, .bank q b => if p = q then storeByte f b i else none
  | .remote p v _, .remote q w b => if p = q ∧ v = w then storeByte f b i else none
  | _, _ => none

/-- The youngest of several, by program order. -/
def youngest : List Entry → Option Entry
  | [] => none
  | e :: rest =>
    match youngest rest with
    | none => some e
    | some f => if f.after e then some f else some e

/-- The entries that stand before e in order of arrival. -/
def earlierArrivals (s : State) (e : Entry) : List Entry := s.entries.takeWhile (fun f => decide (f.id ≠ e.id))

/-- The store that byte i of a load is taken from in the group queue or, of those that came there before the load, in the core buffer (R100,
R103). -/
def earlySource (s : State) (e : Entry) (i : Nat) : Option Entry :=
  let inGq := s.entries.filter (fun f => decide (f.stage = .gq) && e.after f &&
    (decide (e.kind ≠ .uo) || decide (f.lane = e.lane)) && (forwardByte e.target i f).isSome)
  let came := if e.stage = .gq then s.entries else earlierArrivals s e
  let inCb := came.filter (fun f => decide (f.stage = .cb) && decide (f.core = e.core) && !f.after e && (forwardByte e.target i f).isSome)
  match (if e.stage = .gq then youngest inGq else none) with
  | some f => some f
  | none =>
    match e.target with
    | .memory _ => inCb.getLast?
    | _ => none

/-- Whether an earlier load of the group has still to bind a byte of memory: a later load that took it from the L1 could bind an older value
(R102). -/
def boundLater (s : State) (e : Entry) (i : Nat) : Bool :=
  s.entries.any (fun f => e.after f && decide (f.op = .load) && f.meetsMem i 1 && (f.early.lookup (i - f.target.base)).isNone)

/-- A byte of memory from the core's L1, where the load may use the sector (R101); nothing binds there once FC has wrapped, nor before an earlier
load of the group has bound the byte (R102). -/
def l1Byte (s : State) (k : Nat) (e : Entry) (i : Nat) : Option Byte :=
  match e.target with
  | .memory _ =>
    if e.kind = .so ∨ e.nc = true ∨ 2 ^ 32 ≤ (s.core e.core).fc ∨ boundLater s e i = true then none
    else
      (match findKey (s.core e.core).l1 (i / 32) with
      | some sec => if (s.group k).floor ≤ sec.stamp then sec.bytes[i % 32]? else none
      | none => none)
  | _ => none

/-- Byte i of a load from sources 1 to 3 of R100, if one of them holds it. -/
def earlyByte (s : State) (k : Nat) (e : Entry) (i : Nat) : Option Byte :=
  match earlySource s e i with
  | some f => forwardByte e.target i f
  | none => l1Byte s k e i

/-- The bytes of a load, by their place in it, that the core's L1 gives (R100). -/
def l1Bytes (s : State) (k : Nat) (e : Entry) : List (Nat × Byte) :=
  (List.range e.size).filterMap (fun i =>
    if (earlySource s e (e.target.base + i)).isNone then (l1Byte s k e (e.target.base + i)).map (fun b => (i, b)) else none)

/-- The group has bound bytes from the L1: the stores of other groups of its core that those bytes come from and that are still on their way are
covered by its later releases (R125). -/
def State.noteOwed (s : State) (k : Nat) (e : Entry) (bs : List (Nat × Byte)) : State :=
  let own := (s.onTheWay e.core).filter (fun f => decide (f.op = .store) && !f.sameGroup e &&
    bs.any (fun b => f.meetsMem (e.target.base + b.1) 1))
  let g := s.group k
  if own = [] then s
  else s.setGroup k { g with owes := g.owes.filter (fun p => s.entries.any (fun f => decide (f.id = p.2))) ++ own.map (fun f => (e.seq, f.id)) }

/-- All bytes of a load from sources 1 to 3 of R100, if they hold every one. -/
def earlyBytes (s : State) (k : Nat) (e : Entry) : Option (List Byte) :=
  ((List.range e.size).map (fun i => earlyByte s k e (e.target.base + i))).foldr (fun b acc =>
    match b, acc with
    | some b, some l => some (b :: l)
    | _, _ => none) (some [])

/-! ### Messages (R136, R137, R153) -/

/-- How far a sequence number stands beyond another, modulo 2^32. -/
def seqAhead (a b : Nat) : Nat := (a + 2 ^ 32 - b % 2 ^ 32) % 2 ^ 32

/-- Which flow an entry for another chip takes (R106). -/
def Entry.flow (e : Entry) : Nat :=
  match e.op, e.target with
  | .marm _, _ => 3
  | _, .remote _ true _ => 2
  | _, _ => if e.kind = .so then 0 else 1

/-- The ORDER code of an entry (R312). -/
def Entry.order (e : Entry) : Nat := (if e.acq then 1 else 0) + (if e.rel then 2 else 0)

def Entry.dest (e : Entry) : Nat :=
  match e.target with
  | .remote p _ _ => p
  | _ => 0

/-- The first operand of an entry's message; a MARM's names the MARM in its upper half (log 33). -/
def Entry.expect (e : Entry) : Nat :=
  match e.op with
  | .marm x => x % 2 ^ 64 + e.id % 2 ^ 64 * 2 ^ 64
  | _ => e.data

/-- How far back in an rc flow the last entries stand that may not have been delivered and touch the first and the last 128-byte line of a message, 0
where there is none: R109 has the buffer order those, and R153 has no field that tells it of one that has not come (log 34). Loads and stores carry
them in free bits of the second operand, atomics and reductions, which touch one line, above their first operand. -/
structure Links where
  first : Nat
  last : Nat
  deriving DecidableEq, Repr

def noLinks : Links := { first := 0, last := 0 }

def Links.inSecond (p : Links) : Nat :=
  p.first % 2 ^ 32 * 2 ^ 32 + p.last % 2 ^ 16 + p.last / 2 ^ 16 % 2 ^ 8 * 2 ^ 24 + p.last / 2 ^ 24 % 2 ^ 7 * 2 ^ 65

def EntOp.plain : EntOp → Bool
  | .load => true
  | .store => true
  | _ => false

/-- Whether a lane or uniform opcode is that of a plain load or store (R153). -/
def plainCode (op : Nat) : Bool := [0x4A, 0x4E, 0x53, 0x9C, 0x4B, 0x4F, 0x54, 0x9D].contains op

/-- The links that a message of the flow rc carries. -/
def msgLinks (m : LsMsg) : Links :=
  let d := m.data2.toNat
  if m.flow ≠ 1 then noLinks
  else if plainCode m.op then
    { first := d / 2 ^ 32 % 2 ^ 32, last := d % 2 ^ 16 + d / 2 ^ 24 % 2 ^ 8 * 2 ^ 16 + d / 2 ^ 65 % 2 ^ 7 * 2 ^ 24 }
  else { first := m.data.toNat / 2 ^ 96 % 2 ^ 32, last := 0 }

/-- What the header of R153 has no field for travels in the upper half of the second operand, which no instruction uses: the
requester's core, grid and block, and whether the address is a window address (log 33). -/
def routeWord (core grid blockId : Nat) (win : Bool) : Nat :=
  2 ^ 64 * (core % 256 * 2 ^ 56 + grid % 2 ^ 16 * 2 ^ 40 + blockId % 2 ^ 32 * 2 ^ 8 + (if win then 1 else 0))

def msgCore (m : LsMsg) : Nat := m.data2.toNat / 2 ^ 120
def msgGrid (m : LsMsg) : Nat := m.data2.toNat / 2 ^ 104 % 2 ^ 16
def msgBlock (m : LsMsg) : Nat := m.data2.toNat / 2 ^ 72 % 2 ^ 32
def msgWin (m : LsMsg) : Bool := decide (m.data2.toNat / 2 ^ 64 % 2 = 1)

/-- The group of its chip that a MARM's message comes from: the core, and the slot in bits [70:66] of the second operand (log 33). -/
def msgGroup (m : LsMsg) : Nat := msgCore m * 32 + m.data2.toNat / 2 ^ 66 % 32
/-- Whether a MARM's message only cancels the watch that the MARM it names has entered (R117): bit 65 of the second operand (log 33). -/
def msgCancel (m : LsMsg) : Bool := decide (m.op = 0xB7 ∧ m.data2.toNat / 2 ^ 65 % 2 = 1)

/-- Whether a target is a gang window on another chip. -/
def Target.isWindow : Target → Bool
  | .remote _ w _ => w
  | _ => false

/-- The second operand of an entry: a plain access of which the entry is only a part (R87) says its bytes there (log 32). -/
def Entry.operand2 (e : Entry) : Nat :=
  match e.op with
  | .load => if e.size = 2 ^ e.wcode then e.data2 else e.size * 2 ^ 16
  | .store => if e.size = 2 ^ e.wcode then e.data2 else e.size * 2 ^ 16
  | _ => e.data2

/-- The LS message of an entry (R153). -/
def Entry.message (e : Entry) (src tag seq route : Nat) (p : Links) : LsMsg :=
  { flow := e.flow, op := e.opc, src := src, dst := e.dest, width := e.wcode, scope := e.scope, order := e.order,
    cgen := e.cgen, ctx := e.ctx, tag := tag, seq := seq, addr := e.target.base,
    data := BitVec.ofNat 128 (e.expect + if e.op.plain then 0 else p.first % 2 ^ 32 * 2 ^ 96),
    data2 := BitVec.ofNat 128 (e.operand2 + route + if e.op.plain then p.inSecond else 0) }

/-- The limit of a context's requests in nanoseconds (R136). -/
def State.tmo (s : State) (ctx : Nat) : Nat :=
  let t := (s.ctxDesc ctx).tmo
  (if t = 0 then 2000 else t) * 1000

def Core.slot (c : Core) (i : Nat) : ReqSlot := getKey ReqSlot.empty c.slots i

/-- The lowest request slot of a core that is free and not withheld (R136, R137). -/
def Core.freeSlot (c : Core) : Option Nat := (List.range 4096).find? (fun i => !(c.slot i).inUse && !(c.slot i).withheld)

/-- The route word of an entry of this chip; a MARM's carries the slot of its group. -/
def State.routeOf (s : State) (e : Entry) : Nat :=
  match e.issuer with
  | .group k =>
    let b := s.block (s.group k).block
    routeWord e.core b.grid b.blockId e.target.isWindow + (if e.op.isMarm then k % 32 * 2 ^ 66 else 0)
  | .peer _ _ => 0

/-- The 128-byte lines that an entry touches. -/
def Entry.lines (e : Entry) : List Nat := [e.target.base / 128, (e.target.base + e.size - 1) / 128]

/-- How far back the last entry to a line stands in e's rc flow, among those that have not been answered (R109). -/
def State.linkTo (s : State) (e : Entry) (seq line : Nat) : Nat :=
  let grid := fun (f : Entry) => (s.block (s.group f.owner).block).grid
  let back := (s.entries.filter (fun f => decide (f.stage = .flow ∧ f.flow = 1 ∧ f.dest = e.dest ∧ f.id ≠ e.id ∧ grid f = grid e ∧ 
    0 < seqAhead seq f.fseq ∧ seqAhead seq f.fseq < 2 ^ 31) && f.lines.contains line)).map (fun f => seqAhead seq f.fseq)
  back.foldl (fun m d => if m = 0 ∨ d < m then d else m) 0

def State.linksOf (s : State) (e : Entry) (seq : Nat) : Links :=
  if e.flow ≠ 1 then noLinks
  else
    let ls := e.lines
    let first := ls.headD 0
    let last := ls.getLastD 0
    { first := s.linkTo e seq first, last := if last = first then 0 else s.linkTo e seq last }

/-- An entry that takes a request slot and enters its fabric flow (R107, R136). -/
def State.enterRemote (s : State) (e : Entry) (slot : Nat) : State :=
  let c := s.core e.core
  let r := c.slot slot
  let tag := slot * 16 + r.gen
  let r' : ReqSlot := { r with inUse := true, resent := false, entry := e.id, since := s.fab.podtime, limit := s.tmo e.ctx, vias := [] }
  let s := s.setCore e.core { c with slots := setKey ReqSlot.empty c.slots slot r' }
  let (seq, s) := s.takeSeq e.dest e.flow
  let e' := { e with stage := .flow, tag := tag, fseq := seq }
  let s := (s.moveEntry e').sendLs (e'.message s.fab.pos tag seq (s.routeOf e) (s.linksOf e seq))
  match e.op, e.issuer with
  | .marm _, .group k => s.setGroup k { s.group k with monTag := tag + 1, monPos := some e.dest }
  | _, _ => s

/-- The request slot of a tag is free again; `bump` for a slot given up by a timeout (R137). -/
def State.freeTag (s : State) (core tag : Nat) (bump : Bool) : State :=
  let c := s.core core
  let i := tag / 16
  let gen := if bump then (tag % 16 + 1) % 16 else (c.slot i).gen
  let lim := if bump = true ∧ gen = 0 then 64 * (c.slot i).limit else 0
  let r : ReqSlot := { gen := gen, inUse := false, resent := false, withheld := bump && decide (gen = 0), entry := 0, since := s.fab.podtime, limit := lim, vias := [] }
  s.setCore core { c with slots := setKey ReqSlot.empty c.slots i r }

/-- A reply to a request of another chip, on rsp (R106, R110, R153). -/
def State.reply (s : State) (m : LsMsg) (op width : Nat) (data : Nat) : State :=
  let r : LsMsg :=
    { flow := 4, op := op, src := s.fab.pos, dst := m.src, width := width, scope := m.scope, order := 0, cgen := m.cgen,
      ctx := m.ctx, tag := m.tag, seq := 0, addr := 0, data := BitVec.ofNat 128 data,
      data2 := BitVec.ofNat 128 (m.data2.toNat / 2 ^ 64 * 2 ^ 64) }
  s.enterFlow r

/-- A sequence number applied: an ordered flow goes on to the next (R108). -/
def State.flowApplied (s : State) (m : LsMsg) : State :=
  if m.flow = 0 ∨ m.flow = 2 ∨ m.flow = 3 then
    let key := m.src * 8 + m.flow
    { s with fab := { s.fab with nextIn := setKey 0 s.fab.nextIn key ((m.seq + 1) % 2 ^ 32) } }
  else s

/-! ### Atomics and reductions (R69, R370, R373) -/

/-- A number of `8 × n` bits compared as signed. -/
def signedLt (n a b : Nat) : Bool := decide (signedOf (8 * n) a < signedOf (8 * n) b)

/-- The new value of an atomic and whether it writes (R370); `lim` is vd's input. -/
def atomNew (op : AtomOp) (n old b lim : Nat) : Nat × Bool :=
  let m := 2 ^ (8 * n)
  match op with
  | .add => ((old + b) % m, true)
  | .incw => (if b ≤ old then 0 else old + 1, true)
  | .decw => (if old = 0 ∨ b < old then b else old - 1, true)
  | .badd => (old + b, decide (old + b ≤ lim) && decide (old + b < m))
  | .min => (if signedLt n b old then b else old, true)
  | .max => (if signedLt n old b then b else old, true)
  | .nmin => (if b < old then b else old, true)
  | .nmax => (if old < b then b else old, true)
  | .and => (Nat.land old b, true)
  | .or => (Nat.lor old b, true)
  | .xor => (Nat.xor old b, true)
  | .xchg => (b, true)
  | .cas => (b, decide (old = lim))
  | .fadd => ((fadd32 (BitVec.ofNat 32 old) (BitVec.ofNat 32 b)).toNat, true)
  | .fmax =>
    let x := BitVec.ofNat 32 old
    let y := BitVec.ofNat 32 b
    ((if isNan32 x || isNan32 y then nan32 else fmax32 x y).toNat, true)

/-- A reduction's value (R69, R373); RFMAX of a zero takes the sign that the device gives it (log 8). -/
def redNew (op : RedOp) (free old b : Nat) : Nat :=
  match op with
  | .add => (old + b) % 2 ^ 32
  | .fadd => (fadd32 (BitVec.ofNat 32 old) (BitVec.ofNat 32 b)).toNat
  | .fmax =>
    let x := BitVec.ofNat 32 old
    let y := BitVec.ofNat 32 b
    if isNan32 x || isNan32 y then nan32.toNat
    else if x ≠ y ∧ fEq (fv x) (fv y) then (if Config.rfmaxNegZero free then 0x80000000 else 0)
    else (fmax32 x y).toNat
  | .max => if signedLt 4 old b then b else old
  | .min => if signedLt 4 b old then b else old
  | .or => Nat.lor old b

/-! ### Barriers (R55 to R57, R186) -/

def barOff (k : Nat) : Nat := 32 * k

def Block.barPhase (b : Block) (k : Nat) : Nat := readNat b.spad (barOff k) 4
def Block.barExpect (b : Block) (k : Nat) : Nat := readNat b.spad (barOff k + 6) 2

/-- One arrival applied to a barrier (R57); EXPECT is not 0. -/
def arriveIn (m : List Host.Cell) (o bits : Nat) : List Host.Cell :=
  let phase := readNat m o 4
  let arrived := readNat m (o + 4) 2
  let expect := readNat m (o + 6) 2
  let pend := readNat m (o + 8) 8
  let err := pend / 2 ^ 48
  let bits := if bits % 2 ^ 11 / 2 = 0 then 0 else Nat.lor (bits % 2 ^ 11) 1
  let err := if bits ≠ 0 ∧ err < 0xFFFF then err + 1 else err
  let pend := Nat.lor (pend % 2 ^ 48) bits + err * 2 ^ 48
  if arrived + 1 = expect then
    writeNat (writeNat (writeNat (writeNat m (o + 16) 8 pend) (o + 8) 8 0) (o + 4) 2 0) o 4 (phase + 1)
  else writeNat (writeNat m (o + 8) 8 pend) (o + 4) 2 (arrived + 1)

/-- One arrival at a block's barrier; nothing changes while EXPECT is 0 (R57). -/
def State.arriveAt (s : State) (bk k bits : Nat) : State :=
  let b := s.block bk
  if b.barExpect k = 0 then s else s.setBlock bk { b with spad := arriveIn b.spad (barOff k) bits }

/-- SEEN of a group for a barrier (R186). -/
def Group.setSeen (g : Group) (k : Nat) (x : Bool) : Group :=
  let bit : BitVec 16 := 1#16 <<< k
  { g with seen := if x then g.seen ||| bit else g.seen &&& ~~~bit }

/-- A group's arrival applied (R57, R186): SEEN takes the parity from before it. -/
def State.applyArrival (s : State) (k bk bar : Nat) (bits : DWord) : State :=
  let phase := (s.block bk).barPhase bar
  let s := s.setGroup k ((s.group k).setSeen bar (phase % 2 = 1))
  s.arriveAt bk bar bits.toNat

/-! ### Monitors (R117, R129) -/

/-- A watch entered at a home slice, which holds at most 512: the oldest one fires (R129). -/
def State.addWatch (s : State) (pa : Nat) (w : Watch) : State :=
  let inSlice := s.watches.filter (fun x => decide (homeSlice (x.unit * 8) = homeSlice pa))
  match inSlice with
  | old :: _ =>
    if 512 ≤ inSlice.length then
      let ws := s.watches.filter (fun x => decide (x ≠ old)) ++ [w]
      { s with watches := ws }.fireWatch old
    else { s with watches := s.watches ++ [w] }
  | [] => { s with watches := s.watches ++ [w] }

/-- The watches that this chip's home slices and banks hold, but those that `gone` names. -/
def State.dropWatch (s : State) (gone : Watch → Bool) : State :=
  let keep := fun (w : Watch) => !gone w
  let blocks := s.blocks.map (fun p => (p.1, { p.2 with watches := p.2.watches.filter keep }))
  { s with watches := s.watches.filter keep, blocks := blocks }

/-- A group's watches dropped wherever this chip holds them (R117). -/
def State.dropHere (s : State) (k : Nat) : State := s.dropWatch (fun w => decide (w.pos = s.fab.pos ∧ w.group = k))

/-- The message that cancels the watch which a MARM of a group has entered at another chip (R117), on mon; R153 gives it no OP of its own (log 33). -/
def cancelMsg (s : State) (k entry pos : Nat) : LsMsg :=
  let b := s.block (s.group k).block
  { flow := 3, op := 0xB7, src := s.fab.pos, dst := pos, width := 0, scope := 5, order := 0, cgen := s.cgen b.ctx, ctx := b.ctx, tag := 0, seq := 0,
    addr := 0, data := BitVec.ofNat 128 (entry % 2 ^ 64 * 2 ^ 64),
    data2 := BitVec.ofNat 128 (routeWord (coreOf k) b.grid b.blockId false + 2 ^ 65 + k % 32 * 2 ^ 66) }

/-- A group's watch dropped where it is held: on this chip, and by a message where the armed monitor's, or that of a MARM whose compare may have been
applied, stands on another one (R117). -/
def State.dropWatches (s : State) (k : Nat) : State :=
  let g := s.group k
  let mine := fun (e : Entry) => e.op.isMarm && decide (e.issuer = .group k ∧ e.stage = .flow)
  let away := (match g.monPos with
    | some p => if g.mon = .armed then [(g.monEntry, p)] else []
    | none => []) ++ (s.entries.filter mine).map (fun e => (e.id, e.dest))
  (away.foldl (fun s x => s.enterFlow (cancelMsg s k x.1 x.2)) s).dropHere k

/-- An older watch of another chip's monitor is cancelled before its new compare is applied (R117). -/
def State.dropOld (s : State) (e : Entry) : State :=
  match e.issuer with
  | .peer p m => s.dropWatch (fun w => decide (w.pos = p ∧ w.group = msgGroup m))
  | .group _ => s

/-- MARM's compare applied for a group of this chip (R117): only its newest MARM arms. -/
def State.applyMarm (s : State) (k : Nat) (e : Entry) (equal : Bool) (arm : State → State) : State :=
  let g := s.group k
  let s := (s.removeEntry e).bindRes k e.res 0 (if equal then 0 else 1)
  if g.monEntry = e.id ∧ g.mon = .pending then
    (if equal then arm (s.setGroup k { s.group k with mon := .armed })
     else s.setGroup k { s.group k with mon := .fired })
  else s

/-! ### Summaries at the bank (R297, R284) -/

/-- One insert instruction applied to its object (R297): judged again, its poison too (R300, log 19), all lanes or none (R284). -/
def State.applyInsert (s : State) (k bk off : Nat) (e : Entry) (kind : SkKind) (vals : List Word) : State :=
  let b := s.block bk
  let obj := readBytes b.spad off kind.size
  let s' := s.removeEntry e
  let fail := fun (s : State) (code : Nat) => s.pendAsync k e.byHandler { e.trapInfo code false 0 with lanes := BitVec.ofNat 64 e.data2 }
  if poisoned b.spadBad off kind.size then fail s' tPoison
  else if wellFormed kind obj then
    (match skInsert kind obj vals with
    | some obj' => s'.setBlock bk { b with spad := writeBytes b.spad off obj' }
    | none => fail s' tSummary)
  else fail s' tSummary

/-- A target `n` bytes further. -/
def Target.past (n : Nat) : Target → Target
  | .memory pa => .memory (pa + n)
  | .bank b off => .bank b (off + n)
  | t => t

/-- What is left of an entry after its first `n` bytes. -/
def Entry.rest (e : Entry) (n data : Nat) : Entry :=
  { e with target := e.target.past n, off := e.off + n, size := e.size - n, data := data, begun := true,
           early := e.early.filterMap (fun b => if b.1 < n then none else some (b.1 - n, b.2)) }

/-- An entry keeps its place with what is left of it. -/
def State.keepRest (s : State) (e : Entry) (n data : Nat) : State :=
  { s with entries := s.entries.map (fun f => if f.id = e.id then f.rest n data else f), free := s.free + 1 }

/-! ### Application at a bank (R124, R76, R460, R461) -/

/-- MERR bits set in a group (R408). -/
def State.merr (s : State) (k : Nat) (bits : DWord) : State := s.setGroup k ((s.group k).setMerr bits)

/-- The end of an entry whose target block is not resident (R461). -/
def State.departedAt (s : State) (e : Entry) : State :=
  match e.issuer with
  | .group k => s.failEntry k e tWindowDeparted false 0
  | .peer _ m => ((s.removeEntry e).reply m 0xF8 0 0).flowApplied m

/-- A MARM that ends without its compare: the monitor is FIRED where this is the newest one (R117). -/
def State.marmLost (s : State) (k : Nat) (e : Entry) : State :=
  match e.op with
  | .marm _ => if (s.group k).monEntry = e.id then s.setGroup k { s.group k with mon := .fired } else s
  | _ => s

/-- The end of an entry that reads poison (R460; log 19 for a sector of this chip poisoned after the check). -/
def State.poisonAt (s : State) (e : Entry) : State :=
  match e.issuer with
  | .group k =>
    (s.marmLost k e).failEntry k e tPoison false 0
  | .peer _ m => ((s.removeEntry e).reply m 0xF9 0 0).flowApplied m

/-- A read's value goes to its issuer: a result, or a data reply (R110, R137). -/
def State.readDone (s : State) (e : Entry) (val : Nat) : State :=
  match e.issuer with
  | .group k => s.finishRead k e val
  | .peer _ m => ((s.removeEntry e).reply m 0xF0 m.width val).flowApplied m

/-- A write is acknowledged to its issuer, with POISON_READ for a discarded reduction (R76, R110, R460). -/
def State.writeDone (s : State) (e : Entry) (poisonRead : Bool) : State :=
  let s := s.removeEntry e
  match e.issuer with
  | .group k => if poisonRead then s.merr k stPoisonRead else s
  | .peer _ m => (s.reply m 0xF1 0 (if poisonRead then 1 else 0)).flowApplied m

/-- The watch that a MARM enters: a group's own, or another chip's. -/
def Entry.watch (e : Entry) (here unit : Nat) : Watch :=
  match e.issuer with
  | .group k => { unit := unit, pos := here, group := k, entry := e.id, tag := 0, ctx := e.ctx, cgen := e.cgen }
  | .peer p m => { unit := unit, pos := p, group := msgGroup m, entry := m.data.toNat / 2 ^ 64, tag := m.tag, ctx := m.ctx, cgen := m.cgen }

/-- Sixteen more bytes of a summary object that another chip merges into one here (R437): the merge is applied when the
kind that the TYPE byte names is whole; bit 2 of the second operand marks the first, and bits [63:32] name the merge. The answer's data says POISON_READ (1) or SUMMARY (2) (log 25). -/
def State.winMerge (s : State) (e : Entry) (m : LsMsg) (bk off : Nat) : State :=
  let b := s.block bk
  let first := decide (e.data2 / 4 % 2 = 1)
  let key := m.src * 2 ^ 32 + e.data2 / 2 ^ 32 % 2 ^ 32
  let got := (if first then [] else getKey [] s.fab.winMerge (2 * key)) ++ bytesLE 16 e.data
  let bad := (!first && decide (getKey [] s.fab.winMerge (2 * key + 1) ≠ [])) || decide (e.data2 / 2 % 2 = 1)
  let keep := fun (g : List Byte) (p : Bool) =>
    setKey [] (setKey [] s.fab.winMerge (2 * key) g) (2 * key + 1) (if p then [1] else [])
  let done := fun (s : State) (code : Nat) => ((s.removeEntry e).reply m 0xF1 0 code).flowApplied m
  match skKindOfType (objType got) with
  | none => done { s with fab := { s.fab with winMerge := keep [] false } } 2
  | some k =>
    if got.length < k.size then done { s with fab := { s.fab with winMerge := keep got bad } } 0
    else
      let o := off + 16 - k.size
      let s := { s with fab := { s.fab with winMerge := keep [] false } }
      if bad || poisoned b.spadBad o k.size then
        done (s.setBlock bk { b with spadBad := (sectorsOf o k.size).foldl addSorted b.spadBad }) 1
      else
        (match mergeObjects k (readBytes b.spad o k.size) got with
        | some obj => done (s.storeBank bk o obj false) 0
        | none => done s 2)

/-- Sixteen bytes of a summary object that a read word of another chip asks for: the object is taken whole when the first of the word's messages is
applied, so that the word sees it between two whole steps (R299, R438); bit 3 of the second operand marks that one, and bits [63:32] name the read, so
that what is left of one that a trap has ended is answered from its own (log 58). -/
def State.objectRead (s : State) (e : Entry) (m : LsMsg) (bk off : Nat) (k : SkKind) : State :=
  let b := s.block bk
  let key := (m.src * 256 + msgCore m) * 2 ^ 32 + e.data2 / 2 ^ 32 % 2 ^ 32
  let now : ObjHold := { key := key, base := off, bytes := readBytes b.spad off k.size, bad := poisoned b.spadBad off k.size }
  let h := if e.data2 / 8 % 2 = 1 then now else (s.fab.objHold.find? (fun x => decide (x.key = key))).getD now
  let i := off - h.base
  let others := s.fab.objHold.filter (fun x => decide (x.key ≠ key))
  let s := { s with fab := { s.fab with objHold := if k.size ≤ i + 16 then others else others ++ [h] } }
  if h.bad then s.poisonAt e else s.readDone e (natLE ((h.bytes.drop i).take e.size))

/-- A load applied at a bank. -/
def State.bankLoad (s : State) (e : Entry) (bk off : Nat) : State :=
  let b := s.block bk
  let plain := if poisoned b.spadBad off e.size then s.poisonAt e else s.readDone e (readNat b.spad off e.size)
  match e.issuer, readKind e.opc with
  | .peer _ m, some k => s.objectRead e m bk off k
  | _, _ => plain

/-- The bits of a byte's halves: 1 the low one, 2 the high one, 3 both. -/
def nibbles (m : Nat) : Nat := (if m % 2 = 1 then 0x0F else 0) + (if m / 2 % 2 = 1 then 0xF0 else 0)

/-- An engine of another chip reads or writes bytes of a scratchpad (R420): the second operand's bit 1 marks poisoned
data, and its bits [63:32] are the half bytes that are moved, all of them where they are 0; a poisoned unit is answered with its bytes (log 25). A sector
that an engine's messages cover together keeps its poison, since R75 does not say whether they are one write of it (log 103). -/
def State.applyWindow (s : State) (e : Entry) (bk off : Nat) (read : Bool) : State :=
  let b := s.block bk
  match e.issuer with
  | .group _ => s.removeEntry e
  | .peer _ m =>
    if read then
      (let val := readNat b.spad off e.size
       if poisoned b.spadBad off e.size then ((s.removeEntry e).reply m 0xF9 m.width val).flowApplied m else s.readDone e val)
    else if e.opc = 0xC3 then s.winMerge e m bk off
    else
      let halves := e.data2 / 2 ^ 32 % 2 ^ 32
      let bad := decide (e.data2 / 2 % 2 = 1)
      let one := fun (s : State) (i : Nat) =>
        let m := nibbles (halves / 4 ^ i % 4)
        let old := readNat b.spad (off + i) 1
        let new := Nat.lor (Nat.land (e.data / 256 ^ i % 256) m) (old - Nat.land old m)
        s.storeBank bk (off + i) (bytesLE 1 new) bad
      let s := if halves = 0 then s.storeBank bk off (bytesLE e.size e.data) bad
        else ((List.range e.size).filter (fun i => decide (halves / 4 ^ i % 4 ≠ 0))).foldl one s
      s.writeDone e false

/-- The next 16-byte unit of an OBLD written, which one is free (R376, R123); the sectors that the word covers whole are clean when their last unit is
written (R75), and with the last unit the word is over. Nothing is written where the handle is held no longer (log 57). -/
def State.obldUnit (s : State) (e : Entry) (bk k : Nat) (bytes : List (Nat × Byte)) : State :=
  let b := s.block bk
  let units := (bytes.map (fun x => x.1 / 16)).foldl addUnique []
  let u := units.getD (Config.piece s.free % units.length) 0
  let left := bytes.filter (fun x => decide (x.1 / 16 ≠ u))
  let s := { s with free := s.free + 1 }
  let s := match findKey b.handles k with
    | none => s
    | some h =>
      let ob := (bytes.filter (fun (x : Nat × Byte) => decide (x.1 / 16 = u))).foldl (fun (m : List Host.Cell) (x : Nat × Byte) => writeByte m (h.start * 4096 + x.1) x.2) b.ob
      let clean := e.whole.filter (fun t => decide (t = u / 2) && !left.any (fun x => decide (x.1 / 32 = t)))
      s.setBlock bk { b with ob := ob, obBad := b.obBad.filter (fun t => !clean.contains (t - h.start * 128) || decide (t < h.start * 128)) }
  if left ≠ [] then { s with entries := s.entries.map (fun (f : Entry) => if f.id = e.id then { f with op := .obld k left } else f) }
  else
    match e.issuer with
    | .group g => (s.removeEntry e).setGroup g { s.group g with results := (s.group g).results.filter (fun r => decide (some r.id ≠ e.res)) }
    | .peer _ _ => s.removeEntry e

/-- An entry applied at the bank that holds its block's scratchpad (R124). A trap record's store is written unit by unit, the lowest first (R413,
log 101). One for a block that is not resident, or has still to start, performs
nothing (R461). -/
def State.applyBank (s : State) (e : Entry) (bk off : Nat) : State :=
  let b := s.block bk
  let bad := poisoned b.spadBad off e.size
  if !b.resident || !b.started then s.departedAt e
  else
    match e.op with
    | .load => s.bankLoad e bk off
    | .store =>
      if 16 < e.size then (s.storeBank bk off (bytesLE 16 e.data) false).keepRest e 16 (e.data / 2 ^ 128)
      else (s.storeBank bk off (bytesLE e.size e.data) false).writeDone e false
    | .atom op =>
      if bad then s.poisonAt e
      else
        let old := readNat b.spad off e.size
        let (new, writes) := atomNew op e.size old e.data e.data2
        (if writes then s.storeBank bk off (bytesLE e.size new) false else s).readDone e old
    | .red op =>
      if bad then s.writeDone e true
      else
        let new := redNew op s.free (readNat b.spad off 4) e.data
        let s := s.storeBank bk off (bytesLE 4 new) false
        ({ s with free := s.free + 1 }).writeDone e false
    | .marm x =>
      if bad then s.poisonAt e
      else
        let equal := decide (readNat b.spad off e.size = x)
        let arm := fun (s : State) =>
          let b := s.block bk
          s.setBlock bk { b with watches := b.watches ++ [e.watch s.fab.pos (off / 8)] }
        (match e.issuer with
        | .group k => s.applyMarm k e equal arm
        | .peer _ _ =>
          let s := s.dropOld e
          (if equal then arm s else s).readDone e (if equal then 0 else 1))
    | .push ch gid => (pushChan bk ch gid (BitVec.ofNat 32 e.data) s).removeEntry e
    | .obld k bytes => s.obldUnit e bk k bytes
    | .skinit kind seed => (s.storeBank bk off (initialImage kind seed) false).writeDone e false
    | .engWin _ read => s.applyWindow e bk off read
    | .insert kind vals =>
      (match e.issuer with
      | .group k => s.applyInsert k bk off e kind vals
      | .peer _ _ => s.removeEntry e)
    | .arrive bar bits =>
      (match e.issuer with
      | .group k => (s.applyArrival k bk bar bits).removeEntry e
      | .peer _ _ => s.removeEntry e)
    | _ => s.removeEntry e

/-! ### Application at a home slice (R67, R75, R77) -/

/-- Host reservations on units that a device atomic is applied to are gone, even where it writes nothing (R140). -/
def State.breakResv (s : State) (pa n : Nat) : State :=
  { s with ctl := { s.ctl with hostResv := s.ctl.hostResv.filter (fun r => decide (pa + n ≤ r.2) || decide (r.2 + 8 ≤ pa)) } }


/-- A combined store applied as one write (R75): its wholly covered sectors end clean. -/
def State.applyStores (s : State) (es : List Entry) : State :=
  let whole := es.flatMap Entry.whole
  let s := es.foldl (fun s e =>
    match e.target with
    | .memory pa => (s.storeMem pa (bytesLE e.size e.data) false).writeDone e false
    | _ => s) s
  { s with poison := s.poison.filter (fun t => !whole.contains t) }

/-- Whether an entry is applied in one step: it is single-copy atomic, or part of a combined write (R75, R88). -/
def Entry.single (e : Entry) : Bool :=
  decide (e.whole ≠ []) || (decide (e.size = 2 ^ e.wcode ∧ e.target.base % e.size = 0) && decide (e.early = []))

/-- How many bytes of a load or store the home slice applies now: all of one that is applied in one step, and of any other as many as the device
takes (R88, R123). -/
def State.stepBytes (s : State) (e : Entry) : Nat := if e.single then e.size else min e.size (1 + Config.piece s.free % e.size)

/-- The first `n` bytes of a load at its home slice, with those that it has already taken from the L1 (R100). -/
def loadValue (s : State) (e : Entry) (pa n : Nat) : Nat :=
  natLE ((List.range n).map (fun i => (e.early.lookup i).getD (readByte s.mem (pa + i))))

/-- Whether a load would read poison in its first `n` bytes. -/
def loadPoisoned (s : State) (e : Entry) (pa n : Nat) : Bool :=
  (List.range n).any (fun i => (e.early.lookup i).isNone && s.poison.contains ((pa + i) / 32))

/-- A load applied at its home slice (R67, R100, R102): its next bytes bind, and with the last of them it is done. -/
def State.applyLoad (s : State) (e : Entry) (pa : Nat) : State :=
  let n := s.stepBytes e
  if loadPoisoned s e pa n then s.poisonAt e
  else
    let val := loadValue s e pa n
    match e.issuer with
    | .group k =>
      let s := s.touchL2 pa n false
      if n = e.size then (s.readDone e val).l1Fill e pa n
      else ((s.keepRest e n e.data).bindPart k e.res e.off val).l1Fill e pa n
    | .peer _ _ =>
      let s := s.touchL2 pa n false
      let all := e.data + val * 2 ^ (8 * e.off)
      if n = e.size then s.readDone e all else s.keepRest e n all

/-- A store applied at its home slice (R67, R75): the combined write that it belongs to at once, or its next bytes. -/
def State.applyStore (s : State) (e : Entry) (pa : Nat) : State :=
  let n := s.stepBytes e
  if n = e.size then s.applyStores (combined s e)
  else (s.storeMem pa (bytesLE n e.data) false).keepRest e n (e.data / 2 ^ (8 * n))

/-- An entry applied at the home slice of its address (R67). -/
def State.applyMem (s : State) (e : Entry) (pa : Nat) : State :=
  let bad := poisoned s.poison pa e.size
  match e.op with
  | .load => s.applyLoad e pa
  | .store => s.applyStore e pa
  | .atom op =>
    if bad then s.poisonAt e
    else
      let old := readNat s.mem pa e.size
      let (new, writes) := atomNew op e.size old e.data e.data2
      (if writes then s.storeMem pa (bytesLE e.size new) false else (s.touchL2 pa e.size false).breakResv pa e.size).readDone e old
  | .red op =>
    let mine := s.entries.filter (fun f => e.merged.contains f.id)
    let s' := if bad then s
      else
        let t := s.storeMem pa (bytesLE 4 (redNew op s.free (readNat s.mem pa 4) e.data)) false
        { t with free := s.free + 1 }
    (e :: mine).foldl (fun s f => s.writeDone f bad) s'
  | .marm x =>
    if bad then s.poisonAt e
    else
      let equal := decide (readNat s.mem pa e.size = x)
      let arm := fun (s : State) => s.addWatch pa (e.watch s.fab.pos (pa / 8))
      (match e.issuer with
      | .group k => s.applyMarm k e equal arm
      | .peer _ _ =>
        let s := s.dropOld e
        (if equal then arm s else s).readDone e (if equal then 0 else 1))
  | _ => s.removeEntry e

end Sys2Proof.Machine
end

