-- ==== Sys2Proof/Machine/Fabric.lean ====
section
/-! DEFINITION. The rotor schedule, the slot's flit times, relay credit and the choice of paths (R144 to R151). -/

namespace Sys2Proof.Machine

/-- Slots per rotation (R145). -/
def FabParams.rotation (p : FabParams) : Nat := (p.span - 1 + (p.active - 1)) / p.active

/-- The flit times of a slot, of its control share and of its tail (R146). -/
def FabParams.flits (p : FabParams) : Nat := (p.slotLen - p.guard) * 896 / (68 * p.rateDiv)
def FabParams.control (p : FabParams) : Nat := if p.flits / 512 = 0 then 1 else p.flits / 512
def FabParams.tail (p : FabParams) : Nat := if p.flits / 4096 = 0 then 1 else p.flits / 4096

/-- The most data flits of a segment (R151). -/
def FabParams.segMax (p : FabParams) : Nat :=
  let n := p.flits - p.control - p.tail - 1
  if n < 64 then n else 64

/-- The phase of a slot (R145). -/
def Fabric.phase (f : Fabric) : Nat := f.slot % f.params.rotation

/-- When the current slot starts (R147). -/
def Fabric.slotStart (f : Fabric) : Nat := f.t0 + (f.slot - f.s0) * f.params.slotLen

/-- The position at the other end of a port in the current slot (R145), fenced chips included; both ports must be lit (R142). -/
def Fabric.partner (f : Fabric) (p : Nat) : Option Nat :=
  let k := f.phase * f.params.active + p + 1
  let j := f.pos ^^^ k
  if p < f.params.active ∧ k < f.params.span ∧ f.occupied.contains j = true ∧ f.dark.contains p = false ∧
      f.farDark.contains p = false then some j else none

/-- The circuit of a port for memory traffic: a fenced chip's is absent (R163). -/
def Fabric.circuit (f : Fabric) (p : Nat) : Option Nat :=
  match f.partner p with
  | some j => if f.shut j then none else some j
  | none => none

/-- Slots from now until m has its circuit to j in a later slot (R150). -/
def Fabric.wait (f : Fabric) (m j : Nat) : Nat :=
  let l := f.params.rotation
  let d := (((m ^^^ j) - 1) / f.params.active + l - f.phase) % l
  if d = 0 then l else d

/-- The flits of one source's pool at a relay (R149): 64 MiB or 4,032 MiB over SPAN, in payloads of 64 bytes (log 23). -/
def Fabric.pool (f : Fabric) (bulk : Bool) : Nat := (if bulk then 4032 else 64) * 2 ^ 20 / f.params.span / 64

/-- Whether this chip holds credit for `n` flits at relay m (R149). -/
def Fabric.credit (f : Fabric) (bulk : Bool) (m n : Nat) : Bool :=
  decide (getKey 0 (if bulk then f.bulkDebt else f.lsDebt) m + n ≤ f.pool bulk)

/-- The better of two relays: fewer slots, and then the lower port (R150, R151). -/
def betterRelay (f : Fabric) (j : Nat) : Option (Nat × Nat) → Nat × Nat → Option (Nat × Nat)
  | none, x => some x
  | some y, x => if f.wait x.2 j < f.wait y.2 j then some x else some y

/-- The relays that a message of `n` flits to j may take now, as (port, position), by ascending port. -/
def Fabric.relays (f : Fabric) (bulk : Bool) (j n : Nat) : List (Nat × Nat) :=
  (List.range f.params.active).filterMap (fun p =>
    match f.circuit p with
    | some m => if m ≠ j ∧ m ≠ f.pos ∧ f.fenced.contains m = false ∧ j < f.params.span ∧ f.credit bulk m n = true then some (p, m) else none
    | none => none)

/-- The port of the direct circuit to j in this slot. -/
def Fabric.direct (f : Fabric) (j : Nat) : Option Nat :=
  (List.range f.params.active).find? (fun p => decide (f.circuit p = some j))

/-- The paths to j that are open now in the order of R151, as (port, VIA): the direct circuit, and then relays by their slots to the onward circuit. -/
def Fabric.openPaths (f : Fabric) (bulk : Bool) (j n : Nat) : List (Nat × Nat) :=
  let put := fun (l : List (Nat × Nat)) (x : Nat × Nat) =>
    l.filter (fun y => decide (f.wait y.2 j ≤ f.wait x.2 j)) ++ x :: l.filter (fun y => !decide (f.wait y.2 j ≤ f.wait x.2 j))
  ((f.direct j).map (fun p => (p, 0xFFFF))).toList ++ (f.relays bulk j n).foldl put []

/-- The path that a message of `n` flits to j takes now (R150, R151): its port and VIA, 0xFFFF for the direct circuit. -/
def Fabric.path (f : Fabric) (bulk direct : Bool) (j n : Nat) : Option (Nat × Nat) :=
  match f.direct j with
  | some p => some (p, 0xFFFF)
  | none => if direct then none else (f.relays bulk j n).foldl (betterRelay f j) none

/-- The path queue that an operation's next segments enter: R151's first choice in the current slot (log 24). -/
def State.bulkPath (s : State) (j : Nat) (direct : Bool) : Option Nat := (s.fab.path true direct j 65).map Prod.snd

end Sys2Proof.Machine
end

