-- ==== Sys2Proof/Machine/Compress.lean ====
section
/-! DEFINITION. The values that TILEX combines and compresses (R435, R165 to R167). -/

namespace Sys2Proof.Machine

/-! ### Combining (R435) -/

/-- A float of a format compared as FMAX and FMIN compare (R345): through f32, which holds every value of f16 and bf16. -/
def widen (fmt x : Nat) : Word := rne32 (valueOf fmt x)

/-- One element combined at its point of coherence (R435): 1 add, 2 max, 3 min. -/
def combine (fmt red old new : Nat) : Nat :=
  if red = 0 then new
  else if fmt = 9 ∨ fmt = 12 then
    let less := if fmt = 9 then signedLt 4 old new else decide (old < new)
    if red = 1 then (old + new) % 2 ^ 32 else if red = 2 then (if less then new else old) else (if less then old else new)
  else if red = 1 then roundTo fmt 0 false 0 (fAdd false (valueOf fmt old) (valueOf fmt new))
  else
    let f := if red = 2 then fmax32 else fmin32
    roundTo fmt 0 false 0 (fv (f (widen fmt old) (widen fmt new)))

/-- A decoded value added into an element (R167). -/
def addValue (fmt old : Nat) (v : FVal) : Nat := roundTo fmt 0 false 0 (fAdd false (valueOf fmt old) v)

/-! ### The code of a block (R166, R167) -/

/-- Whether |y| ≤ 6 × 2^e. -/
def withinSix (y : FVal) (e : Int) : Bool :=
  match y with
  | .num _ m x => !fLt (.num false 6 e) (.num false m x)
  | _ => false

def isInf : FVal → Bool
  | .inf _ => true
  | _ => false

/-- The shared exponent of a block's values (R166), none of them NaN. -/
def codeExp (ys : List FVal) : Int :=
  let zero := ys.all (fun y => match y with
    | .num _ m _ => decide (m = 0)
    | _ => false)
  if ys.any isInf then 127
  else if zero then 0
  else
    let es : List Int := (List.range 256).map (fun (i : Nat) => (i : Int) - 127)
    (es.find? (fun e => ys.all (fun y => withinSix y e))).getD 127

/-- A value divided by 2^e, exactly. -/
def unscale (e : Int) : FVal → FVal
  | .num neg m x => .num neg m (x - e)
  | y => y

/-- The e2m1 code of a value in its block (R166): ±6 for ±Inf. -/
def codeElem (se : Int) : FVal → Nat
  | .inf neg => if neg then 15 else 7
  | y => roundTo 5 0 false 0 (unscale se y)

/-- The value that a code and a scale code stand for (R167). -/
def blockValue (code q : Nat) : FVal :=
  if code = 0xFF then .nan else unscale (127 - (code : Int)) (valueOf 5 q)

/-- One element as the encoder leaves it: the scale code, the e2m1 code and the new feedback. -/
structure Coded where
  code : Nat
  q : Nat
  efb : Word

/-- One block encoded from its values y (R166), and whether it clips. -/
def encodeBlock (ys : List Word) : List Coded × Bool :=
  let vs := ys.map fv
  if vs.any fIsNan then (ys.map (fun _ => { code := 0xFF, q := 0, efb := 0 }), true)
  else
    let se := codeExp vs
    let code := (se + 127).toNat
    (vs.map (fun v =>
      let q := codeElem se v
      let efb := if isInf v then 0 else rne32 (fAdd false v (fNegate (blockValue code q)))
      { code := code, q := q, efb := efb }), vs.any isInf)

/-- All blocks of 32 of an operation, in element order (R165). -/
def encodeAll : Nat → List Word → List Coded × Bool
  | 0, _ => ([], false)
  | n + 1, ys =>
    if ys = [] then ([], false)
    else
      let (a, c) := encodeBlock (ys.take 32)
      let (b, d) := encodeAll n (ys.drop 32)
      (a ++ b, c || d)

/-- The data flit of one block's codes (R166). -/
def blockFlit (cs : List Coded) : List Byte :=
  let q := fun i => (cs.map Coded.q).getD i 0
  let codes := [BitVec.ofNat 8 ((cs.map Coded.code).headD 0), 0, 0]
  codes ++ (List.range 48).map (fun i => if i < 16 then BitVec.ofNat 8 (q (2 * i) + 16 * q (2 * i + 1)) else 0) ++
    List.replicate 13 0

/-- The data flits of several blocks' codes, three blocks to a flit (R166). -/
def codeFlits : Nat → List (List Coded) → List Byte
  | 0, _ => []
  | n + 1, bs =>
    let block := fun i => bs.getD i []
    let q := fun i j => ((block i).map Coded.q).getD j 0
    (List.range 3).map (fun i => BitVec.ofNat 8 (((block i).map Coded.code).headD 0)) ++
      (List.range 48).map (fun j => BitVec.ofNat 8 (q (j / 16) (2 * (j % 16)) + 16 * q (j / 16) (2 * (j % 16) + 1))) ++
      List.replicate 13 0 ++ (if 3 < bs.length then codeFlits n (bs.drop 3) else [])

/-- The scale code and e2m1 code of element e of a segment's data flits (R166). -/
def flitElem (data : List Byte) (e : Nat) : Nat × Nat :=
  let b := e / 32
  let base := b / 3 * 64
  let i := e % 32
  ((data.getD (base + b % 3) 0).toNat, (data.getD (base + 3 + 16 * (b % 3) + i / 2) 0).toNat / 16 ^ (i % 2) % 16)

end Sys2Proof.Machine
end

