-- ==== Sys2Proof/Machine/LaneMem.lean ====
section
/-! DEFINITION. Lane loads and stores in every space, acquire loads and release stores (R362 to R368). -/

namespace Sys2Proof.Machine

/-! ### Spaces, scopes and addresses (R7, R95, R307, R365) -/

/-- The space of a code of R307. -/
def spaceOf (n : Nat) : Space :=
  match n with
  | 0 => .global
  | 1 => .virt
  | 2 => .scratch
  | _ => .window

/-- The default scope of a space (R95): 1 .grp, 2 .blk, 3 .chp, 4 .grd. -/
def Space.scope : Space → Nat
  | .priv => 1
  | .scratch => 2
  | .virt => 3
  | _ => 4

/-- Whether addresses of a space have 64 bits (R7). -/
def Space.wide : Space → Bool
  | .global => true
  | .virt => true
  | _ => false

/-- What a memory word is, apart from its operands: its space, width code, scope, sides and OP (R153). -/
structure MemWord where
  space : Space
  w : Nat
  scope : Nat
  acq : Bool
  rel : Bool
  opc : Nat

def MemWord.n (m : MemWord) : Nat := 2 ^ m.w

/-- What the checks of R40 need of a memory word. -/
def MemWord.use (m : MemWord) (write atomic : Bool) : MemUse :=
  { space := m.space, n := m.n, wcode := m.w, write := write, atomic := atomic }

/-- The sources of a base operand (R365): an even pair in a 64-bit space, else one register or a channel. -/
def baseSrcs (wide : Bool) (a : Src) : List Src :=
  match a with
  | .reg r => if wide then [.reg r, .reg (r + 1)] else [a]
  | .ch _ _ => [a]

/-- The address that a base operand's values and an offset give (R7): the add wraps at the space's width. -/
def addrOf (wide : Bool) (off : Nat) (base : List Word) : Nat :=
  if wide then ((base.getD 0 0).toNat + (base.getD 1 0).toNat * 2 ^ 32 + off) % 2 ^ 64
  else ((base.getD 0 0).toNat + off) % 2 ^ 32

/-- The registers of a data group of a width (R365). -/
def dataRegs (w r : Nat) : List Nat := if w ≤ 2 then [r] else if w = 3 then [r, r + 1] else [r, r + 1, r + 2, r + 3]

/-- The sources of a data group (R365). -/
def dataSrcs (w : Nat) (a : Src) : List Src :=
  match a with
  | .reg r => (dataRegs w r).map Src.reg
  | .ch _ _ => [a]

/-- The number that the words of a data group spell, lowest register first. -/
def wordsNat : List Word → Nat
  | [] => 0
  | x :: rest => x.toNat + 2 ^ 32 * wordsNat rest

/-- The accesses of the lanes of act. -/
def accessesOf (wide : Bool) (off : Nat) (base : Nat → List Word) (act : List Nat) : List Access :=
  act.map (fun l => { lane := l, addr := addrOf wide off (base l) })

/-- The values of several sources in one lane. -/
def atLane (xs : List (Nat → Word)) (l : Nat) : List Word := xs.map (fun x => x l)

/-! ### Entries (R85, R87, R362) -/

/-- One entry for each piece of an access, lower addresses first (R87). -/
def placePieces (mk : Piece → Nat → Entry → Entry) : List Piece → Nat → State → State
  | [], _, s => s
  | p :: rest, i, s =>
    let e := baseEntry s s.iss.group
    let e := { e with target := p.target, kind := p.kind, nc := p.nc, size := p.n, off := p.off, sub := i }
    placePieces mk rest (i + 1) (s.placeEntry (mk p i e))

/-- Whether a piece goes to another chip. -/
def Piece.remote (p : Piece) : Bool :=
  match p.target with
  | .remote _ _ _ => true
  | _ => false

/-- What an entry of a memory word has from the word. -/
def MemWord.fill (m : MemWord) (lane : Option Nat) (addr : Nat) (e : Entry) : Entry :=
  { e with lane := lane, addr := addr, priv := decide (m.space = .priv), scope := m.scope, dscope := m.space.scope,
           acq := m.acq, rel := m.rel, wcode := m.w, opc := m.opc }

/-- A result is pending for the word being issued (R323, R364). -/
def State.addResult (s : State) (dst : ResDst) (width left : Nat) : State :=
  let r : PendRes := { id := s.nextId, dst := dst, width := width, left := left, value := 0 }
  s.fresh.setGroup s.iss.group { s.issuing with results := s.issuing.results ++ [r] }

/-- A lane waits for a reply of another chip (R172): its PC has moved on. -/
def State.parkLane (s : State) (l : Nat) : State :=
  s.setGroup s.iss.group (s.issuing.setLane l { s.issuing.lane l with st := .parked })

/-- Where the result of a lane goes (R364): its registers, or for a push the lowest lane's value. -/
def resultDst (d : Dst) (w lowest l : Nat) : ResDst :=
  match d with
  | .reg r => .lane l (dataRegs w r)
  | .push k => if l = lowest then .push k else .discard

/-- The push of a word's result, which waits for its value (R364). -/
def placeResultPush (dst : ResDst) (id : Nat) (s : State) : State :=
  match dst with
  | .push ch => s.placeEntry (pushEntry s ch 0 (some id))
  | _ => s

/-- The returning entries of a word, lane by lane in ascending order: a result, its push, the pieces, and PARKED for a lane whose
access goes to another chip (R362 step 4, R364, R172). -/
def placeReads (m : MemWord) (u : MemUse) (d : Dst) (lowest : Nat) (op : Nat → EntOp) (data data2 : Nat → Nat) :
    List Access → State → State
  | [], s => s
  | x :: rest, s =>
    let k := s.iss.group
    let ps := piecesOf s k s.issuingBlock u x
    let id := s.nextId
    let dst := resultDst d m.w lowest x.lane
    let s := placeResultPush dst id (s.addResult dst m.n ps.length)
    let s := placePieces (fun _ _ e =>
      { m.fill (some x.lane) x.addr e with op := op x.lane, res := some id, data := data x.lane, data2 := data2 x.lane }) ps 0 s
    let s := if ps.any Piece.remote then s.parkLane x.lane else s
    placeReads m u d lowest op data data2 rest s

/-- The bytes of this chip's memory that pieces write. -/
def localRanges (ps : List Piece) : List (Nat × Nat) :=
  ps.filterMap (fun p =>
    match p.target with
    | .memory pa => some (pa, p.n)
    | _ => none)

/-- The sectors that byte ranges together cover whole (R75). -/
def wholeSectors (rs : List (Nat × Nat)) : List Nat :=
  ((rs.flatMap (fun r => sectorsOf r.1 r.2)).foldl addSorted []).filter (fun t =>
    (List.range 32).all (fun i => rs.any (fun r => decide (r.1 ≤ t * 32 + i) && decide (t * 32 + i < r.1 + r.2))))

/-- The sectors of a set that a piece writes. -/
def pieceSectors (whole : List Nat) (p : Piece) : List Nat :=
  match p.target with
  | .memory pa => (sectorsOf pa p.n).filter (fun t => whole.contains t)
  | _ => []

/-- The store entries of a word, lane by lane in ascending order (R362 step 4). -/
def placeStores (m : MemWord) (u : MemUse) (op : EntOp) (whole : List Nat) (data : Nat → Nat) : List Access → State → State
  | [], s => s
  | x :: rest, s =>
    let ps := piecesOf s s.iss.group s.issuingBlock u x
    let s := placePieces (fun p _ e =>
      { m.fill (some x.lane) x.addr e with
        op := op, data := data x.lane / 2 ^ (8 * p.off) % 2 ^ (8 * p.n), whole := pieceSectors whole p }) ps 0 s
    placeStores m u op whole data rest s

/-- The instruction's entries are all placed: the group's next instruction stands after them (R85). -/
def State.endInstr (s : State) : State := s.nextInstr s.iss.group

/-! ### Loads and stores (R366, R368) -/

/-- A zeroing guard's writes to a register group (R315). -/
def zeroGroup (d : Dst) (w : Nat) (act : List Nat) (s : State) : State :=
  match d with
  | .reg r =>
    s.setGroup s.iss.group ((dataRegs w r).foldl (fun g i => putZeros s.clock i (zeroLanes s act) g) s.issuing)
  | .push _ => s

/-- The allowance of a push destination, taken at issue (R362 step 4). -/
def takePush (d : Dst) (s : State) : State :=
  match d with
  | .reg _ => s
  | .push k => takeAllowance k s

/-- What a word that loads into a register group reads and writes. -/
def loadUses (d : Dst) (w : Nat) (srcs : List Src) (act : List Nat) : Uses :=
  { laneUses d srcs act with writeV := match d with
      | .reg r => act.flatMap (fun l => (dataRegs w r).map (fun i => (i, l)))
      | .push _ => [] }

/-- What a word that only reads lane registers reads. -/
def storeUses (srcs : List Src) (act : List Nat) : Uses :=
  { noUses with readV := srcs.flatMap (fun a => srcRegs a act), chans := srcs.flatMap srcUse }

/-- A load word (R362, R366). -/
def loadWord (m : MemWord) (d : Dst) (a : Src) (off : Nat) (s : State) : Out :=
  let srcs := baseSrcs m.space.wide a
  laneGate accPlain (loadUses d m.w srcs) (fun act s =>
    if act = [] then .next ((zeroGroup d m.w [] s).advance)
    else
      let (xs, s') := readSrcs 0 srcs s
      let u := m.use false false
      let as := accessesOf m.space.wide off (atLane xs) act
      memGate false u true as (fun _ =>
        let s' := placeReads m u d (act.headD 0) (fun _ => .load) (fun _ => 0) (fun _ => 0) as (takePush d s')
        .next ((zeroGroup d m.w act s'.endInstr).advance)) s) s

/-- A store word (R362, R366). -/
def storeWord (m : MemWord) (v a : Src) (off : Nat) (s : State) : Out :=
  let bs := baseSrcs m.space.wide a
  let srcs := bs ++ dataSrcs m.w v
  laneGate accStore (storeUses srcs) (fun act s =>
    if act = [] then .next s.advance
    else
      let (xs, s') := readSrcs 0 srcs s
      let u := m.use true false
      let as := accessesOf m.space.wide off (fun l => (atLane xs l).take bs.length) act
      memGate false u false as (fun _ =>
        let data := fun l => wordsNat ((atLane xs l).drop bs.length) % 2 ^ (8 * m.n)
        let whole := wholeSectors (localRanges (as.flatMap (piecesOf s s.iss.group s.issuingBlock u)))
        .next ((placeStores m u .store whole data as s').endInstr.advance)) s) s

/-- A plain memory word of a space. -/
def plainWord (space : Space) (w opc : Nat) : MemWord :=
  { space := space, w := w, scope := space.scope, acq := false, rel := false, opc := opc }

def execLdl (d : Dst) (a : Src) (w imm : Nat) (s : State) : Out := loadWord (plainWord .virt w 0x48) d a (imm * 2 ^ w) s

def execStl (v a : Src) (w imm : Nat) (s : State) : Out := storeWord (plainWord .virt w 0x49) v a (imm * 2 ^ w) s

def execLdg (d : Dst) (a : Src) (w imm : Nat) (s : State) : Out := loadWord (plainWord .global w 0x4A) d a (imm * 2 ^ w) s

def execStg (v a : Src) (w imm : Nat) (s : State) : Out := storeWord (plainWord .global w 0x4B) v a (imm * 2 ^ w) s

def execLds (d : Dst) (a : Src) (w imm : Nat) (s : State) : Out := loadWord (plainWord .scratch w 0x4C) d a (imm * 2 ^ w) s

def execSts (v a : Src) (w imm : Nat) (s : State) : Out := storeWord (plainWord .scratch w 0x4D) v a (imm * 2 ^ w) s

def execLdw (d : Dst) (a : Src) (w imm : Nat) (s : State) : Out := loadWord (plainWord .window w 0x4E) d a (imm * 2 ^ w) s

def execStw (v a : Src) (w imm : Nat) (s : State) : Out := storeWord (plainWord .window w 0x4F) v a (imm * 2 ^ w) s

def execLdp (d : Dst) (a : Src) (w imm : Nat) (s : State) : Out := loadWord (plainWord .priv w 0x50) d a (imm * 2 ^ w) s

def execStp (v a : Src) (w imm : Nat) (s : State) : Out := storeWord (plainWord .priv w 0x51) v a (imm * 2 ^ w) s

/-- LDA (R368): a load with an acquire side at the named scope. -/
def execLda (d : Dst) (a : Src) (w space scope : Nat) (s : State) : Out :=
  loadWord { plainWord (spaceOf space) w 0x53 with scope := scope, acq := true } d a 0 s

/-- STR (R368): a store with a release side at the named scope. -/
def execStr (v a : Src) (w space scope : Nat) (s : State) : Out :=
  storeWord { plainWord (spaceOf space) w 0x54 with scope := scope, rel := true } v a 0 s

/-! ### The constant bank (R25) -/

/-- The condition that a constant-bank address raises: misaligned, beyond 64 KiB, or a poisoned sector of the chip's copy (R9, R25, R76). -/
def bankCond (p : GridPrep) (n a : Nat) : Option Cond :=
  if a % n ≠ 0 then some { order := 1, code := tMisaligned }
  else if 2 ^ 16 ≤ a then some { order := 2, code := tProtection }
  else if poisoned p.bankBad a n then some { order := 7, code := tPoison } else none

/-- A register group of a lane written at once. -/
def putGroup (clock lat : Nat) (l value : Nat) : List Nat → Nat → Group → Group
  | [], _, g => g
  | r :: rest, i, g => putGroup clock lat l value rest (i + 1) (g.putV clock lat r l (BitVec.ofNat 32 (value / 2 ^ (32 * i))))

/-- The results of a word whose values are known at issue, written at once (log 14). -/
def putWide (d : Dst) (w : Nat) (act : List Nat) (val : Nat → Nat) (s : State) : State :=
  match d with
  | .reg r => s.setGroup s.iss.group (act.foldl (fun g l => putGroup s.clock 0 l (val l) (dataRegs w r) 0 g) s.issuing)
  | .push k =>
    match act with
    | [] => s
    | l :: _ => placePush k (BitVec.ofNat 32 (val l)) (takeAllowance k s)

/-- LDC (R25, R366): its accesses are ordered against nothing (R89). -/
def execLdc (d : Dst) (a : Src) (w imm : Nat) (s : State) : Out :=
  laneGate accPlain (loadUses d w [a]) (fun act s =>
    if act = [] then .next ((zeroGroup d w [] s).advance)
    else
      let (xs, s') := readSrcs 0 [a] s
      let as := accessesOf false (imm * 2 ^ w) (atLane xs) act
      let bad := condsOf (fun x => bankCond (s.grid s.issuingBlock.grid) (2 ^ w) x.addr) as
      match minOrder (bad.map (fun p => (p.1.lane, p.2))) with
      | some c =>
        (match reportOf c bad with
        | .trap code lanes lane addr =>
          raise (s.wordTrap code (BitVec.ofNat 64 lanes) lane (BitVec.ofNat 64 addr) w 0 false) s
        | _ => .next s)
      | none =>
        let bank := (s.grid s.issuingBlock.grid).bank
        let val := fun l => readNat bank (addrOf false (imm * 2 ^ w) (atLane xs l)) (2 ^ w)
        .next ((zeroGroup d w act (putWide d w act val s')).advance)) s

end Sys2Proof.Machine
end

