-- ==== Sys2Proof/Machine/LaneSummary.lean ====
section
/-! DEFINITION. Summary inserts of the lanes (R374). -/

namespace Sys2Proof.Machine

/-- A check of a word that reports all lanes of act at one address (R41). -/
def trapAct (code : Nat) (act : List Nat) (addr : Nat) (s : State) : Out :=
  raise (s.wordTrap code (maskOf act) (act.headD 0) (BitVec.ofNat 64 addr) 0 0 false) s

/-- The one entry of an insert (R374, R120): RC at .blk with neither side; `data2` holds the lanes of act. -/
def placeInsert (kind : SkKind) (off opc : Nat) (act : List Nat) (vals : List Word) (s : State) : State :=
  let e := baseEntry s s.iss.group
  (s.placeEntry { e with
    lane := some (act.headD 0), op := .insert kind vals, target := .bank s.issuing.block off, addr := off,
    size := kind.size, data2 := (maskOf act).toNat, opc := opc }).endInstr

/-- An insert word (R374): the object's offset from the lowest lane of act, its checks, and one entry. The check of the
object waits for the group's earlier accesses to it (log 20). -/
def insertWord (kind : SkKind) (opc : Nat) (a b : Src) (s : State) : Out :=
  laneGate accPlain (storeUses [a, b]) (fun act s =>
    if act = [] then .next s.advance
    else
      let (xs, s') := readSrcs 0 [a, b] s
      let o := ((xs.getD 1 (fun _ => 0)) (act.headD 0)).toNat
      let blk := s.issuingBlock
      if o % 64 ≠ 0 then trapAct tMisaligned act o s
      else if o < 0x300 ∨ blk.scr < o + kind.size then trapAct tProtection act o s
      else if bankBusy s s.issuing.block o kind.size then hold .store s
      else if poisoned blk.spadBad o kind.size then trapAct tPoison act o s
      else
        let obj := readBytes blk.spad o kind.size
        let vals := act.map (xs.headD (fun _ => 0))
        if wellFormed kind obj && (skInsert kind obj vals).isSome then
          .next ((placeInsert kind o opc act vals s').advance)
        else trapAct tSummary act o s) s

def execSkq (a b : Src) (s : State) : Out := insertWord .qsk 0x6B a b s

def execSkh (a b : Src) (s : State) : Out := insertWord .hhl 0x6C a b s

def execSkd (a b : Src) (s : State) : Out := insertWord .dcr 0x6D a b s

def execSka (a b : Src) (s : State) : Out := insertWord .amx 0x6E a b s

end Sys2Proof.Machine
end

