-- ==== Sys2Proof/Machine/Fetch.lean ====
section
/-! DEFINITION. The code segment of a group (R328, R31), the release of a JOIN (R172, R178), and the check of the
converged-only words (R179). -/

namespace Sys2Proof.Machine

/-! ### Code (R230, R328) -/

/-- The virtual address of a code offset of a group. -/
def codeVa (s : State) (k : Nat) (pc : Word) : Nat := (s.grid (s.block (s.group k).block).grid).codeBase + pc.toNat

/-- Whether a code offset lies in the code segment (R328). -/
def inCode (s : State) (k : Nat) (pc : Word) : Bool :=
  decide (pc.toNat + 4 ≤ (s.grid (s.block (s.group k).block).grid).codeLen)

/-- The word at a physical address of code. -/
def wordAt (s : State) (pa : Nat) : Word := BitVec.ofNat 32 (readNat s.mem pa 4)

/-- The word at a code offset, without a walk's effects; none where it cannot be read. -/
def codeWord (s : State) (k : Nat) (pc : Word) : Option Word :=
  let ctx := (s.block (s.group k).block).ctx
  let va := codeVa s k pc
  if inCode s k pc then
    match s.look k ctx va false true with
    | .hit e => some (wordAt s (e.pa + (va - e.va)))
    | _ =>
      match s.walkVa ctx va with
      | .inl l => some (wordAt s (l.pa + va % 2 ^ l.bits))
      | .inr _ => none
  else none

/-- Whether a word is a PFX (R309, R312). -/
def isPfxWord (w : Word) : Bool := decide (w.toNat / 2 ^ 24 = 0)

/-! ### JOIN (R172, R178) -/

/-- The PCs of lanes, without repetition. -/
def pcsOf (g : Group) (ls : List Nat) : List Nat := (ls.map (fun l => (g.lane l).pc.toNat)).foldl addSorted []

/-- The trap of R178 at the lowest PC that holds lanes, for the lanes held there. -/
def stuckTrap (s : State) (k : Nat) (p : Word) : TrapInfo :=
  let g := s.group k
  let held := g.liveLanes.filter (fun l => (g.lane l).pc = p)
  let w := (codeWord s k p).getD 0x70000000
  let pair := isPfxWord w
  { code := tNotConverged, indeterminate := false, uniform := false, async := false, prefixed := pair, pc := p,
    lanes := maskOf held, addr := 0, lane := held.headD 0, widthc := 0,
    word := if pair then (codeWord s k (p + 4)).getD 0x70000000 else w, pfxWord := if pair then w else 0, aux := 0 }

/-- When every live lane is HELD: a release if they stand at one PC, past the JOIN and the PFX before it (R172, R378);
NOT_CONVERGED if they stand at several (R178). -/
def State.joinCheck (s : State) (k : Nat) : State :=
  let g := s.group k
  let live := g.liveLanes
  if live = [] ∨ live.any (fun l => decide ((g.lane l).st ≠ .held)) then s
  else
    match pcsOf g live with
    | [] => s
    | [p] =>
      let pc : Word := BitVec.ofNat 32 p
      let n : Word := if ((codeWord s k pc).map isPfxWord).getD false then 8 else 4
      s.setGroup k (g.mapLanes (fun _ x => { x with pc := pc + n, st := .run }) live)
    | p :: _ =>
      let t := stuckTrap s k (BitVec.ofNat 32 p)
      (s.setGroup k { g with sync := some t }).boundaryTrap k

/-! ### Converged-only words (R179) -/

/-- A converged-only word issues only with every live lane RUN at its PC (R179). -/
def converged (uniform : Bool) (body : State → Out) (s : State) : Out :=
  let g := s.issuing
  let live := g.liveLanes
  if live.all (fun l => decide ((g.lane l).st = .run ∧ (g.lane l).pc = s.iss.pc)) then body s
  else if live.any (fun l => decide ((g.lane l).st = .held) || (s.iss.pc).ult (g.lane l).pc) then
    trapSel tNotConverged uniform 0 0 s
  else hold .lowerLanes s

end Sys2Proof.Machine
end

