-- ==== Sys2Proof/Machine/LaneOb.lean ====
section
/-! DEFINITION. The operand buffer as the words see it: reservations (R61, R423, R425), and OBLD and OBST (R375, R376). -/

namespace Sys2Proof.Machine

/-- A handle that the block holds (R425). -/
def Block.handle (b : Block) (k : Nat) : Option ObHandle := findKey b.handles k

/-- The first byte of a reservation in the block's part of the operand buffer (R61, log 13). -/
def ObHandle.base (h : ObHandle) : Nat := h.start * 4096

/-- Its length (R425). -/
def ObHandle.length (h : ObHandle) : Nat := h.gran * 4096

/-- The accesses that raise a condition, reported as R41 gives: the lanes, the lowest lane and its address. -/
def trapAccesses (code w : Nat) (bad : List Access) (s : State) : Out :=
  raise (s.wordTrap code (maskOf (bad.map Access.lane)) ((bad.map Access.lane).headD 0)
    (BitVec.ofNat 64 ((bad.map Access.addr).headD 0)) w 0 false) s

/-- The checks of OBLD and OBST over every lane (R376), and then the body with the reservation's base. -/
def obChecks (h n w : Nat) (as : List Access) (body : ObHandle → State → Out) (s : State) : Out :=
  let mis := as.filter (fun x => decide (x.addr % n ≠ 0))
  if mis ≠ [] then trapAccesses tMisaligned w mis s
  else
    match s.issuingBlock.handle h with
    | none => trapAccesses tObRecord w as s
    | some r =>
      let out := as.filter (fun x => decide (r.length < x.addr + n))
      if out ≠ [] then trapAccesses tObRecord w out s else body r s

/-- The bytes that an OBLD writes, by their offsets in the reservation: where lanes overlap, the highest lane's (R376). -/
def obBytes (n : Nat) (data : Nat → Nat) (as : List Access) : List (Nat × Byte) :=
  as.foldl (fun m x => (bytesLE n (data x.lane)).zipIdx.foldl (fun m b => insKey m (x.addr + b.2) b.1) m) []

/-- The entry of an OBLD at .blk (R376), and the mark that holds its group until every byte is written; a group issues nothing before that. -/
def placeObld (h n : Nat) (data : Nat → Nat) (as : List Access) (s : State) : State :=
  let id := s.nextId
  (s.addResult .ob 0 1).placeEntry { baseEntry s s.iss.group with
    op := .obld h (obBytes n data as), target := .bank s.issuing.block 0, res := some id, scope := 2, dscope := 2,
    whole := wholeSectors (as.map (fun x => (x.addr, n))) }

def execObld (v a : Src) (w h : Nat) (s : State) : Out :=
  if !pfxOk accStore s.iss.pfx then illegal s
  else
    converged false (fun s =>
      let srcs := a :: dataSrcs w v
      laneGate accStore (storeUses srcs) (fun act s =>
        if act = [] then .next s.advance
        else
          let (xs, s') := readSrcs 0 srcs s
          let as := accessesOf false 0 (fun l => (atLane xs l).take 1) act
          obChecks h (2 ^ w) w as (fun _ _ =>
            let data := fun l => wordsNat ((atLane xs l).drop 1) % 2 ^ (8 * 2 ^ w)
            .next ((placeObld h (2 ^ w) data as s').advance)) s) s) s

/-- The lanes' accesses that read a poisoned sector of the operand buffer. -/
def obPoisoned (b : Block) (base n : Nat) (as : List Access) : List Access :=
  as.filter (fun x => poisoned b.obBad (base + x.addr) n)

/-- OBST's read-path error (R376, R62): POISON for the lowest lane, whose sector becomes poisoned. -/
def obReadError (base n w : Nat) (as : List Access) (s : State) : Out :=
  let g := s.issuing
  let b := s.issuingBlock
  let hit := (sectorsOf (base + (as.map Access.addr).headD 0) n).headD 0
  let s := s.setGroup s.iss.group { g with bad := g.bad.filter (fun x => decide (x ≠ BadReg.obRead)) }
  let s := s.setBlock g.block { b with obBad := addSorted b.obBad hit }
  trapAccesses tPoison w (as.take 1) s

def execObst (d : Dst) (a : Src) (w h : Nat) (s : State) : Out :=
  if !pfxOk accPlain s.iss.pfx then illegal s
  else
    converged false (fun s =>
      laneGate accPlain (loadUses d w [a]) (fun act s =>
        if act = [] then .next ((zeroGroup d w [] s).advance)
        else
          let (xs, s') := readSrcs 0 [a] s
          let as := accessesOf false 0 (atLane xs) act
          obChecks h (2 ^ w) w as (fun r s =>
            let b := s.issuingBlock
            let bad := obPoisoned b r.base (2 ^ w) as
            if bad ≠ [] then trapAccesses tPoison w bad s
            else if s.issuing.bad.contains .obRead then obReadError r.base (2 ^ w) w as s
            else
              let val := fun l => readNat b.ob (r.base + addrOf false 0 (atLane xs l)) (2 ^ w)
              .next ((zeroGroup d w act (putWide d w act val s')).advance)) s) s) s

end Sys2Proof.Machine
end

