-- ==== Sys2Proof/Machine/LaneCtl.lean ====
section
/-! DEFINITION. The prefix word and lane control: PFX, BRA, JOIN, EXIT and BRX (R312, R377 to R380). -/

namespace Sys2Proof.Machine

/-- The issued lanes stand each at a PC of its own. -/
def State.moveLanes (s : State) (f : Nat → Word) : State :=
  let g := s.issuing.mapLanes (fun l x => { x with pc := f l }) s.iss.sel
  { s.setGroup s.iss.group { g with waiting := .nothing, arrived := false, stuck := none } with iss := { s.iss with issued := true } }

/-- PFX (R312): its fields are latched for the word that follows; a second PFX traps (R326). -/
def execPfx (p : Pfx) (s : State) : Out :=
  if s.iss.pfx.isSome then illegal s
  else .next { s with iss := { s.iss with pfx := some p, pfxWord := s.iss.word } }

/-- Where a word offset leads from a PC. -/
def branchTo (pc : Word) (off : Word) : Word := pc + off * 4

/-- BRA (R377): its guard is its own, and no prefix may stand before it (R309). -/
def execBra (m : Nat) (neg : Bool) (off : BitVec 16) (s : State) : Out :=
  if s.iss.pfx.isSome then illegal s
  else
    let uses : Uses := { noUses with readM := if m = 0 then [] else s.iss.sel.map (fun l => (m, l)) }
    gate false false uses (fun s =>
      let g := readM s s.issuing 15 m
      let g := if neg then ~~~g else g
      .next (s.moveLanes (fun l => if g.getLsbD l then branchTo s.iss.pc (off.signExtend 32) else s.iss.pc + 4))) s

/-- A word that accepts only an all-zero prefix (R313). -/
def accNone : Accept := { guard := false, z := false, rnd := false, vc := false, space := false, order := 0, sat := false }

/-- JOIN (R378): the issued lanes are held, and released when every live lane is. -/
def execJoin (s : State) : Out :=
  if pfxOk accNone s.iss.pfx then
    let k := s.iss.group
    let g := s.issuing.mapLanes (fun _ x => { x with st := .held }) s.iss.sel
    let s := s.setGroup k { g with waiting := .nothing, arrived := false, stuck := none }
    .next ({ s with iss := { s.iss with issued := true } }.joinCheck k)
  else illegal s

/-- The slices of a group whose 16 lanes have all exited (R181). -/
def Group.goneSlices (g : Group) : Nat :=
  ((List.range 4).filter (fun i => (List.range 16).all (fun j => !g.live (16 * i + j)))).length

/-- A shrinkable block counts the slices that its lanes have just left (R50, R181, R213). -/
def State.returnSlices (s : State) (k before : Nat) : State :=
  let g := s.group k
  let b := s.block g.block
  if (s.gridRow b.grid).flags / 4 % 2 = 1 then s.setBlock g.block { b with shrunk := b.shrunk + (g.goneSlices - before) }
  else s

/-- EXIT (R379): the lanes of act are EXITED, the others move on. -/
def execExit (s : State) : Out :=
  laneGate accStore (fun _ => noUses) (fun act s =>
    let k := s.iss.group
    let before := s.issuing.goneSlices
    let s := s.advance
    let s := s.setGroup k (s.issuing.mapLanes (fun _ x => { x with pc := s.iss.pc, st := .exited }) act)
    .next ((s.returnSlices k before).joinCheck k)) s

/-- BRX (R380): each lane of act goes to the offset in its own register. -/
def execBrx (a : Src) (s : State) : Out :=
  laneGate accStore (storeUses [a]) (fun act s =>
    if act = [] then .next s.advance
    else
      let (xs, s') := readSrcs 0 [a] s
      let t := xs.headD (fun _ => 0)
      let bad := act.filter (fun l => decide ((t l).toNat % 4 ≠ 0))
      if bad ≠ [] then
        raise (s.wordTrap tMisaligned (maskOf bad) (bad.headD 0) 0 0 0 false) s
      else .next (s'.moveLanes (fun l => if act.contains l then t l else s.iss.pc + s.iss.size))) s

end Sys2Proof.Machine
end

