-- ==== Sys2Proof/Machine/Blocks.lean ====
section
/-! DEFINITION. What the control cores do for a block and a grid on this chip: their memory accesses in a context, the
completion records (R233), the checks before a SUBMIT (R229 to R231, R246), the departure from a gang (R16, R18, R191),
and the release, saving and thawing of a block (R182, R243, R245). -/

namespace Sys2Proof.Machine

/-! ### Accesses of the control cores in a context -/

/-- The walker sets A, and D for a write, in a leaf's entry (R32). -/
def State.markLeaf (s : State) (l : Leaf) (write : Bool) : State :=
  let raw := Nat.lor l.raw (if write then 0x180 else 0x080)
  if raw = l.raw then s else s.storeMem l.entry (bytesLE 8 raw) false

/-- The leaf and physical address behind `n` bytes of a context's local virtual address that lie in one page; none
where an access faults. -/
def State.ctlAddr (s : State) (ctx va n : Nat) (write : Bool) : Option (Leaf × Nat) :=
  if 2 ^ 56 < va + n ∨ (s.ctxDesc ctx).state ≠ 1 then none
  else
    match s.walkVa ctx va with
    | .inl l =>
      let off := va % 2 ^ l.bits
      if l.allows write false = none ∧ off + n ≤ 2 ^ l.bits then some (l, l.pa + off) else none
    | .inr _ => none

/-- Bytes read in a context; none for a fault or a poisoned sector. -/
def State.ctlRead (s : State) (ctx va n : Nat) : Option (List Byte) :=
  match s.ctlAddr ctx va n false with
  | some (_, pa) => if poisoned s.poison pa n then none else some (readBytes s.mem pa n)
  | none => none

/-- Bytes written in a context; none for a fault. -/
def State.ctlWrite (s : State) (ctx va : Nat) (bytes : List Byte) : Option State :=
  match s.ctlAddr ctx va bytes.length true with
  | some (l, pa) => some ((s.markLeaf l true).storeMem pa bytes false)
  | none => none

/-! ### Completion records (R233) -/

/-- What a completion record says; a field that its case does not give is left as it is. -/
structure Completion where
  status : Nat
  reason : Nat
  grid : Option Nat
  round : Option Nat
  packet : Option Nat

/-- The fields that a record writes before STATUS, by offset. -/
def Completion.fields (c : Completion) : List (Nat × List Byte) :=
  [(1, bytesLE 1 c.reason)] ++ (c.grid.map (fun g => (2, bytesLE 2 g))).toList ++
  (c.round.map (fun r => (8, bytesLE 8 r))).toList ++ (c.packet.map (fun p => (16, bytesLE 8 p))).toList

/-- A completion record written, STATUS last (R233); one that cannot be written is logged (R405). One at an address that is no multiple of 32, for which the
spec gives no outcome, is written where it lies, within one page (log 109). -/
def State.complete (s : State) (ctx addr : Nat) (c : Completion) : State :=
  if addr = 0 then s
  else
    match s.ctlAddr ctx addr 32 true with
    | some (l, pa) =>
      let s := c.fields.foldl (fun s f => s.storeMem (pa + f.1) f.2 false) (s.markLeaf l true)
      s.storeMem pa (bytesLE 1 c.status) false
    | none => s.logError (.completionRecord ctx addr)

/-! ### A submission (R229, R231, R246, R462) -/

/-- A SUBMIT payload: bytes 16 to 63 of the event (R202). -/
abbrev Payload := List Byte

/-- A field of a payload at its offset in the event record. -/
def subField (p : Payload) (o n : Nat) : Nat := recNat p (o - 16) n

/-- The bytes that one save slot needs (R246). -/
def saveNeed (groups regs scr obg : Nat) : Nat :=
  256 + groups * 2048 + groups * ((regs + 7) / 8 * 8) * 256 + scr * 1024 + obg * 4096

/-- Checks 2 to 8 of R231 on a descriptor's bytes. -/
def descriptorOk (d : List Byte) : Bool :=
  zeroBytes d 36 4 && zeroBytes d 56 8 && decide (recNat d 0 8 % 65536 = 0) &&
  decide (recNat d 8 4 % 4 = 0 ∧ 4 ≤ recNat d 8 4) && decide (recNat d 12 4 % 4 = 0 ∧ recNat d 12 4 < recNat d 8 4) &&
  decide (recNat d 16 8 % 64 = 0) && decide (recNat d 24 8 % 16 = 0) &&
  decide (recNat d 32 4 % 16 = 0 ∧ recNat d 32 4 ≤ 65536) && decide (recNat d 48 8 % 4096 = 0)

/-- The REASON for which the submitting chip refuses a payload, in the order of R462. -/
def submitRefusal (s : State) (p : Payload) : Option Nat :=
  let ctx := subField p 16 2
  let desc := subField p 40 8
  if (s.ctxDesc ctx).state ≠ 1 then some 3
  else
    match (if desc % 64 = 0 then s.ctlRead ctx desc 64 else none) with
    | none => some 8
    | some d =>
      if !descriptorOk d then some 8
      else if recNat d 48 8 < saveNeed (subField p 21 1) (subField p 22 1) (subField p 24 2) (subField p 23 1) then some 7
      else none

/-- A SUBMIT contributed, or its refusal written without an event (R231, R236, R405). -/
def State.submit (s : State) (p : Payload) (packet : Nat) : State :=
  match submitRefusal s p with
  | some r =>
    s.complete (subField p 16 2) (subField p 56 8)
      { status := 2, reason := r, grid := none, round := none, packet := some packet }
  | none =>
    let e : EvRec := { typ := 0x0001, origin := s.fab.pos, seq := s.duc.nextEvSeq, round := 0, body := sliceBytes p 0 48 }
    { s with duc := { s.duc with pendEvents := s.duc.pendEvents ++ [e], nextEvSeq := s.duc.nextEvSeq + 1 } }

/-! ### Gangs (R16, R18, R190, R191) -/

/-- The residents of a gang on this chip: the blocks of a grid and gang number (R200). -/
def State.gangBlocks (s : State) (grid gang : Nat) : List (Nat × Block) :=
  s.blocks.filter (fun p => decide (p.2.resident = true ∧ p.2.grid = grid ∧ p.2.blockId / p.2.gsz = gang))

/-- The presence bit of a member changed in one block (R16). -/
def Block.setPresence (b : Block) (i : Nat) (f : Member → Member) : Block :=
  match findKey b.members i with
  | some m => { b with members := insKey b.members i (f m) }
  | none => b

/-- A departure notice of a member reaches a block of its gang (R16). -/
def Block.noteDeparted (b : Block) (i : Nat) : Block := b.setPresence i (fun m => { m with present := false, departed := true })

/-- A notice on the win flow (R18, R190, R153): 0xF6 attach, 0xF7 departure. -/
def noticeMsg (s : State) (b : Block) (op dst : Nat) : LsMsg :=
  { flow := 2, op := op, src := s.fab.pos, dst := dst, width := 0, scope := 0, order := 0, cgen := s.cgen b.ctx,
    ctx := b.ctx, tag := 0, seq := 0, addr := 0, data := BitVec.ofNat 128 (b.grid + b.gangIdx * 2 ^ 16),
    data2 := BitVec.ofNat 128 (routeWord 0 b.grid b.blockId true) }

/-- A notice to every other member of the gang: on this chip at once (a member still to be placed here learns it as it is placed), to
another chip on the win flow; the departing member waits for the answers of the others (R18). -/
def State.notify (s : State) (bk : Nat) (op : Nat) (f : Block → Nat → Block) : State :=
  let b := s.block bk
  let peers := b.members.filter (fun p => decide (p.1 ≠ b.gangIdx ∧ p.2.departed = false))
  peers.foldl (fun s p =>
    if p.2.pos = s.fab.pos then (if (s.block p.2.block).resident then s.setBlock p.2.block (f (s.block p.2.block) b.gangIdx) else s)
    else s.enterFlow (noticeMsg s b op p.2.pos)) s

/-- The block counts as departed at its own core once every peer has answered; ctl1 then reports it (R18, R202). -/
def State.departDone (s : State) (bk : Nat) : State :=
  let b := s.block bk
  if b.departed ∧ b.acks = [] ∧ 1 < b.gsz then
    s.contribute 0x0002 [(16, 2, b.grid), (18, 1, 1), (20, 4, b.blockId), (24, 2, b.ctx)]
  else s

/-- The whole block departs from its gang window (R191); a second departure sends nothing. -/
def State.depart (s : State) (bk : Nat) : State :=
  let b := s.block bk
  if b.departed then s
  else
    let away := (b.members.filter (fun p => decide (p.1 ≠ b.gangIdx ∧ p.2.departed = false ∧ p.2.pos ≠ s.fab.pos))).map Prod.fst
    let s := s.notify bk 0xF7 Block.noteDeparted
    let b := s.block bk
    (s.setBlock bk { b with departed := true, acks := away }).departDone bk

/-- Whether a member may begin: every member that has not departed is present (R190, R194). -/
def Block.attached (b : Block) : Bool :=
  decide (b.gsz ≤ 1) || b.departed || b.members.all (fun p => decide (p.1 = b.gangIdx) || p.2.present || p.2.departed)

/-- The block attaches to its gang: its own bit, and notices to the others (R190, R193). -/
def State.attach (s : State) (bk : Nat) : State :=
  let b := s.block bk
  if b.gsz ≤ 1 ∨ b.departed then s
  else
    let s := s.notify bk 0xF6 (fun b i => b.setPresence i (fun m => { m with present := true }))
    s.setBlock bk ((s.block bk).setPresence b.gangIdx (fun m => { m with present := true }))

/-! ### The end of a block on this chip (R182, R243) -/

/-- The INDEX of a block's unit (R200). -/
def unitIndex (s : State) (b : Block) : Nat := if (s.gridRow b.grid).flags % 2 = 1 then b.blockId / b.gsz else b.blockId

/-- The blocks of a unit that are resident on this chip. -/
def State.unitBlocks (s : State) (grid index : Nat) : List (Nat × Block) :=
  s.blocks.filter (fun p => decide (p.2.resident = true ∧ p.2.grid = grid ∧ unitIndex s p.2 = index))

/-- A block key that no block has: 256 cores have 8,192 group slots. -/
def noBlock : Nat := 8192

/-- An entry on its way to a block that is gone: no other block at its key takes it, and it ends as departed (R461). -/
def Entry.awayFrom (bk : Nat) (e : Entry) : Entry :=
  match e.target with
  | .bank b off => if b = bk then { e with target := .bank noBlock off } else e
  | _ => e

/-- A block of a gang whose peer's block on this chip is gone: no other block at that key is its peer. -/
def Block.forget (pos bk : Nat) (b : Block) : Block :=
  { b with members := b.members.map (fun m => (m.1, if m.2.pos = pos ∧ m.2.block = bk then { m.2 with block := noBlock } else m.2)) }

/-- The resources of a block return to the core; its bank fires every watch that it holds (R182, R129). -/
def State.releaseBlock (s : State) (bk : Nat) : State :=
  let ws := (s.block bk).watches
  let groups := s.groups.filter (fun p => !decide (p.2.resident = true ∧ p.2.block = bk))
  let blocks := (delKey s.blocks bk).map (fun p => (p.1, p.2.forget s.fab.pos bk))
  ws.foldl (fun s w => s.fireWatch w) { s with groups := groups, blocks := blocks, entries := s.entries.map (Entry.awayFrom bk) }

/-- Whether a group has nothing more to save: it has ended, or has left the save handler (R243). -/
def Group.savedOrEnded (g : Group) : Bool := g.ended || decide (g.handler = .saved)

/-- The key of a saved block. -/
def savedKey (grid blockId : Nat) : Nat := grid * 2 ^ 32 + blockId

/-- What ctl1 keeps of a block that has been saved: not of a held member, which is discarded (R193, R245, R425). -/
def State.keepSaved (s : State) (b : Block) : State :=
  if b.held then s
  else
    let gone := (b.members.filter (fun m => m.2.departed)).map Prod.fst
    { s with saved := insKey s.saved (savedKey b.grid b.blockId) { handles := b.handles, departed := b.departed, gone := gone } }

/-- When every group of every block of the unit on the chip has left the save handler, ctl1 releases the blocks and
contributes PREEMPT KIND 1 (R243). -/
def State.unitSaved (s : State) (bk : Nat) : State :=
  let b := s.block bk
  let index := unitIndex s b
  let unit := s.unitBlocks b.grid index
  if unit.all (fun p => p.2.groups.all (fun k => (s.group k).savedOrEnded)) then
    let s := unit.foldl (fun s p => (s.keepSaved p.2).releaseBlock p.1) s
    s.contribute 0x0007 [(16, 1, 1), (18, 2, b.grid), (20, 4, index)]
  else s

/-! ### Thawing (R245) -/

/-- A restored block is thawed: its groups go on from their shadows, its gone slices return (R213), a member attaches, and
a trap that HFLAG bit 1 says is pending is delivered (R412), but never PREEMPT (R411). -/
def State.thawBlock (s : State) (bk : Nat) : State :=
  let b := s.block bk
  let s := b.groups.foldl (fun s k => if (s.group k).ended then s else s.setGroup k (s.group k).thaw) s
  let gone := ((b.groups.map (fun k => (s.group k).goneSlices))).sum
  let shrunk := if (s.gridRow b.grid).flags / 4 % 2 = 1 then gone else 0
  let s := s.setBlock bk { b with frozen := false, restoring := false, shrunk := shrunk, reported := 0 }
  let s := b.groups.foldl (fun s k =>
    let g := s.group k
    if g.hf1 && !g.ended && decide (g.restoredTrap.code ≠ tPreempt) then (s.setGroup k { g with handler := .none, hf0 := false }).deliverTrap k g.restoredTrap else s) s
  b.groups.foldl (fun s k => s.joinCheck k) (s.attach bk)

/-- When every group of the block has left the restore handler, the block thaws (R245). -/
def State.restoredCheck (s : State) (bk : Nat) : State :=
  if (s.block bk).groups.all (fun k => (s.group k).ended || decide ((s.group k).handler = .restored)) then s.thawBlock bk else s

end Sys2Proof.Machine
end

