-- ==== Sys2Proof/Machine/Flags.lean ====
section
/-! DEFINITION. The condition computations: compare conditions (R308, R343, R384) and the class word (R347). -/

namespace Sys2Proof.Machine

/-- Conditions 0 to 5 of R308 from equality and order. -/
def condOf (c : Nat) (eq lt : Bool) : Bool :=
  match c with
  | 0 => eq
  | 1 => !eq
  | 2 => lt
  | 3 => lt || eq
  | 4 => !lt && !eq
  | 5 => !lt
  | _ => false

/-- ICMP's condition (R343). -/
def condSigned (c : Nat) (a b : Word) : Bool := condOf c (a == b) (a.slt b)

/-- NCMP's condition (R343). -/
def condUnsigned (c : Nat) (a b : Word) : Bool := condOf c (a == b) (a.ult b)

/-- FCMP's condition (R343): with a NaN only .ne and .uno hold. -/
def condFloat (c : Nat) (a b : Word) : Bool :=
  let uno := isNan32 a || isNan32 b
  match c with
  | 6 => !uno
  | 7 => uno
  | 1 => uno || !fEq (fv a) (fv b)
  | c => !uno && condOf c (fEq (fv a) (fv b)) (fLt (fv a) (fv b))

/-- SCMP's condition (R384): 0 .eq, 1 .ne, 2 .lt, 3 .le, 4 .lt unsigned, 5 .le unsigned. -/
def condUniform (c : Nat) (a b : DWord) : Bool :=
  match c with
  | 0 => a == b
  | 1 => a != b
  | 2 => a.slt b
  | 3 => a.sle b
  | 4 => a.ult b
  | _ => a.ule b

/-- The class word of an f32 value (R347). -/
def fclass32 (x : Word) : Word :=
  let e := (x >>> 23).toNat % 256
  let m := x.toNat % 2 ^ 23
  let neg := x.getLsbD 31
  if e = 255 then (if m = 0 then (if neg then 0x001 else 0x080) else if x.getLsbD 22 then 0x200 else 0x100)
  else if e = 0 then (if m = 0 then (if neg then 0x008 else 0x010) else if neg then 0x004 else 0x020)
  else if neg then 0x002 else 0x040

end Sys2Proof.Machine
end

