-- ==== Sys2Proof/Machine/UniArith.lean ====
section
/-! DEFINITION. Uniform arithmetic, compares, immediates, masks and the exchange with lanes (R383 to R386, R389, R390). -/

namespace Sys2Proof.Machine

/-! ### Functions of R383 -/

def sshl64 (a b : DWord) : DWord := if 64 ≤ b.toNat then 0 else a <<< b.toNat
def sshr64 (a b : DWord) : DWord := if 64 ≤ b.toNat then 0 else a >>> b.toNat
def ssar64 (a b : DWord) : DWord := a.sshiftRight (if 63 ≤ b.toNat then 63 else b.toNat)
def mulHigh64 (a b : DWord) : DWord := BitVec.ofInt 64 (a.toInt * b.toInt / 2 ^ 64)

def execSadd (d : Dst) (a b : Src) (s : State) : Out := uniWord d [a, b] (fun _ => ubin (· + ·)) s

def execSsub (d : Dst) (a b : Src) (s : State) : Out := uniWord d [a, b] (fun _ => ubin (· - ·)) s

def execSmul (d : Dst) (a b : Src) (s : State) : Out := uniWord d [a, b] (fun _ => ubin (· * ·)) s

def execSmulh (d : Dst) (a b : Src) (s : State) : Out := uniWord d [a, b] (fun _ => ubin mulHigh64) s

def execSand (d : Dst) (a b : Src) (s : State) : Out := uniWord d [a, b] (fun _ => ubin (· &&& ·)) s

def execSor (d : Dst) (a b : Src) (s : State) : Out := uniWord d [a, b] (fun _ => ubin (· ||| ·)) s

def execSxor (d : Dst) (a b : Src) (s : State) : Out := uniWord d [a, b] (fun _ => ubin (· ^^^ ·)) s

def execSshl (d : Dst) (a b : Src) (s : State) : Out := uniWord d [a, b] (fun _ => ubin sshl64) s

def execSshr (d : Dst) (a b : Src) (s : State) : Out := uniWord d [a, b] (fun _ => ubin sshr64) s

def execSsar (d : Dst) (a b : Src) (s : State) : Out := uniWord d [a, b] (fun _ => ubin ssar64) s

def execSmin (d : Dst) (a b : Src) (s : State) : Out := uniWord d [a, b] (fun _ => ubin (fun x y => if y.slt x then y else x)) s

def execSmax (d : Dst) (a b : Src) (s : State) : Out := uniWord d [a, b] (fun _ => ubin (fun x y => if x.slt y then y else x)) s

def execSnmin (d : Dst) (a b : Src) (s : State) : Out := uniWord d [a, b] (fun _ => ubin (fun x y => if y.ult x then y else x)) s

def execSnmax (d : Dst) (a b : Src) (s : State) : Out := uniWord d [a, b] (fun _ => ubin (fun x y => if x.ult y then y else x)) s

/-- SCMP (R384): 1 when the condition of func3 holds. -/
def execScmp (d : Dst) (a b : Src) (cond : Nat) (s : State) : Out :=
  uniWord d [a, b] (fun _ => ubin (fun x y => if condUniform cond x y then 1 else 0)) s

/-! ### Immediates (R385, R386) -/

def execSaddi (d : Dst) (a : Src) (imm : BitVec 10) (s : State) : Out :=
  uniWord d [a] (fun _ => uun (fun x => x + imm.signExtend 64)) s

def execSandi (d : Dst) (a : Src) (imm : BitVec 10) (s : State) : Out :=
  uniWord d [a] (fun _ => uun (fun x => x &&& imm.signExtend 64)) s

def execSshli (d : Dst) (a : Src) (n : Nat) (s : State) : Out := uniWord d [a] (fun _ => uun (fun x => x <<< n)) s

def execSshri (d : Dst) (a : Src) (n : Nat) (s : State) : Out := uniWord d [a] (fun _ => uun (fun x => x >>> n)) s

def execSmovi (d : Dst) (imm : BitVec 17) (s : State) : Out := uniWord d [] (fun _ _ => imm.signExtend 64) s

/-- The destination as a source, for the words that read sd (R385, R403). -/
def dstSrc : Dst → Src
  | .reg n => .reg n
  | .push k => .ch false k

/-- SMOVH (R385): the old sd moved up by 16 bits. -/
def execSmovh (d : Dst) (imm : BitVec 16) (s : State) : Out :=
  uniWord d [dstSrc d] (fun _ => uun (fun x => (x <<< 16) ||| imm.zeroExtend 64)) s

/-- SLEA (R386): a code offset from the word's own PC. -/
def execSlea (d : Dst) (a : Src) (imm : BitVec 10) (s : State) : Out :=
  uniWord d [a] (fun s => uun (fun x => s.iss.pc.zeroExtend 64 + 4 * (imm.signExtend 64 + x))) s

/-! ### Masks (R389) -/

/-- The bits of a mask register that a uniform word reads; m0 is no register. -/
def maskUse (m : Nat) : List (Nat × Nat) := if m = 0 then [] else (List.range laneCount).map (fun l => (m, l))

/-- A mask destination written at once; hazards of the mask end (log 14). -/
def Group.putMask (g : Group) (r : Nat) (x : DWord) : Group :=
  let g := g.setMreg r x
  { g with hazards := g.hazards.filter (fun h => !(decide (h.isMask = true ∧ h.reg = r))),
           bad := g.bad.filter (fun b => decide (b ≠ BadReg.mask r)) }

/-- The words that combine two masks (R389). -/
def maskWord (md ma mb : Nat) (f : DWord → DWord → DWord) (s : State) : Out :=
  uniGate { noUses with readM := maskUse ma ++ maskUse mb } (fun s =>
    let x := f (readM s s.issuing 0 ma) (readM s s.issuing 1 mb)
    .next ((s.setGroup s.iss.group (s.issuing.putMask md x)).advance)) s

def execMand (md ma mb : Nat) (s : State) : Out := maskWord md ma mb (· &&& ·) s

def execMor (md ma mb : Nat) (s : State) : Out := maskWord md ma mb (· ||| ·) s

def execMxor (md ma mb : Nat) (s : State) : Out := maskWord md ma mb (· ^^^ ·) s

def execMnot (md ma : Nat) (s : State) : Out := maskWord md ma ma (fun x _ => ~~~x) s

/-- The words that read a mask into a uniform register (R389). -/
def maskRead (d : Dst) (ma : Nat) (f : DWord → DWord) (s : State) : Out :=
  uniGate { uniUses (some d) [] with readM := maskUse ma } (fun s =>
    .next ((putU d (f (readM s s.issuing 0 ma)) s).advance)) s

def execM2s (d : Dst) (ma : Nat) (s : State) : Out := maskRead d ma (fun x => x) s

/-- The number of ones of a mask. -/
def maskCount (x : DWord) : DWord := BitVec.ofNat 64 (lanesOf x).length

def execMpopc (d : Dst) (ma : Nat) (s : State) : Out := maskRead d ma maskCount s

def execS2m (md : Nat) (a : Src) (s : State) : Out :=
  uniGate (uniUses none [a]) (fun s =>
    let (x, s') := readU a s
    .next ((s'.setGroup s'.iss.group (s'.issuing.putMask md x)).advance)) s

/-! ### Exchange with lanes (R390) -/

/-- The lane register that V2S reads, if its lane exists and is live. -/
def v2sReads (s : State) (va : Nat) (j : Nat) : List (Nat × Nat) :=
  if j < laneCount ∧ s.issuing.live j = true then [(va, j)] else []

/-- V2S (R390): the register of lane j, 0 for a lane beyond WIDTH or an exited one. -/
def execV2s (d : Dst) (va : Nat) (b : Src) (s : State) : Out :=
  let lane := fun (s : State) => ((readU b s).1).toNat
  let u := uniUses (some d) [b]
  let known := chanReady s.issuing s.issuingBlock [] u.chans
  uniGate { u with readV := if known then v2sReads s va (lane s) else [] } (fun s =>
    let (x, s') := readU b s
    let j := x.toNat
    let v := if j < laneCount ∧ s.issuing.live j = true then (readV s s.issuing 0 va j).zeroExtend 64 else 0
    .next ((putU d v s').advance)) s

/-- S2V (R390): the low half of a in every issued lane. -/
def execS2v (vd : Nat) (a : Src) (s : State) : Out :=
  uniGate { uniUses none [a] with writeV := s.iss.sel.map (fun l => (vd, l)) } (fun s =>
    let (x, s') := readU a s
    let g := putLanes s.clock 0 vd (fun _ => x.truncate 32) s.iss.sel s'.issuing
    .next ((s'.setGroup s'.iss.group g).advance)) s

end Sys2Proof.Machine
end

