-- ==== Sys2Proof/Machine/UniMem.lean ====
section
/-! DEFINITION. Uniform loads, stores and atomics, MARM, CACHE and PREF (R387, R388, R401, R403, R414, R415). -/

namespace Sys2Proof.Machine

/-- The address of a uniform access (R387): it wraps at the space's width, and a 32-bit space uses the low half. -/
def uniAddr (wide : Bool) (base : DWord) (off : Nat) : Nat :=
  if wide then (base.toNat + off) % 2 ^ 64 else (base.toNat % 2 ^ 32 + off) % 2 ^ 32

/-- Where a uniform result goes: its register, or a push. -/
def uniResultDst (d : Dst) : ResDst :=
  match d with
  | .reg n => .uniform [n]
  | .push k => .push k

/-- The one returning entry of a uniform word (R387), in one or two pieces (R87). -/
def placeUniRead (m : MemWord) (u : MemUse) (d : Dst) (op : EntOp) (kind : Option Kind) (data data2 addr : Nat) (s : State) : State :=
  let ps := piecesOf s s.iss.group s.issuingBlock u { lane := 0, addr := addr }
  let id := s.nextId
  let s := placeResultPush (uniResultDst d) id ((takePush d s).addResult (uniResultDst d) m.n ps.length)
  (placePieces (fun p _ e =>
    { m.fill none addr e with op := op, kind := kind.getD p.kind, res := some id, data := data, data2 := data2 }) ps 0 s).endInstr

/-- The store entries of a uniform word (R387, R75). -/
def placeUniStore (m : MemWord) (u : MemUse) (data addr : Nat) (s : State) : State :=
  let ps := piecesOf s s.iss.group s.issuingBlock u { lane := 0, addr := addr }
  let whole := wholeSectors (localRanges ps)
  (placePieces (fun p _ e =>
    { m.fill none addr e with
      op := .store, data := data / 2 ^ (8 * p.off) % 2 ^ (8 * p.n), whole := pieceSectors whole p }) ps 0 s).endInstr

/-- A uniform memory word of a space: its OP in messages is its opcode with bit 7 set (R153). -/
def uniPlain (space : Space) (w op : Nat) : MemWord := plainWord space w (0x80 + op)

def uniLoad (m : MemWord) (d : Dst) (a : Src) (imm : Nat) (s : State) : Out :=
  uniGate (uniUses (some d) [a]) (fun s =>
    let (x, s') := readU a s
    let addr := uniAddr m.space.wide x (imm * m.n)
    let u := m.use false false
    memGate true u true [{ lane := 0, addr := addr }] (fun _ =>
      .next ((placeUniRead m u d .load none 0 0 addr s').advance)) s) s

def uniStore (m : MemWord) (v a : Src) (imm : Nat) (s : State) : Out :=
  uniGate (uniUses none [a, v]) (fun s =>
    let (xs, s') := readUs [a, v] s
    let addr := uniAddr m.space.wide (xs.getD 0 0) (imm * m.n)
    let u := m.use true false
    memGate true u false [{ lane := 0, addr := addr }] (fun _ =>
      .next ((placeUniStore m u ((xs.getD 1 0).toNat % 2 ^ (8 * m.n)) addr s').advance)) s) s

def execSldl (d : Dst) (a : Src) (w imm : Nat) (s : State) : Out := uniLoad (uniPlain .virt w 0x17) d a imm s

def execSstl (v a : Src) (w imm : Nat) (s : State) : Out := uniStore (uniPlain .virt w 0x18) v a imm s

def execSlds (d : Dst) (a : Src) (w imm : Nat) (s : State) : Out := uniLoad (uniPlain .scratch w 0x19) d a imm s

def execSsts (v a : Src) (w imm : Nat) (s : State) : Out := uniStore (uniPlain .scratch w 0x1A) v a imm s

def execSldg (d : Dst) (a : Src) (w imm : Nat) (s : State) : Out := uniLoad (uniPlain .global w 0x1C) d a imm s

def execSstg (v a : Src) (w imm : Nat) (s : State) : Out := uniStore (uniPlain .global w 0x1D) v a imm s

/-- A trap of a uniform word at an address (R388): LANES and LANE are 0. -/
def trapUni (code addr w : Nat) (s : State) : Out :=
  raise (s.wordTrap code 0 0 (BitVec.ofNat 64 addr) w 0 true) s

/-- SLDC (R25, R388). -/
def execSldc (d : Dst) (a : Src) (w imm : Nat) (s : State) : Out :=
  uniGate (uniUses (some d) [a]) (fun s =>
    let (x, s') := readU a s
    let addr := uniAddr false x (imm * 2 ^ w)
    match bankCond (s.grid s.issuingBlock.grid) (2 ^ w) addr with
    | some c => trapUni c.code addr w s
    | none =>
      let v := readNat (s.grid s.issuingBlock.grid).bank addr (2 ^ w)
      .next ((putU d (BitVec.ofNat 64 v) s').advance)) s

/-! ### Uniform atomics (R403) -/

/-- A uniform atomic's word: it takes no prefix, so its scope is .chp (R95). -/
def uniAtomWord (space w op : Nat) : MemWord := { uniPlain (spaceOf space) (2 + w) op with scope := 3 }

def uniAtomic (op : AtomOp) (code : Nat) (d : Dst) (a b : Src) (w space : Nat) (s : State) : Out :=
  let m := uniAtomWord space w code
  uniGate (uniUses (some d) ([a, b] ++ (if op = .cas then [dstSrc d] else []))) (fun s =>
    let (xs, s') := readUs [a, b] s
    let old := (readU (dstSrc d) s).1
    let addr := uniAddr m.space.wide (xs.getD 0 0) 0
    let u := m.use true true
    memGate true u true [{ lane := 0, addr := addr }] (fun _ =>
      let cut := fun (x : DWord) => x.toNat % 2 ^ (8 * m.n)
      let lim := if op = .cas then cut old else 0
      .next ((placeUniRead m u d (.atom op) none (cut (xs.getD 1 0)) lim addr s').advance)) s) s

def execSaadd (d : Dst) (a b : Src) (w space : Nat) (s : State) : Out := uniAtomic .add 0x39 d a b w space s

def execSacas (d : Dst) (a b : Src) (w space : Nat) (s : State) : Out := uniAtomic .cas 0x3A d a b w space s

def execSaxchg (d : Dst) (a b : Src) (w space : Nat) (s : State) : Out := uniAtomic .xchg 0x3B d a b w space s

/-! ### MARM (R401, R117) -/

/-- MARM is issued: any watch of the group is cancelled, and its newest compare is the one that arms. -/
def State.armMonitor (s : State) (k : Nat) : State :=
  let s := s.dropWatches k
  s.setGroup k { s.group k with mon := .pending, monEntry := s.nextId, monTag := 0, monPos := none }

def execMarm (d : Dst) (a b : Src) (w space : Nat) (s : State) : Out :=
  let m := uniPlain (spaceOf space) (2 + w) 0x37
  uniGate (uniUses (some d) [a, b]) (fun s =>
    let (xs, s') := readUs [a, b] s
    let addr := uniAddr m.space.wide (xs.getD 0 0) 0
    let u := m.use false true
    memGate true u true [{ lane := 0, addr := addr }] (fun _ =>
      let x := (xs.getD 1 0).toNat % 2 ^ (8 * m.n)
      let s' := placeUniRead m u d (.marm x) (some .rc) x 0 addr s'
      let id := (s'.entries.getLast?.map Entry.id).getD 0
      let s' := s'.armMonitor s'.iss.group
      .next ((s'.setGroup s'.iss.group { s'.issuing with monEntry := id }).advance)) s) s

/-! ### CACHE and PREF (R414, R415, R73) -/

/-- Where an address lies, found without a trap: the physical address, kind and NC, nothing for one with no line, and none where a walk must tell
first (R39). -/
def State.probe (s : State) (k va : Nat) : Option (Option (Nat × Kind × Bool)) :=
  if 2 ^ 56 ≤ va then some none
  else
    match s.tlbFind (coreOf k) (s.block (s.group k).block).ctx va with
    | some e => some (some (e.pa + (va - e.va), e.kind, e.nc))
    | none =>
      match (s.group k).probed with
      | some (a, found) => if a = va then some found else none
      | none => none

/-- CACHE and PREF at an address: with what is found there, or once a walk has told (R39). -/
def State.withProbe (s : State) (va : Nat) (body : Option (Nat × Kind × Bool) → Out) : Out :=
  match s.probe s.iss.group va with
  | some found => body found
  | none => hold .walk (s.startProbe s.iss.group s.issuingBlock.ctx va)

/-- The word that probed is over. -/
def State.probeDone (s : State) : Out := .next (s.setGroup s.iss.group { s.issuing with probed := none }).advance

/-- Whether an entry of the group to a line is still in its queue (R414). -/
def lineQueued (s : State) (k line : Nat) : Bool :=
  s.entries.any (fun e => decide (e.issuer = .group k) && decide (e.stage = .gq) &&
    (match e.target with
    | .memory pa => rangesMeet pa e.size (line * 128) 128
    | _ => false))

/-- An L2 line written back: it is clean from then on (R66, R414). -/
def State.writeBack (s : State) (line : Nat) : State :=
  match findKey s.l2 line with
  | some x => { s with l2 := insKey s.l2 line { x with dirty := false } }
  | none => s

/-- The frame of the CACHE forms (R414): nothing for an address with no line; applied once the line's earlier entries have
left the queue. -/
def cacheWord (a : Src) (f : Nat → State → State) (s : State) : Out :=
  uniGate (uniUses none [a]) (fun s =>
    let (x, s') := readU a s
    s.withProbe x.toNat (fun found =>
      match found with
      | none => s'.probeDone
      | some (pa, _, _) => if lineQueued s s.iss.group (pa / 128) then hold .store s else (f (pa / 128) s').probeDone)) s

def execCacheL1inv (a : Src) (s : State) : Out :=
  cacheWord a (fun line s =>
    let c := s.core (coreOf s.iss.group)
    s.setCore (coreOf s.iss.group) { c with l1 := l1Drop c.l1 (line * 128) 128 }) s

def execCacheL1all (a : Src) (s : State) : Out :=
  cacheWord a (fun _ s => s.setCore (coreOf s.iss.group) { s.core (coreOf s.iss.group) with l1 := [] }) s

def execCacheL2wb (a : Src) (s : State) : Out := cacheWord a (fun line s => s.writeBack line) s

def execCacheL2wbinv (a : Src) (s : State) : Out :=
  cacheWord a (fun line s => { s with l2 := delKey s.l2 line }) s

/-- The local virtual address that PREF names, if its bytes lie on this chip (R73). -/
def prefVa (s : State) (space addr : Nat) : Option Nat :=
  if space = 0 then some addr
  else localVa s s.iss.group s.issuingBlock { space := .global, n := 1, wcode := 0, write := false, atomic := false }
    { lane := 0, addr := addr }

/-- A line brought into the L2, and into the L1 where it may cache it (R73, R63, R77). -/
def State.prefetch (s : State) (core line : Nat) (l1 : Bool) : State :=
  let s := s.touchL2 (line * 128) 128 false
  if l1 then (List.range 4).foldl (fun s i => s.l1FillSector core (line * 4 + i)) s
  else s

/-- PREF (R415): it never faults and has no effect on SO pages or on another chip's addresses. -/
def execPref (a : Src) (space : Nat) (s : State) : Out :=
  uniGate (uniUses none [a]) (fun s =>
    let (x, s') := readU a s
    match prefVa s space x.toNat with
    | none => s'.probeDone
    | some va =>
      s.withProbe va (fun found =>
        match found with
        | some (pa, kind, nc) => if kind = .so then s'.probeDone else (s'.prefetch (coreOf s.iss.group) (pa / 128) (!nc)).probeDone
        | none => s'.probeDone)) s

end Sys2Proof.Machine
end

