-- ==== Sys2Proof/Machine/UniCtl.lean ====
section
/-! DEFINITION. Uniform control flow, delays, status registers, traps and handler returns (R391 to R393, R407 to R413). -/

namespace Sys2Proof.Machine

/-! ### Control flow (R391, R392) -/

def execNop (s : State) : Out := uniGate noUses (fun s => .next s.advance) s

def execBr (off : BitVec 17) (s : State) : Out :=
  uniGate noUses (fun s => .next (s.moveSel (branchTo s.iss.pc (off.signExtend 32)))) s

/-- BRZ and BRNZ (R391): all issued lanes move together. -/
def branchIf (a : Src) (off : BitVec 17) (taken : DWord → Bool) (s : State) : Out :=
  uniGate (uniUses none [a]) (fun s =>
    let (x, s') := readU a s
    .next (if taken x then s'.moveSel (branchTo s.iss.pc (off.signExtend 32)) else s'.advance)) s

def execBrz (a : Src) (off : BitVec 17) (s : State) : Out := branchIf a off (fun x => x = 0) s

def execBrnz (a : Src) (off : BitVec 17) (s : State) : Out := branchIf a off (fun x => x ≠ 0) s

/-- CALL (R391): s62 takes the return offset before the branch. -/
def execCall (off : BitVec 17) (s : State) : Out :=
  uniGate (uniUses (some (.reg 62)) []) (fun s =>
    .next ((putU (.reg 62) ((s.iss.pc + 4).zeroExtend 64) s).moveSel (branchTo s.iss.pc (off.signExtend 32)))) s

/-- A jump to an offset in a register: bits [1:0] not 0 trap MISALIGNED with no lane moved (R392). -/
def jumpTo (a : Src) (s : State) : Out :=
  uniGate (uniUses none [a]) (fun s =>
    let (x, s') := readU a s
    if x.toNat % 4 ≠ 0 then trapSel tMisaligned true 0 0 s else .next (s'.moveSel (x.truncate 32))) s

def execRet (s : State) : Out := jumpTo (.reg 62) s

def execBrxs (a : Src) (s : State) : Out := jumpTo a s

/-- DLY (R393, R325): the group issues again n + 1 cycles later at the earliest. -/
def execDly (n : Nat) (s : State) : Out :=
  uniGate noUses (fun s =>
    let s := s.advance
    .next (s.setGroup s.iss.group { s.issuing with dlyUntil := s.clock + n + 1 })) s

/-- YIELD (R407): the other groups of the core may issue first; nothing else. -/
def execYield (s : State) : Out := uniGate noUses (fun s => .next s.advance) s

/-! ### Status registers (R408, R409) -/

/-- The shadow of a lane as a status register (R408). -/
def Lane.shadowWord (x : Lane) : DWord :=
  x.shPc.zeroExtend 64 ||| (match x.shSt with
    | .run => 0
    | .parked => 0
    | .held => 0x100000000
    | .exited => 0x200000000)

/-- Whether an entry of a channel's ring is held: one of the COUNT entries from HEAD on (R54, R185). -/
def Block.entryHeld (b : Block) (k e : Nat) : Bool :=
  let c := b.chan k
  decide (e < c.depth ∧ (e + c.depth - c.head % c.depth) % c.depth < c.count)

/-- The pusher numbers of ring entries 16i to 16i + 15 of a channel; an entry not held reads 0 (R408). -/
def Block.pushtWord (b : Block) (k i : Nat) : DWord :=
  BitVec.ofNat 64 (((List.range 16).map (fun e => if b.entryHeld k (16 * i + e) then getKey 0 b.pushers (k * 256 + 16 * i + e) * 16 ^ e else 0)).sum)

/-- HFLAG (R408). -/
def Group.hflag (g : Group) : DWord := (if g.hf0 then 1 else 0) ||| (if g.hf1 then 2 else 0)

/-- The value of a status register (R408). -/
def statusValue (s : State) (n : Nat) : DWord :=
  let g := s.issuing
  let b := s.issuingBlock
  let row := s.gridRow b.grid
  let w := BitVec.ofNat 64
  match n with
  | 0x000 => w laneCount
  | 0x001 => w g.gid
  | 0x002 => w b.blockId
  | 0x003 => w b.grid
  | 0x004 => w (b.blockId / row.bpr)
  | 0x005 => w row.nranks
  | 0x006 => w b.gangIdx
  | 0x007 => w b.gsz
  | 0x008 => w row.depth
  | 0x009 => w b.groups.length
  | 0x00A => w row.bpr
  | 0x010 => w s.clock
  | 0x011 => w s.fab.podtime
  | 0x012 => w s.fab.slot
  | 0x020 => g.mode
  | 0x021 => g.merr
  | 0x030 => g.trecWord 0
  | 0x210 => g.seen.zeroExtend 64
  | 0x230 => g.hflag
  | n =>
    if 0x100 ≤ n ∧ n < 0x180 then (if n - 0x100 < laneCount then (g.lane (n - 0x100)).shadowWord else 0)
    else if 0x200 ≤ n ∧ n < 0x210 then
      w (g.allowance (n - 0x200)) ||| (if g.prod.getLsbD (n - 0x200) then 0x10000 else 0)
    else if 0x220 ≤ n ∧ n < 0x228 then g.trecWord (n - 0x220)
    else if 0x300 ≤ n ∧ n < 0x400 then b.pushtWord ((n - 0x300) / 16) ((n - 0x300) % 16)
    else 0

def execSrr (d : Dst) (n : Nat) (s : State) : Out := uniWord d [] (fun s _ => statusValue s n) s

/-- The bits of MODE that are not reserved (R261). -/
def modeBits : DWord := 0xFFFFFFFF00000017

/-- SRW to MODE (R261, R266): RM 5 to 7 trap, and every SR count becomes 0. -/
def execSrwMode (a : Src) (s : State) : Out :=
  uniGate (uniUses none [a]) (fun s =>
    let (x, s') := readU a s
    if 5 ≤ x.toNat % 8 then illegalUni s
    else
      let g := s'.issuing.mapLanes (fun _ l => { l with sr := 0 }) (List.range laneCount)
      .next ((s'.setGroup s'.iss.group { g with mode := x &&& modeBits }).advance)) s

/-- The registers that SRW may write only in a frozen block (R244, R408). -/
def restoreOnly (n : Nat) : Bool :=
  (0x100 ≤ n && n < 0x180) || (0x200 ≤ n && n ≤ 0x210) || (0x220 ≤ n && n < 0x228) || n = 0x230 || (0x300 ≤ n && n < 0x400)

/-- Whether a value may be written to a restore-only register (R409). -/
def statusValueOk (b : Block) (n : Nat) (x : DWord) : Bool :=
  if 0x100 ≤ n ∧ n < 0x180 then
    decide (n - 0x100 < laneCount) && decide (x.toNat / 2 ^ 32 % 4 ≠ 3) && decide (x.toNat % 4 = 0)
  else if 0x200 ≤ n ∧ n < 0x210 then decide (x.toNat % 512 ≤ 256)
  else if 0x300 ≤ n ∧ n < 0x400 then
    (List.range 16).all (fun e => decide (x.toNat / 16 ^ e % 16 < b.groups.length))
  else true

/-- A lane's shadow from its status word. -/
def Lane.setShadow (l : Lane) (x : DWord) : Lane :=
  { l with shPc := x.truncate 32, shSt := if x.toNat / 2 ^ 32 % 4 = 0 then .run else if x.toNat / 2 ^ 32 % 4 = 1 then .held else .exited }

/-- The bits of a trap-record register that R242 names; the others are reserved (R409; DEDUCED, log 86). -/
def recordBits (i : Nat) : DWord :=
  if i = 0 then 0xFFFFFFFF00000FFF else if i = 3 then 0xFFFFFFFF0000FFFF else if i = 4 then 0x00000000FFFFFFFF
  else if i = 5 then 0x7FF else if i = 7 then 0 else 0xFFFFFFFFFFFFFFFF

/-- A restore-only register of the group written; reserved bits are written as 0. -/
def Group.setStatus (g : Group) (n : Nat) (x : DWord) : Group :=
  if 0x100 ≤ n ∧ n < 0x180 then g.setLane (n - 0x100) ((g.lane (n - 0x100)).setShadow x)
  else if 0x200 ≤ n ∧ n < 0x210 then
    let bit : BitVec 16 := 1#16 <<< (n - 0x200)
    let g := g.setAllowance (n - 0x200) (x.toNat % 512)
    { g with prod := if x.getLsbD 16 then g.prod ||| bit else g.prod &&& ~~~bit }
  else if n = 0x210 then { g with seen := x.truncate 16 }
  else if 0x220 ≤ n ∧ n < 0x228 then { g with trec := setKey 0 g.trec (n - 0x220) (x &&& recordBits (n - 0x220)) }
  else if n = 0x230 then { g with hf0 := x.getLsbD 0, hf1 := x.getLsbD 1 }
  else g

/-- The pusher numbers of a block written. -/
def Block.setPusht (b : Block) (k i : Nat) (x : DWord) : Block :=
  { b with pushers := (List.range 16).foldl (fun m e => setKey 0 m (k * 256 + 16 * i + e) (x.toNat / 16 ^ e % 16)) b.pushers }

/-- A register that SRW may write, written (R408). -/
def State.setStatus (s : State) (n : Nat) (x : DWord) : State :=
  let k := s.iss.group
  if n = 0x021 then s.setGroup k { s.issuing with merr := if x &&& 0x7FE = 0 then 0 else (x &&& 0x7FE) ||| 1 }
  else if 0x300 ≤ n ∧ n < 0x400 then
    s.setBlock s.issuing.block (s.issuingBlock.setPusht ((n - 0x300) / 16) ((n - 0x300) % 16) x)
  else s.setGroup k (s.issuing.setStatus n x)

/-- SRW to any register but MODE (R409). -/
def execSrw (a : Src) (n : Nat) (s : State) : Out :=
  uniGate (uniUses none [a]) (fun s =>
    let (x, s') := readU a s
    if n ≠ 0x021 ∧ restoreOnly n = false then trapSel tProtection true 0 0 s
    else if n ≠ 0x021 ∧ (s.issuingBlock.frozen = false ∨ statusValueOk s.issuingBlock n x = false) then
      trapSel tProtection true 0 0 s
    else .next ((s'.setStatus n x).advance)) s

/-! ### Traps and returns (R410, R412, R413) -/

/-- TRAP (R410): SW_TRAP with the code in AUX. -/
def execTrap (code : Nat) (s : State) : Out := uniGate noUses (trapSel tSwTrap true 0 (BitVec.ofNat 64 code)) s

/-- The end of a handler (R412). -/
def endHandler (skip : Bool) (s : State) : Out :=
  uniGate noUses (fun s =>
    let k := s.iss.group
    let g := s.issuing
    let s' := { s with iss := { s.iss with issued := true } }
    match g.handler with
    | .trap => .next ((s'.setGroup k (g.leaveTrap skip)).joinCheck k)
    | .save => .next ((s'.setGroup k { g with handler := .saved, waiting := .nothing }).unitSaved g.block)
    | .restore => .next ((s'.setGroup k { g.loadShadow with handler := .restored, waiting := .nothing }).restoredCheck g.block)
    | _ => trapSel tProtection true 0 0 s) s

def execTret (s : State) : Out := endHandler false s

def execTretSkip (s : State) : Out := endHandler true s

/-- The 64 bytes of the trap record (R242). -/
def Group.recordBytes (g : Group) : List Byte := (List.range 8).flatMap (fun i => bytesLE 8 (g.trecWord i).toNat)

/-- The trap record as one store entry at the scratchpad, which its bank writes in units of 16 bytes (R413, R123). -/
def placeRecord (off : Nat) (bytes : List Byte) (s : State) : State :=
  (s.placeEntry { baseEntry s s.iss.group with
    op := .store, target := .bank s.issuing.block off, addr := off, size := 64, wcode := 4, data := natLE bytes, opc := 0xD0 }).endInstr

/-- TREC (R413): the whole record to scratchpad at .blk. -/
def execTrec (a : Src) (s : State) : Out :=
  uniGate (uniUses none [a]) (fun s =>
    let (x, s') := readU a s
    let o := x.toNat % 2 ^ 32
    let b := s.issuingBlock
    if o % 64 ≠ 0 then trapSel tMisaligned true (BitVec.ofNat 64 o) 0 s
    else if b.scr < o + 64 ∨ (o < 0x300 ∧ b.frozen = false) then
      trapSel tProtection true (BitVec.ofNat 64 o) 0 s
    else .next ((placeRecord o s.issuing.recordBytes s').advance)) s

end Sys2Proof.Machine
end

