-- ==== Sys2Proof/Machine/UniSync.lean ====
section
/-! DEFINITION. Barriers, channels, counter waits, fences, monitor waits, launches and departures (R394 to R400, R402,
R404 to R406). -/

namespace Sys2Proof.Machine

/-! ### Release sides taken at issue (R97, R98, log 22) -/

/-- Whether every earlier RC and SO entry of a group has performed at a scope, and what its loads have bound from the L1 (R97, R125). -/
def earlierDone (s : State) (k scope : Nat) : Bool :=
  s.entries.all (fun f => decide (f.issuer ≠ .group k) || !f.ordered || f.performedAt scope || f.exempt scope) &&
  (decide (scope < 3) || !s.owed k (s.group k).nextSeq)

/-- A word with a release side: it waits for the earlier entries, and at .grd and .pod for the flush (R97, R112), which may
end with PEER_FENCED (R163). One that was waiting for a store which has timed out completes as trapped (R138): FABRIC_TIMEOUT, at its own PC. -/
def releaseGate (scope : Nat) (body : State → Out) (s : State) : Out :=
  let k := s.iss.group
  let g := s.issuing
  let wait := fun (s : State) => hold .release (s.setGroup k { s.group k with rel := some (s.iss.pc, false) })
  if g.rel = some (s.iss.pc, true) then trapSel tFabricTimeout true 0 0 (s.setGroup k { g with rel := none })
  else if !earlierDone s k scope then wait s
  else if scope < 4 ∨ g.flushed = true then body s
  else if g.flush.isNone then wait (s.startFlush k)
  else if g.flushLost then trapSel tPeerFenced true 0 0 (s.setGroup k { g with flush := none })
  else wait s

/-! ### Barriers (R394 to R396) -/

/-- A barrier word whose object lies beyond the allocation traps PROTECTION (R54). -/
def barrierGate (k : Nat) (body : State → Out) (s : State) : Out :=
  if s.issuingBlock.scr < barOff k + 32 then trapSel tProtection true (BitVec.ofNat 64 (barOff k)) 0 s else body s

/-- BARI's step (R394). -/
def State.initBarrier (s : State) (bk k expect : Nat) : State :=
  let b := s.block bk
  let m := writeNat (writeNat (writeNat b.spad (barOff k) 8 (expect * 2 ^ 48)) (barOff k + 8) 8 0) (barOff k + 16) 8 0
  let s := s.setBlock bk { b with spad := m }
  b.groups.foldl (fun s g => s.setGroup g ((s.group g).setSeen k false)) s

def execBari (k : Nat) (a : Src) (s : State) : Out :=
  uniGate (uniUses none [a]) (barrierGate k (fun s =>
    let (x, s') := readU a s
    if x = 0 ∨ 65535 < x.toNat then trapSel tProtection true 0 0 s
    else releaseGate 2 (fun _ =>
      .next ((s'.initBarrier s'.issuing.block k x.toNat).advance)) s)) s

/-- EXPECT = 0 traps PROTECTION with the object's offset (R395). -/
def expectGate (k : Nat) (body : State → Out) (s : State) : Out :=
  if s.issuingBlock.barExpect k = 0 then trapSel tProtection true (BitVec.ofNat 64 (barOff k)) 0 s else body s

/-- The arrival entry of a group, with its MERR as it stands at issue (R57, R395; log 75): a release side at .blk. -/
def placeArrival (k : Nat) (s : State) : State :=
  let e := baseEntry s s.iss.group
  (s.placeEntry { e with
    op := .arrive k s.issuing.merr, target := .bank s.issuing.block (barOff k), addr := barOff k, rel := true, size := 16 }).endInstr

def execBara (k : Nat) (s : State) : Out :=
  uniGate noUses (barrierGate k (expectGate k (fun s => .next ((placeArrival k s).advance)))) s

/-- Whether an arrival of the group at a barrier is still on its way. -/
def arrivalPending (s : State) (g k : Nat) : Bool :=
  s.entries.any (fun e => decide (e.issuer = .group g) &&
    (match e.op with
    | .arrive j _ => j = k
    | _ => false))

/-- The wait of BARW (R186, R395), and its acquire side. -/
def barrierWait (k : Nat) (s : State) : Out :=
  let g := s.issuing
  let phase := decide (s.issuingBlock.barPhase k % 2 = 1)
  if arrivalPending s s.iss.group k || decide (phase = g.seen.getLsbD k) then hold .barrier s
  else
    let s := s.setGroup s.iss.group (g.setSeen k phase)
    .next ((s.raiseFloor s.iss.group).advance)

def execBarw (k : Nat) (s : State) : Out := uniGate noUses (barrierGate k (expectGate k (barrierWait k))) s

/-- BARAW (R395): the arrival at its first issue, then the wait. -/
def execBaraw (k : Nat) (s : State) : Out :=
  uniGate noUses (barrierGate k (fun s =>
    if s.issuing.arrived then barrierWait k s
    else expectGate k (fun s =>
      let s := placeArrival k s
      hold .barrier (s.setGroup s.iss.group { s.issuing with arrived := true })) s)) s

def execBarst (d : Dst) (k : Nat) (s : State) : Out :=
  uniGate (uniUses (some d) []) (barrierGate k (fun s =>
    .next ((putU d (BitVec.ofNat 64 (readNat s.issuingBlock.spad (barOff k + 16) 8)) s).advance))) s

/-! ### Channels (R397, R398) -/

/-- A channel word whose descriptor lies beyond the allocation traps PROTECTION (R54). -/
def channelGate (k : Nat) (body : State → Out) (s : State) : Out :=
  if s.issuingBlock.scr < chOff k + 16 then trapSel tProtection true 0 0 s else body s

/-- Whether a push of a group of the block to the channel has taken its allowance and is not yet applied (R364). -/
def pushOutstanding (s : State) (bk k : Nat) : Bool :=
  (s.block bk).groups.any (fun g => (s.group g).results.any (fun r => decide (r.dst = .push k))) ||
  s.entries.any (fun e =>
    match e.op, e.target with
    | .push j _, .bank b _ => j = k && b = bk
    | _, _ => false)

/-- The groups that a producer mask names, ascending. -/
def maskGroups (m : Nat) : List Nat := (List.range 16).filter (fun i => m / 2 ^ i % 2 = 1)

/-- Whether CHCFG's value is one the channel unit accepts (R397, R59, R184). -/
def chcfgOk (s : State) (bk k x : Nat) : Bool :=
  let b := s.block bk
  let depth := x / 2 ^ 32 % 512
  let base := x % 2 ^ 19
  let gs := maskGroups (x / 2 ^ 48)
  decide (x / 2 ^ 41 % 2 ^ 7 = 0) && decide (x / 2 ^ 19 % 2 ^ 13 = 0) && decide (0 < depth) && decide (depth ≤ 256) &&
  decide (base % 4 = 0) && decide (0x300 ≤ base) && decide (base + 4 * depth ≤ b.scr) && decide ((b.chan k).count = 0) &&
  !pushOutstanding s bk k && decide (gs ≠ []) && gs.all (fun i => decide (i < b.groups.length)) && decide (gs.length ≤ depth)

/-- CHCFG's step (R397, R184): the descriptor, the allowances and the producer bits. -/
def State.configure (s : State) (bk k x : Nat) : State :=
  let b := s.block bk
  let depth := x / 2 ^ 32 % 512
  let gs := maskGroups (x / 2 ^ 48)
  let s := s.setBlock bk (b.setChan k { count := 0, head := 0, depth := depth, base := x % 2 ^ 19 })
  let bit : BitVec 16 := 1#16 <<< k
  b.groups.zipIdx.foldl (fun s p =>
    let g := s.group p.1
    let n := if gs.contains p.2 then depth / gs.length + (if gs.idxOf p.2 < depth % gs.length then 1 else 0) else 0
    s.setGroup p.1 { g.setAllowance k n with prod := if gs.contains p.2 then g.prod ||| bit else g.prod &&& ~~~bit }) s

def execChcfg (k : Nat) (a : Src) (s : State) : Out :=
  uniGate (uniUses none [a]) (channelGate k (fun s =>
    releaseGate 2 (fun s =>
      let (x, s') := readU a s
      let bk := s.issuing.block
      if chcfgOk s' bk k x.toNat then .next ((s'.configure bk k x.toNat).advance) else channelTrap true k s) s)) s

/-- The state of a channel as CHQ reads it (R398). -/
def chqWord (s : State) (k : Nat) : DWord :=
  let c := s.issuingBlock.chan k
  if c.depth = 0 then 0 else BitVec.ofNat 64 (c.count + s.issuing.allowance k * 2 ^ 16 + c.depth * 2 ^ 32)

def execChq (d : Dst) (k : Nat) (s : State) : Out :=
  uniGate (uniUses (some d) []) (channelGate k (fun s => .next ((putU d (chqWord s k) s).advance))) s

/-! ### Waits and fences (R399, R400, R402) -/

def execWaitc (cls n : Nat) (s : State) : Out :=
  uniGate noUses (fun s =>
    if s.issuing.counter cls ≤ n then .next ((s.raiseFloor s.iss.group).advance) else hold .counter s) s

/-- FENCE (R99, R400): one entry that performs no access. -/
def execFence (all : Bool) (kind scope : Nat) (s : State) : Out :=
  uniGate noUses (fun s =>
    let e := baseEntry s s.iss.group
    .next ((s.placeEntry { e with op := .fence kind all, scope := scope }).endInstr.advance)) s

def execMwait (s : State) : Out :=
  uniGate noUses (fun s =>
    let g := s.issuing
    if g.mon = .idle ∨ g.mon = .fired then
      .next (((s.setGroup s.iss.group { g with mon := .idle }).raiseFloor s.iss.group).advance)
    else hold .monitor s) s

/-! ### Launch and departure (R404 to R406) -/

/-- The payload that a launch record makes (R404): the device fills in the context and the parent grid. -/
def launchPayload (b : Block) (o : Nat) : Payload :=
  bytesLE 2 b.ctx ++ bytesLE 2 b.grid ++ readBytes b.spad (o + 4) 44

/-- LAUNCH (R405). -/
def execLaunch (a : Src) (s : State) : Out :=
  uniGate (uniUses none [a]) (fun s =>
    let (x, s') := readU a s
    let o := x.toNat % 2 ^ 32
    let b := s.issuingBlock
    if s.issuing.gid ≠ 0 then trapSel tProtection true 0 0 s
    else if (s.gridRow b.grid).depth = 9 then trapSel tDepth true 0 9 s
    else if o % 64 ≠ 0 then trapSel tMisaligned true (BitVec.ofNat 64 o) 0 s
    else if o < 0x300 ∨ b.scr < o + 64 then trapSel tProtection true (BitVec.ofNat 64 o) 0 s
    else releaseGate 5 (fun s =>
      let b := s.issuingBlock
      if poisoned b.spadBad o 48 then trapSel tPoison true (BitVec.ofNat 64 o) 0 s
      else .next ((s'.submit (launchPayload b o) 0).advance)) s) s

/-- DETACH (R406, R191). -/
def execDetach (s : State) : Out :=
  uniGate noUses (releaseGate 5 (fun s => .next ((s.depart s.issuing.block).advance))) s

end Sys2Proof.Machine
end

