-- ==== Sys2Proof/Machine/EngineRec.lean ====
section
/-! DEFINITION. What the engine words share: the gate of R417, the records in scratchpad, the tile record (R418, R419),
and the command that reaches its engine (R114, R115). -/

namespace Sys2Proof.Machine

/-! ### The gate (R416, R417) -/

/-- Steps 1 to 4 of R417, and the register gate: decoding, convergence, the class counter, the channels. The body has the
operands, and the state after their channel actions. -/
def engineGate (cls : Option Nat) (conv : Bool) (u : Uses) (srcs : List Src) (body : List DWord → State → State → Out)
    (s : State) : Out :=
  let counted := fun (s : State) =>
    let full := match cls with
      | some c => decide (255 ≤ s.issuing.counter c)
      | none => false
    if full then hold .counterFull s
    else uniGate u (fun s =>
      let (xs, s') := readUs srcs s
      body xs s s') s
  if s.iss.pfx.isSome then illegalUni s
  else if conv then converged true counted s
  else counted s

/-- The test of R324 for an engine word that has read its records: after what they make ILLEGAL_OP (R327), and in the cycle in which the word issues. -/
def shortGate (u : Uses) (body : State → Out) (s : State) : Out := if s.issuing.chk && earlyUse s s.issuing u then stallShort true s else body s

/-- The record or object offset that a register gives (R416). -/
def recOff (xs : List DWord) (i : Nat) : Nat := (xs.getD i 0).toNat % 2 ^ 32

/-- OB_RECORD, with the offset of the failing record (R417 step 6). -/
def obTrap (off : Nat) (s : State) : Out := trapSel tObRecord true (BitVec.ofNat 64 off) 0 s

/-- A trap of an engine word that names an address. -/
def engineTrap (code addr : Nat) (s : State) : Out := trapSel code true (BitVec.ofNat 64 addr) 0 s

/-- Whether a write of the issuing group into the block's scratchpad bytes is still in flight. -/
def spadStoreBusy (s : State) (bk off n : Nat) : Bool :=
  s.entries.any (fun e => decide (e.issuer = .group s.iss.group ∧ e.op ≠ .load) &&
    (match e.target with
    | .bank b o => decide (b = bk) && rangesMeet o e.size off n
    | _ => false))

/-- Step 5 of R417 for the records at these offsets: where they lie, the wait, their poison, and their bytes. -/
def recordGate (offs : List Nat) (body : List (List Byte) → Out) (s : State) : Out :=
  let b := s.issuingBlock
  let misplaced := fun o => decide (o % 64 ≠ 0) || decide (o < 0x300) || decide (b.scr < o + 64)
  match offs.find? misplaced with
  | some o => engineTrap (if o % 64 ≠ 0 then tMisaligned else tProtection) o s
  | none =>
    if offs.any (fun o => spadStoreBusy s s.issuing.block o 64) then hold .store s
    else
      match offs.find? (fun o => poisoned b.spadBad o 64) with
      | some o => engineTrap tPoison o s
      | none => body (offs.map (fun o => readBytes b.spad o 64))

/-! ### The tile record (R418, R419) -/

/-- The fields of a tile record. -/
def readTile (b : List Byte) : TileRec :=
  let n := recNat b
  { base := n 0 8, fmt := n 8 1 % 16, space := n 8 1 / 16, direct := n 9 1 % 2 = 1, c4 := n 9 1 / 2 % 2 = 1,
    red := n 9 1 / 4 % 4, raxis := n 9 1 / 16 % 4, barv := n 9 1 / 64 % 2 = 1, bar := n 10 1 % 16, d0 := n 12 2,
    d1 := n 14 2, d2 := n 16 2, vr := n 18 2, vc := n 20 2, rank := n 22 2, s1 := n 24 4, s2 := n 28 4,
    rmask := n 32 8, efb := n 40 8, gx := signedOf 16 (n 48 2), gy := signedOf 16 (n 50 2), gz := signedOf 16 (n 52 2),
    rslot := n 54 2, flagOff := n 56 4, dx := n 60 2, dy := n 62 2 }

/-- The bits and bytes of a tile record that must be 0 (R418). -/
def tileZeros (b : List Byte) : Bool :=
  decide (recNat b 9 1 < 128 ∧ recNat b 10 1 < 16 ∧ recNat b 11 1 = 0 ∧ recNat b 54 2 / 2 ^ 14 % 2 = 0) &&
  (match recNat b 8 1 / 16 with
  | 0 => true
  | 1 => decide (recNat b 0 8 < 2 ^ 19)
  | 2 => decide (recNat b 0 8 < 2 ^ 36)
  | 3 => decide (recNat b 0 8 < 2 ^ 32)
  | _ => false)

/-- The byte offset part of BASE (R418); in a gang window, the whole window address. -/
def TileRec.start (r : TileRec) : Nat := if r.space = 0 then r.base % 2 ^ 48 else r.base % 2 ^ 32

/-- The handle index of a memory record (R33). -/
def TileRec.index (r : TileRec) : Nat := r.base / 2 ^ 48

/-- The OB handle of a record of SPACE 2. -/
def TileRec.obK (r : TileRec) : Nat := r.base / 2 ^ 32 % 16

/-- The form of a record on its own (R418, R419). -/
def tileOk (b : List Byte) : Bool :=
  let r := readTile b
  let w := fmtBits r.fmt
  let q := if w ≤ 8 then 1 else w / 8
  tileZeros b && decide (w ≠ 0 ∧ r.d0 ≠ 0 ∧ r.d1 ≠ 0 ∧ r.d2 ≠ 0) &&
  decide (r.start % q = 0 ∧ r.s1 % q = 0 ∧ r.s2 % q = 0) && !(decide (w = 4) && decide (r.d0 % 2 = 1))

/-- The rank of the issuing block (R408). -/
def Block.rank (s : State) (b : Block) : Nat := b.blockId / (s.gridRow b.grid).bpr

/-- The rank that a memory record names (R418). -/
def TileRec.rankOf (r : TileRec) (own : Nat) : Nat := if r.rank = 0xFFFF then own else r.rank

/-- Whether the RANK of a record that uses it is one of the grid (R418). -/
def rankGood (s : State) (b : Block) (r : TileRec) : Bool :=
  decide (r.space ≠ 0 ∨ r.rank = 0xFFFF ∨ r.rank < (s.gridRow b.grid).nranks)

/-- Whether a record lies in the memory of another chip (R420). -/
def isFar (s : State) (b : Block) (r : TileRec) : Bool :=
  decide (r.space = 0 ∧ s.rankPos b.grid (r.rankOf (Block.rank s b)) ≠ s.fab.pos)

/-- The valid columns and rows of a record (R419). -/
def TileRec.cols (r : TileRec) : Nat := if r.vc = 0 ∨ r.d0 ≤ r.vc then r.d0 else r.vc
def TileRec.rows (r : TileRec) : Nat := if r.vr = 0 ∨ r.d1 ≤ r.vr then r.d1 else r.vr

/-- The offset part of BASE within one scratchpad, reservation or region. -/
def TileRec.off (r : TileRec) : Nat := if r.space = 3 then r.start % 2 ^ 19 else r.start

/-- The bit at which a position's element starts, from byte 0 of the record's space (R419). -/
def TileRec.bitAt (r : TileRec) (x y z : Nat) : Nat := (r.off + y * r.s1 + z * r.s2) * 8 + x * fmtBits r.fmt

/-- Two records of one shape (R432, R434). -/
def sameShape (a b : TileRec) : Bool := decide (a.fmt = b.fmt ∧ a.d0 = b.d0 ∧ a.d1 = b.d1 ∧ a.d2 = b.d2)

/-- Step 7 of R417 for an operand in a gang window (R14, R17). -/
def windowGate (r : TileRec) (body : State → Out) (s : State) : Out :=
  if r.space ≠ 3 then body s
  else
    match windowFault s.issuingBlock r.start 1 false with
    | some c => engineTrap c.code r.start s
    | none => body s

/-! ### The command (R114, R115) -/

/-- An operation of the word being issued, as its command says it. -/
def newOp (s : State) (kind : EngKind) (cls : Nat) (src dst : TileRec) : EngineOp :=
  let g := s.issuing
  let ctx := s.issuingBlock.ctx
  { id := 0, kind := kind, cls := cls, group := s.iss.group, block := g.block, core := coreOf s.iss.group, ctx := ctx,
    cgen := s.cgen ctx, src := src, dst := dst, handle := 16, list := [], elems := [], summary := [], amx := 0, qsk := 0,
    typ := 0, stage := .queued, status := 0, targets := [], awaited := [], opnum := 0,
    image := [], imageBad := [], cargo := [], given := [], dead := false }

/-- The command takes its place in its retire queue and its group queue (R115, R114). -/
def placeCommand (o : EngineOp) (s : State) : State :=
  let k := s.iss.group
  let id := s.nextId
  let s := { s.fresh with ops := s.ops ++ [{ o with id := id }] }
  let g := s.group k
  let s := s.setGroup k { g with erq := g.erq ++ [{ cls := o.cls, op := id, finished := false, status := 0 }] }
  (s.placeEntry { baseEntry s k with op := .engine id, scope := 3 }).endInstr

/-- The OB handles that an operation names (R426); 16 names none. -/
def EngineOp.handles (o : EngineOp) : List Nat :=
  [o.handle] ++ (if o.src.space = 2 then [o.src.obK] else []) ++ (if o.dst.space = 2 then [o.dst.obK] else [])

end Sys2Proof.Machine
end

