-- ==== Sys2Proof/Machine/Matrix.lean ====
section
/-! DEFINITION. The operand buffer's reservations, the matrix unit, and the store of an accumulator (R268 to R275, R423 to
R431). -/

namespace Sys2Proof.Machine

/-! ### OBRES and OBREL (R423, R425, R426) -/

/-- The limits of a reservation record (R423). -/
def obRecordOk (b : List Byte) : Bool :=
  let n := recNat b
  decide (1 ≤ n 0 2 ∧ n 0 2 ≤ 192) && decide (fmtBits (n 2 1) ≠ 0 ∧ fmtBits (n 3 1) ≠ 0) &&
  decide (n 4 1 = 0 ∨ n 4 1 = 1 ∨ n 4 1 = 2 ∨ n 4 1 = 9) && decide (n 5 1 = 0 ∨ n 5 1 = 16 ∨ n 5 1 = 32 ∨ n 5 1 = 64) &&
  decide (n 6 1 < 4) && zeroBytes b 7 1 && decide (1 ≤ n 8 1 ∧ n 8 1 ≤ 64) && decide (1 ≤ n 9 1 ∧ n 9 1 ≤ 64) &&
  decide (1 ≤ n 10 1 ∧ n 10 1 ≤ 64) && zeroBytes b 11 1 && decide (n 20 4 % 16 = 0 ∧ n 24 4 % 16 = 0) && zeroBytes b 40 24

/-- The lowest run of `n` consecutive free granules of a block (R425). -/
def Block.obRun (b : Block) (n : Nat) : Option Nat :=
  (List.range (b.obg + 1)).find? (fun i => decide (i + n ≤ b.obg) &&
    b.handles.all (fun h => !rangesMeet h.2.start h.2.gran i n))

/-- Granules filled with zeros, every sector clean (R425). -/
def Block.obZero (b : Block) (start gran : Nat) : Block :=
  let lo := start * 4096
  let hi := lo + gran * 4096
  { b with ob := b.ob.filter (fun c => decide (c.1 < lo ∨ hi ≤ c.1)),
           obBad := b.obBad.filter (fun t => decide (t * 32 < lo ∨ hi ≤ t * 32)) }

/-- A handle with its record (R425); none for the case that traps. -/
def Block.reserve (b : Block) (k : Nat) (bytes : List Byte) : Option Block :=
  let n := recNat bytes 0 2
  match b.handle k with
  | some h => if h.gran = n then some { b with handles := insKey b.handles k { h with record := bytes } } else none
  | none =>
    match b.obRun n with
    | some i => some { b.obZero i n with handles := insKey b.handles k { start := i, gran := n, record := bytes } }
    | none => none

def execObres (k : Nat) (a : Src) (s : State) : Out :=
  engineGate none false (uniUses none [a]) [a] (fun xs s s' =>
    let o := recOff xs 0
    recordGate [o] (fun bs =>
      let r := bs.headD []
      if !obRecordOk r then obTrap o s
      else
        match s'.issuingBlock.reserve k r with
        | some b => .next ((s'.setBlock s'.issuing.block b).advance)
        | none => obTrap o s) s) s

def execObrel (k : Nat) (s : State) : Out :=
  engineGate none false noUses [] (fun _ s s' =>
    let bk := s.issuing.block
    let b := s.issuingBlock
    if (b.handle k).isNone then obTrap 0 s
    else if s.ops.any (fun o => decide (o.block = bk) && o.handles.contains k) then hold .counterFull s
    else .next ((s'.setBlock bk { b with handles := delKey b.handles k }).advance)) s

/-! ### Fragments and operands (R269, R270, R424) -/

/-- Element k of a lane's fragment of elements of `w` bits in consecutive registers (R269, R270). -/
def fragElem (regs : Nat → Word) (w k : Nat) : Nat := (regs (k * w / 32)).toNat / 2 ^ (k * w % 32) % 2 ^ w

/-- Element e of an operand of elements of `w` bits at an offset of the reservation (R424). -/
def obElem (ob : List Host.Cell) (off w e : Nat) : Nat :=
  readNat ob (off + e * w / 8) ((w + 7) / 8) / 2 ^ (e * w % 8) % 2 ^ w

/-- Whether formats and accumulator form a row of R271. -/
def mmaRow (a b acc : Nat) : Bool :=
  let fp8 := fun x => decide (x = 3 ∨ x = 4)
  let alike := decide (a = b) && decide (a = 5 ∨ a = 6 ∨ a = 1 ∨ a = 2)
  if acc = 9 then decide (a = 7 ∧ b = 7)
  else (fp8 a && fp8 b) || alike || (decide (a = 0 ∧ b = 0 ∧ acc = 0))

/-- The substitute for an accumulator register (R62), by the accumulator's format. -/
def substitute (acc : Nat) : Word :=
  match acc with
  | 0 => 0x7FC00000
  | 1 => 0x7E007E00
  | 2 => 0x7FC07FC0
  | _ => 0x80000000

/-- The number of registers of a group of 64 elements of `w` bits. -/
def fragRegs (w : Nat) : Nat := 2 * w

/-- The registers of a group in every live lane, by (register, lane). -/
def fragUses (g : Group) (base n : Nat) : List (Nat × Nat) :=
  g.liveLanes.flatMap (fun l => (List.range n).map (fun i => (base + i, l)))

/-! ### The arithmetic (R272 to R274) -/

/-- A value times 2^(code − 127), exactly; a code of 0xFF is NaN (R272). -/
def scaleBy (code : Nat) : FVal → FVal
  | .num neg m e => if code = 0xFF then .nan else .num neg m (e + code - 127)
  | .inf neg => if code = 0xFF then .nan else .inf neg
  | .nan => .nan

/-- A finite value of 2^128 or above as Inf (R272). -/
def capBlock : FVal → FVal
  | .num neg m e => if 2 ^ 128 ≤ m * 2 ^ e.toNat ∧ 0 ≤ e ∨ e < 0 ∧ 2 ^ 128 * 2 ^ (-e).toNat ≤ m then .inf neg else .num neg m e
  | x => x

/-- The exact sum of a block's products (R272): −0 only when every product is −0. -/
def blockSum (a b : Nat → FVal) (lo : Nat) : Nat → FVal
  | 0 => .num true 0 0
  | n + 1 => fAdd false (blockSum a b lo n) (fMul (a (lo + n)) (b (lo + n)))

/-- C[i][j] over blocks of length `len` (R272); `sc` gives a block's two scale codes. -/
def mmaFloat (acc len : Nat) (a b : Nat → FVal) (sc : Nat → Nat × Nat) (start : Nat) : Nat :=
  (List.range (64 / len)).foldl (fun c i =>
    let v := capBlock (scaleBy (sc i).2 (scaleBy (sc i).1 (blockSum a b (i * len) len)))
    roundTo acc 0 false 0 (fAdd false (valueOf acc c) v)) start

/-- The i8 product, which wraps (R272). -/
def mmaInt (a b : Nat → Int) (start : Nat) : Nat :=
  (((List.range 64).foldl (fun t k => t + a k * b k) (start : Int)) % 2 ^ 32).toNat

/-- What one MMA reads: the record of its handle, its operands' codes, the start value of each element, and the K positions whose A elements are 0
because their lane has exited. -/
structure MmaIn where
  vk : Nat
  gone : Nat → Bool
  acc : Nat
  len : Nat
  af : Nat
  bf : Nat
  a : Nat → Nat → Nat
  b : Nat → Nat → Nat
  sa : Nat → Nat → Nat
  sb : Nat → Nat → Nat
  start : Nat → Nat → Nat

/-- The operand at a K position: +0 beyond the record's valid count and where its lane is gone, whatever value code 0 stands for (R272, R428). -/
def MmaIn.value (m : MmaIn) (fmt k : Nat) (gone : Bool) (code : Nat) : FVal := if m.vk ≤ k ∨ gone = true then .num false 0 0 else valueOf fmt code

/-- The new value of C[i][j] (R428). -/
def MmaIn.elem (m : MmaIn) (i j : Nat) : Nat :=
  if m.acc = 9 then mmaInt (fun k => signedOf 8 (m.a i k)) (fun k => signedOf 8 (m.b k j)) (m.start i j)
  else mmaFloat m.acc m.len (fun k => m.value m.af k (m.gone k) (m.a i k)) (fun k => m.value m.bf k false (m.b k j))
    (fun i' => (m.sa i i', m.sb j i')) (m.start i j)

/-- The word of accumulator register n of row i, with the columns below VCOLS new. -/
def MmaIn.word (m : MmaIn) (cols i n : Nat) (old : Word) : Word :=
  if fmtBits m.acc = 32 then BitVec.ofNat 32 (m.elem i n)
  else
    let half := fun h => if 2 * n + h < cols then m.elem i (2 * n + h) else old.toNat / 2 ^ (16 * h) % 2 ^ 16
    BitVec.ofNat 32 (half 0 + half 1 * 2 ^ 16)

/-! ### MMA (R427, R428) -/

/-- The byte ranges of the reservation that an MMA uses (R424): B, A when it is in the OB, and the scale tables in use. -/
def mmaRanges (rec : List Byte) (aob : Bool) : List (Nat × Nat) :=
  let n := recNat rec
  let len := if n 5 1 = 0 then 32 else n 5 1
  let table := fun o => if n o 4 = 0xFFFFFFFF ∨ n 4 1 = 9 then [] else [(n o 4, 64 * (64 / len))]
  [(n 24 4, 512 * fmtBits (n 3 1))] ++ (if aob then [(n 20 4, 512 * fmtBits (n 2 1))] else []) ++ table 28 ++ table 32

/-- What the MMA reads, from the state at its issue (R428, R429). -/
def mmaIn (s : State) (h : ObHandle) (c a : Nat) (ta tb aob za : Bool) : MmaIn :=
  let g := s.issuing
  let ob := s.issuingBlock.ob
  let n := recNat h.record
  let acc := n 4 1
  let len := if n 5 1 = 0 then 32 else n 5 1
  let tA := ta != decide (n 6 1 / 2 % 2 = 1)
  let tB := tb != decide (n 6 1 % 2 = 1)
  let vk := n 10 1
  let gone := fun k => !aob && ta && !g.live k
  let frag := fun l k => fragElem (fun r => readV s g 0 (a + r) l) (fmtBits (n 2 1)) k
  let aElem := fun i k =>
    if vk ≤ k then 0
    else if aob then obElem ob (h.base + n 20 4) (fmtBits (n 2 1)) (if tA then k * 64 + i else i * 64 + k)
    else if ta then (if gone k then 0 else frag k i)
    else frag i k
  let bElem := fun k j =>
    if vk ≤ k then 0
    else obElem ob (h.base + n 24 4) (fmtBits (n 3 1)) (if tB then j * 64 + k else k * 64 + j)
  let scale := fun o i b => if n o 4 = 0xFFFFFFFF then 127 else (readByte ob (h.base + n o 4 + i * (64 / len) + b)).toNat
  let start := fun i j => if za then 0 else fragElem (fun r => readV s g 1 (c + r) i) (fmtBits acc) j
  { vk := vk, gone := gone, acc := acc, len := len, af := n 2 1, bf := n 3 1, a := aElem, b := bElem, sa := scale 28, sb := scale 32, start := start }

/-- The bytes of the reservation that an MMA reads (R428, R424): the elements with K below VK and columns below VCOLS, for the live rows below VROWS,
and the scales of those rows and columns, of every block (R272). -/
def mmaReads (rec : List Byte) (live : List Nat) (ta tb aob : Bool) : List (Nat × Nat) :=
  let n := recNat rec
  let nb := 64 / (if n 5 1 = 0 then 32 else n 5 1)
  let tA := ta != decide (n 6 1 / 2 % 2 = 1)
  let tB := tb != decide (n 6 1 % 2 = 1)
  let rows := live.filter (fun i => decide (i < n 8 1))
  let cols := List.range (n 9 1)
  let ks := List.range (n 10 1)
  let elem := fun o w (t : Bool) x y => (o + (if t then y * 64 + x else x * 64 + y) * w / 8, (w + 7) / 8)
  let table := fun o (xs : List Nat) => if n o 4 = 0xFFFFFFFF ∨ n 4 1 = 9 then [] else xs.map (fun x => (n o 4 + x * nb, nb))
  if rows = [] ∨ cols = [] then []
  else
    (if aob then rows.flatMap (fun i => ks.map (fun k => elem (n 20 4) (fmtBits (n 2 1)) tA i k)) else []) ++
    ks.flatMap (fun k => cols.map (fun j => elem (n 24 4) (fmtBits (n 3 1)) tB k j)) ++ table 28 rows ++ table 32 cols

/-- The status bits of the errors that an MMA meets (R62, R79, R80). -/
def mmaErrors (s : State) (h : ObHandle) (c : Nat) (ta tb aob za : Bool) : DWord :=
  let g := s.issuing
  let n := fragRegs (fmtBits (recNat h.record 4 1))
  let parity := g.bad.contains .obRead ||
    s.issuingBlock.obBad.any (fun x => (mmaReads h.record g.liveLanes ta tb aob).any (fun r => (sectorsOf (h.base + r.1) r.2).contains x))
  let ecc := !za && (g.bad.contains .accumulator || (fragUses g c n).any (fun x => g.bad.contains (.lane x.2 x.1)))
  (if parity then stObParity else 0) ||| (if g.bad.contains .array then stResidue else 0) ||| (if ecc then stAccEcc else 0)

/-- The accumulator written for the live rows below VROWS (R428), or with the substitutes throughout (R82). Half a register that is not written keeps
what the register holds. -/
def mmaWrite (s : State) (m : MmaIn) (rows cols c : Nat) (bad : DWord) : State :=
  let g := s.issuing
  let n := fragRegs (fmtBits m.acc)
  let put := fun (x : Nat → Nat → Word) (ls : List Nat) (rs : List Nat) =>
    ls.foldl (fun h l => rs.foldl (fun h r => h.putV s.clock 0 (c + r) l (x l r)) h) g
  let g' :=
    if bad ≠ 0 then put (fun _ _ => substitute m.acc) g.liveLanes (List.range n)
    else put (fun l r => m.word cols l r (g.vreg (c + r) l)) (g.liveLanes.filter (fun l => decide (l < rows)))
      (List.range (if n = 64 then cols else (cols + 1) / 2))
  let keep := fun x => decide (x ≠ BadReg.obRead ∧ x ≠ BadReg.array ∧ x ≠ BadReg.accumulator)
  s.setGroup s.iss.group ({ g' with bad := g'.bad.filter keep }.setMerr bad)

/-- The registers that MMA uses, by the record of its handle. -/
def mmaUses (s : State) (c a k : Nat) (aob za : Bool) : Uses :=
  match s.issuingBlock.handle k with
  | none => noUses
  | some h =>
    let w := fmtBits (recNat h.record 4 1)
    let acc := fragUses s.issuing c (fragRegs w)
    { noUses with
      readV := if aob then [] else fragUses s.issuing a (fragRegs (fmtBits (recNat h.record 2 1))),
      writeV := acc, readAcc := if za then [] else acc, late := true }

def execMma (c a k : Nat) (ta tb aob za : Bool) (s : State) : Out :=
  engineGate none true (mmaUses s c a k aob za) [] (fun _ s s' =>
    match s.issuingBlock.handle k with
    | none => obTrap 0 s
    | some h =>
      let n := recNat h.record
      let nc := fragRegs (fmtBits (n 4 1))
      let na := if aob then 0 else fragRegs (fmtBits (n 2 1))
      if 128 < c + nc ∨ 128 < a + na ∨ rangesMeet a na c nc = true then illegalUni s
      else
        shortGate (mmaUses s c a k aob za) (fun s =>
          if !mmaRow (n 2 1) (n 3 1) (n 4 1) then obTrap 0 s
          else if (mmaRanges h.record aob).any (fun r => decide (h.length < r.1 + r.2)) then obTrap 0 s
          else .next ((mmaWrite s' (mmaIn s h c a ta tb aob za) (n 8 1) (n 9 1) c (mmaErrors s h c ta tb aob za)).advance)) s) s

/-! ### MST (R430, R431) -/

/-- The summary objects that a reservation record names, by their offsets; 0 names none (R423). -/
def summaryOffs (rec : List Byte) : Nat × Nat := (recNat rec 36 2 * 64, recNat rec 38 2 * 64)

/-- The placement of a summary object in the issuing block's scratchpad (R374); 0 names none. -/
def objectPlaced (b : Block) (off size : Nat) : Bool := decide (off = 0 ∨ 0x300 ≤ off ∧ off + size ≤ b.scr)

/-- The registers that MST reads. -/
def mstUses (s : State) (c k : Nat) (d : Src) : Uses :=
  match s.issuingBlock.handle k with
  | none => uniUses none [d]
  | some h => { uniUses none [d] with readAcc := fragUses s.issuing c (fragRegs (fmtBits (recNat h.record 4 1))), late := true }

/-- The elements that MST gives, in ascending row and then column: the position, the exact value and the rounded code. -/
def mstElems (s : State) (h : ObHandle) (c mode fmt : Nat) (sat t bad : Bool) : List (Nat × Nat × FVal × Nat) :=
  let g := s.issuing
  let n := recNat h.record
  let acc := n 4 1
  let w := fmtBits acc
  let scale := fMul (valueOf 0 (n 12 4)) (valueOf 0 (n 16 4))
  let reg := fun l r => if bad then substitute acc else readV s g 0 (c + r) l
  (g.liveLanes.filter (fun i => decide (i < n 8 1))).flatMap (fun i =>
    (List.range (n 9 1)).map (fun j =>
      let v := fMul scale (valueOf acc (fragElem (reg i) w j))
      let u := srCoin g.mode s.iss.pc i ((g.lane i).sr + BitVec.ofNat 32 j)
      let p := if t then (i, j) else (j, i)
      (p.1, p.2, v, roundTo fmt mode sat u v)))

/-- The SR counts of the rows advance with every element (R265, R430). -/
def Group.advanceSr (g : Group) (rows cols : Nat) : Group :=
  g.mapLanes (fun _ x => { x with sr := x.sr + BitVec.ofNat 32 cols }) (g.liveLanes.filter (fun i => decide (i < rows)))

/-- The operation of an MST, with what it read of the lanes. -/
def mstOp (s : State) (h : ObHandle) (r : TileRec) (k : Nat) (es : List (Nat × Nat × FVal × Nat)) : EngineOp :=
  let moved := es.filter (fun e => decide (e.1 < r.cols ∧ e.2.1 < r.rows))
  { newOp s .mst 2 r r with
    handle := k, elems := moved.map (fun e => (e.1, e.2.1, e.2.2.2)), summary := moved.map (fun e => rne32 e.2.2.1),
    amx := (summaryOffs h.record).1, qsk := (summaryOffs h.record).2 }

/-- The group after MST has read it: SR counts, and ACC_ECC in MERR when an accumulator register was bad (R79). -/
def mstGroup (g : Group) (sr bad : Bool) (rows cols : Nat) : Group :=
  let g := if sr then g.advanceSr rows cols else g
  if bad then { g with bad := g.bad.filter (fun x => decide (x ≠ BadReg.accumulator)) }.setMerr stAccEcc else g

def execMst (c : Nat) (d : Src) (k rnd : Nat) (sat t : Bool) (s : State) : Out :=
  engineGate (some 2) true (mstUses s c k d) [d] (fun xs s s' =>
    let o := recOff xs 0
    recordGate [o] (fun bs =>
      let b := s.issuingBlock
      let r := readTile (bs.headD [])
      match b.handle k with
      | none => obTrap 0 s
      | some h =>
        let n := recNat h.record
        let nc := fragRegs (fmtBits (n 4 1))
        let objs := summaryOffs h.record
        if 128 < c + nc then illegalUni s
        else
          shortGate (mstUses s c k d) (fun s =>
            if !tileOk (bs.headD []) || decide (2 < r.space ∨ r.d2 ≠ 1) || !rankGood s b r then obTrap o s
            else if !objectPlaced b objs.1 SkKind.amx.size || !objectPlaced b objs.2 SkKind.qsk.size then obTrap o s
            else
              let g := s.issuing
              let bad := g.bad.contains .accumulator || (fragUses g c nc).any (fun x => g.bad.contains (.lane x.2 x.1))
              let mode := if rnd = 5 then g.mode.toNat % 8 else rnd
              let es := mstElems s h c mode r.fmt sat t bad
              let s' := s'.setGroup s'.iss.group (mstGroup s'.issuing (decide (mode = 4)) bad (n 8 1) (n 9 1))
              .next ((placeCommand (mstOp s h r k es) s').advance)) s) s) s

end Sys2Proof.Machine
end

