-- ==== Sys2Proof/Machine/UniEngine.lean ====
section
/-! DEFINITION. COPY, GATHER, TILEX, SKMERGE, SKINIT and the summary reads, up to the point where the command leaves for
its engine (R432 to R438). -/

namespace Sys2Proof.Machine

/-! ### COPY and GATHER (R432, R433) -/

def execCopy (a d : Src) (s : State) : Out :=
  engineGate (some 0) false (uniUses none [a, d]) [a, d] (fun xs s s' =>
    let so := recOff xs 0
    let p := recOff xs 1
    recordGate [so, p] (fun bs =>
      let b := s.issuingBlock
      let x := readTile (bs.getD 0 [])
      let y := readTile (bs.getD 1 [])
      if !tileOk (bs.getD 0 []) || !rankGood s b x then obTrap so s
      else if !tileOk (bs.getD 1 []) || !rankGood s b y then obTrap p s
      else if !sameShape x y || (isFar s b x && isFar s b y) then obTrap so s
      else windowGate x (windowGate y (fun s => .next ((placeCommand (newOp s .copy 0 x y) s').advance))) s) s) s

/-- The checks of the index list of GATHER (R433). -/
def listGate (c n : Nat) (body : State → Out) (s : State) : Out :=
  if c % 4 ≠ 0 then engineTrap tMisaligned c s
  else if c < 0x300 ∨ s.issuingBlock.scr < c + 4 * n then engineTrap tProtection c s
  else body s

def execGather (a d i : Src) (s : State) : Out :=
  engineGate (some 0) false (uniUses none [a, d, i]) [a, d, i] (fun xs s s' =>
    let so := recOff xs 0
    let p := recOff xs 1
    recordGate [so, p] (fun bs =>
      let b := s.issuingBlock
      let x := readTile (bs.getD 0 [])
      let y := readTile (bs.getD 1 [])
      if !tileOk (bs.getD 0 []) || !rankGood s b x || decide (x.d2 ≠ 1 ∨ x.space = 2 ∨ x.space = 3) then obTrap so s
      else if !tileOk (bs.getD 1 []) || !rankGood s b y || decide (y.d2 ≠ 1 ∨ y.space = 3) || isFar s b y then obTrap p s
      else if x.fmt ≠ y.fmt ∨ x.d0 ≠ y.d0 then obTrap so s
      else listGate (recOff xs 2) y.rows (fun s =>
        .next ((placeCommand { newOp s .gather 0 x y with list := [recOff xs 2] } s').advance)) s) s) s

/-! ### TILEX (R434, R435) -/

/-- The combinations of RED, C4, RSLOT and format that R435 allows. -/
def tilexForm (r : TileRec) : Bool :=
  let slot := decide (r.rslot / 2 ^ 15 = 1)
  let wide := decide (r.fmt = 0 ∨ r.fmt = 2)
  if slot then decide (r.red ≠ 0 ∧ r.rmask = 0) && wide
  else if r.c4 then decide (r.red = 1) && wide
  else decide (r.red = 0) || decide (r.fmt = 0 ∨ r.fmt = 1 ∨ r.fmt = 2 ∨ r.fmt = 9 ∨ r.fmt = 12)

/-- The ranks that a TILEX sends to (R434). -/
def tilexTargets (r : TileRec) (own dz : Nat) : List Nat :=
  let wrap := fun (v : Nat) (d : Int) (n : Nat) => (((v : Int) + d) % n).toNat
  let x := wrap (own % r.dx) r.gx r.dx
  let y := wrap (own / r.dx % r.dy) r.gy r.dy
  let z := wrap (own / (r.dx * r.dy)) r.gz dz
  let rank := fun x y z => x + r.dx * (y + r.dy * z)
  if r.rmask = 0 then [rank x y z]
  else ((List.range 64).filter (fun p => r.rmask / 2 ^ p % 2 = 1)).map (fun p =>
    if r.raxis = 0 then rank p y z else if r.raxis = 1 then rank x p z else rank x y p)

/-- The conditions on the destination record of a TILEX (R434). -/
def tilexDst (r : TileRec) (nranks : Nat) : Bool :=
  let dz := nranks / (r.dx * r.dy)
  let top := if r.raxis = 0 then r.dx else if r.raxis = 1 then r.dy else dz
  decide (r.space = 0 ∧ 1 ≤ r.dx ∧ r.dx ≤ 1024 ∧ 1 ≤ r.dy ∧ r.dy ≤ 1024 ∧ nranks % (r.dx * r.dy) = 0 ∧ r.raxis < 3) &&
  decide (r.rmask / 2 ^ top = 0) && tilexForm r

def execTilex (a d : Src) (s : State) : Out :=
  engineGate (some 1) false (uniUses none [a, d]) [a, d] (fun xs s s' =>
    let so := recOff xs 0
    let p := recOff xs 1
    recordGate [so, p] (fun bs =>
      let b := s.issuingBlock
      let x := readTile (bs.getD 0 [])
      let y := readTile (bs.getD 1 [])
      let own := Block.rank s b
      let n := (s.gridRow b.grid).nranks
      let near := decide (x.space = 1 ∨ x.space = 2 ∨ x.space = 0 ∧ x.rankOf own = own)
      if !tileOk (bs.getD 0 []) || !rankGood s b x || !near then obTrap so s
      else if !tileOk (bs.getD 1 []) || !tilexDst y n then obTrap p s
      else if !sameShape x y then obTrap so s
      else
        let o := { newOp s .tilex 1 x y with targets := tilexTargets y own (n / (y.dx * y.dy)) }
        .next ((placeCommand o s').advance)) s) s

/-! ### SKMERGE (R437) -/

/-- The form of one record of SKMERGE (R437). -/
def mergeRecord (s : State) (b : List Byte) : Bool :=
  let r := readTile b
  tileZeros b && rankGood s s.issuingBlock r && decide (r.space ≠ 2 ∧ r.start % 64 = 0)

def execSkmerge (a d : Src) (s : State) : Out :=
  engineGate (some 3) true (uniUses none [a, d]) [a, d] (fun xs s s' =>
    let so := recOff xs 0
    let p := recOff xs 1
    recordGate [so, p] (fun bs =>
      let b := s.issuingBlock
      let x := readTile (bs.getD 0 [])
      let y := readTile (bs.getD 1 [])
      if !mergeRecord s (bs.getD 0 []) then obTrap so s
      else if !mergeRecord s (bs.getD 1 []) then obTrap p s
      else if isFar s b x && isFar s b y then obTrap so s
      else windowGate x (windowGate y (fun s => .next ((placeCommand (newOp s .skmerge 3 x y) s').advance))) s) s) s

/-! ### Objects in the scratchpad and the gang window (R436, R438) -/

/-- The traps of R436 for an object, with `space` 1 for the gang window; one that is written lies in no member's control area either, frozen or not
(R60, log 58). -/
def objectFault (b : Block) (space o size : Nat) (write : Bool) : Option Nat :=
  if o % 64 ≠ 0 then some tMisaligned
  else if space = 0 then (if o < 0x300 ∨ b.scr < o + size then some tProtection else none)
  else (windowFault { b with frozen := false } o size write).map Cond.code

/-- Where an object lies. -/
def objectTarget (s : State) (space o : Nat) : Target :=
  let k := s.issuing.block
  let b := s.issuingBlock
  if space = 0 then .bank k o
  else
    let m := b.member (o / 2 ^ 19)
    if b.gsz ≤ 1 ∨ o / 2 ^ 19 = b.gangIdx then .bank k (o % 2 ^ 19)
    else if m.pos = s.fab.pos then .bank m.block (o % 2 ^ 19)
    else .remote m.pos true o

/-- SKINIT (R436): one store entry at the space's default scope. To another chip its message carries the seed and the
kind. -/
def execSkinit (a seed : Src) (space kind : Nat) (s : State) : Out :=
  engineGate none false (uniUses none [a, seed]) [a, seed] (fun xs s s' =>
    let o := recOff xs 0
    let k := skKindOf kind
    let v := (xs.getD 1 0).toNat
    match objectFault s.issuingBlock space o k.size true with
    | some code => engineTrap code o s
    | none =>
      let scope := if space = 0 then 2 else 4
      let e : Entry := { baseEntry s' s'.iss.group with
        op := .skinit k v, target := objectTarget s space o, addr := o, size := k.size, scope := scope, dscope := scope,
        data := v + kind * 2 ^ 64, wcode := 4, opc := 0xC7 }
      .next (((s'.placeEntry e).endInstr).advance)) s

/-- The loads of 16 bytes that read an object of another chip over the win flow (R438). -/
def placeObjectReads (pos o opc id : Nat) : Nat → Nat → State → State
  | 0, _, s => s
  | n + 1, i, s =>
    let e := baseEntry s s.iss.group
    let e := { e with
      op := .load, target := .remote pos true (o + 16 * i), addr := o, size := 16, off := 16 * i, sub := i,
      res := some id, scope := 4, dscope := 4, wcode := 4, opc := opc, data2 := (if i = 0 then 8 else 0) + id % 2 ^ 32 * 2 ^ 32 }
    placeObjectReads pos o opc id n (i + 1) (s.placeEntry e)

/-- The object's bytes, when they have all come from another chip. -/
def heldObject (g : Group) : Option PendRes := g.results.find? (fun r => decide (r.dst = .held))

/-- The object judged and read (R300, R278). -/
def readObject (k : SkKind) (o : Nat) (bytes : List Byte) (body : List Byte → State → Out) (s : State) : Out :=
  if wellFormed k bytes then body bytes s else engineTrap tSummary o s

/-- The wait for an object of another chip (R438): its reads go out once, and the word issues when they are back. -/
def remoteObject (k : SkKind) (pos o opc : Nat) (body : List Byte → State → Out) (s : State) : Out :=
  let g := s.issuing
  match heldObject g with
  | none =>
    let id := s.nextId
    let n := k.size / 16
    let s := (placeObjectReads pos o opc id n 0 (s.addResult .held k.size n)).endInstr
    hold .store s
  | some r =>
    if r.left ≠ 0 then hold .store s
    else
      let s := s.setGroup s.iss.group { g with results := g.results.filter PendRes.awaited }
      readObject k o (bytesLE k.size r.value) body s

/-- The bytes of an object, after the traps of R436, a peer's departure (R461), and the wait for the group's earlier inserts (R374, R438). -/
def objectGate (k : SkKind) (space o opc : Nat) (body : List Byte → State → Out) (s : State) : Out :=
  match objectFault s.issuingBlock space o k.size false with
  | some code => engineTrap code o s
  | none =>
    match objectTarget s space o with
    | .bank bk off =>
      let b := s.block bk
      if !b.resident || !b.started then engineTrap tWindowDeparted o s
      else if bankBusy s bk off k.size then hold .store s
      else if poisoned b.spadBad off k.size then engineTrap tPoison o s
      else readObject k o (readBytes b.spad off k.size) body s
    | .remote pos _ _ => remoteObject k pos o opc body s
    | _ => .next s

/-- A read of an object (R438): the result, and for SKHRD a second register. -/
def summaryRead (k : SkKind) (opc : Nat) (d : Dst) (more : List Nat) (srcs : List Src) (space : Nat)
    (f : List Byte → List DWord → DWord × DWord) (s : State) : Out :=
  let u := uniUses (some d) srcs
  engineGate none true { u with writeS := u.writeS ++ more } srcs (fun xs s _ =>
    objectGate k space (recOff xs 0) opc (fun bytes s =>
      let (xs, s') := readUs srcs s
      let v := f bytes xs
      .next ((more.foldl (fun s n => putU (.reg n) v.2 s) (putU d v.1 s')).advance)) s) s

def execSkqrd (d : Dst) (o q : Src) (space : Nat) (s : State) : Out :=
  summaryRead .qsk 0xC4 d [] [o, q] space (fun b xs => ((qskRead b ((xs.getD 1 0).truncate 32)).zeroExtend 64, 0)) s

/-- The register after a uniform destination. -/
def pairOf (d : Dst) : List Nat :=
  match d with
  | .reg n => [n + 1]
  | .push _ => []

def execSkhrd (d : Dst) (o j : Src) (space : Nat) (s : State) : Out :=
  summaryRead .hhl 0xC5 d (pairOf d) [o, j] space (fun b xs =>
    let r := hhlRead b (xs.getD 1 0).toNat
    (BitVec.ofNat 64 (r.1 + r.2.1 * 2 ^ 32), BitVec.ofNat 64 r.2.2)) s

def execSkdrd (d : Dst) (o : Src) (space : Nat) (s : State) : Out :=
  summaryRead .dcr 0xC6 d [] [o] space (fun b _ => ((dcrRead b).zeroExtend 64, 0)) s

/-- SKARD (R438): AMAX and NANSEEN. -/
def execSkard (d : Dst) (o : Src) (space : Nat) (s : State) : Out :=
  summaryRead .amx 0xC8 d [] [o] space (fun b _ => (BitVec.ofNat 64 (recNat b 4 4 + recNat b 1 1 % 2 * 2 ^ 32), 0)) s

end Sys2Proof.Machine
end

