-- ==== Sys2Proof/Machine/Engine.lean ====
section
/-! DEFINITION. The engines' data: where operands lie, their extents, their bytes and poison, what an operation moves, and
how it goes to another chip (R35, R36, R78, R111 to R115, R151, R154, R419, R420). -/

namespace Sys2Proof.Machine

/-! ### Operands (R33, R36, R419, R420) -/

/-- Where an operand lies: a scratchpad of this chip, the block's operand buffer, a region of this chip, memory of another
chip, a gang member's scratchpad on another chip, or a member that is no longer resident. -/
inductive Loc where
  | spad (block : Nat)
  | ob (block base : Nat)
  | mem (ctx index : Nat)
  | away (pos : Nat)
  | window (pos member : Nat)
  | gone

/-- A handle entry (R33). -/
def State.handle (s : State) (ctx i : Nat) : HandleEnt := getKey HandleEnt.empty s.handles (ctx * 4096 + i)

def State.setHandle (s : State) (ctx i : Nat) (h : HandleEnt) : State :=
  { s with handles := setKey HandleEnt.empty s.handles (ctx * 4096 + i) h }

/-- The physical address behind an offset of a region (R33). -/
def HandleEnt.pa (h : HandleEnt) (off : Nat) : Nat :=
  let va := h.base + off
  match h.pins.find? (fun p => decide (p.va = va / 2 ^ p.bits * 2 ^ p.bits)) with
  | some p => p.pa + va % 2 ^ p.bits
  | none => 0

/-- A byte range of a region as runs of physical addresses, cut at every 4 KiB, the smallest page. -/
def HandleEnt.runs (h : HandleEnt) (off n : Nat) : List (Nat × Nat) :=
  let first := (h.base + off) / 4096
  (List.range ((h.base + off + n + 4095) / 4096 - first)).map (fun i =>
    let lo := max (h.base + off) ((first + i) * 4096)
    let hi := min (h.base + off + n) ((first + i + 1) * 4096)
    (h.pa (lo - h.base), hi - lo))

/-- Where a record's operand lies, for rank `rank` when it is in memory. -/
def State.place (s : State) (o : EngineOp) (r : TileRec) (rank : Nat) : Loc :=
  let b := s.block o.block
  match r.space with
  | 0 =>
    let pos := s.rankPos b.grid rank
    if pos = s.fab.pos then .mem o.ctx r.index else .away pos
  | 1 => .spad o.block
  | 2 => .ob o.block (((b.handle r.obK).map ObHandle.base).getD 0)
  | _ =>
    let i := r.start / 2 ^ 19
    let m := b.member i
    if b.gsz ≤ 1 ∨ i = b.gangIdx then .spad o.block
    else if m.pos ≠ s.fab.pos then .window m.pos i
    else if (s.block m.block).resident && (s.block m.block).started then .spad m.block
    else .gone

/-- The rank of the block that issued an operation. -/
def State.opRank (s : State) (o : EngineOp) : Nat := Block.rank s (s.block o.block)

/-- Where an operation's source and destination lie; a packet's copy names its destination's position (R236). -/
def State.srcLoc (s : State) (o : EngineOp) : Loc :=
  if o.kind = .hostcopy then .mem o.ctx o.src.index else s.place o o.src (o.src.rankOf (s.opRank o))
def State.dstLoc (s : State) (o : EngineOp) : Loc :=
  if o.kind = .hostcopy then
    (if o.targets.headD 0 = s.fab.pos then .mem o.ctx o.dst.index else .away (o.targets.headD 0))
  else s.place o o.dst (o.dst.rankOf (s.opRank o))

/-! ### Extents (R35, R419, R60) -/

/-- One past the last byte of the highest moved position (R419). -/
def TileRec.last (r : TileRec) : Nat :=
  (r.bitAt (r.cols - 1) (r.rows - 1) (r.d2 - 1) + fmtBits r.fmt + 7) / 8

/-- The extent check of a region of this chip (R35). -/
def handleStatus (h : HandleEnt) (index hi : Nat) (write : Bool) : DWord :=
  if index = 0 ∨ 4096 ≤ index ∨ h.st ≠ .live ∨ (write = true ∧ h.wr = false) ∨ (write = false ∧ h.rd = false) then stHandle
  else if h.length < hi then stBounds else 0

/-- The status of an operand whose bytes run from `lo` to `hi`; memory of another chip is judged there (R419, R459). -/
def State.extent (s : State) (o : EngineOp) (r : TileRec) (l : Loc) (lo hi : Nat) (write : Bool) : DWord :=
  let b := s.block o.block
  let spad := fun size => if size < hi ∨ (write = true ∧ lo < 0x300) then stBounds else 0
  match l with
  | .mem ctx index => handleStatus (s.handle ctx index) index hi write
  | .away pos => if s.fab.fenced.contains pos then stFenced else 0
  | .gone => stFenced
  | .window pos i => if s.fab.fenced.contains pos then stFenced else spad (b.member i).alloc
  | .spad bk => spad (if bk = o.block then b.scr else (b.member (r.start / 2 ^ 19)).alloc)
  | .ob _ _ =>
    match b.handle r.obK with
    | none => stHandle
    | some h => if h.length < hi then stBounds else 0

/-- The status of a tile operand (R419). -/
def State.tileExtent (s : State) (o : EngineOp) (r : TileRec) (l : Loc) (write : Bool) : DWord :=
  s.extent o r l r.off r.last write

/-! ### Bytes and poison -/

def State.locByte (s : State) (l : Loc) (a : Nat) : Byte :=
  match l with
  | .spad b => readByte (s.block b).spad a
  | .ob b base => readByte (s.block b).ob (base + a)
  | .mem ctx i => readByte s.mem ((s.handle ctx i).pa a)
  | _ => 0

def State.locBytes (s : State) (l : Loc) (a n : Nat) : List Byte := (List.range n).map (fun i => s.locByte l (a + i))

def State.locBad (s : State) (l : Loc) (a n : Nat) : Bool :=
  match l with
  | .spad b => poisoned (s.block b).spadBad a n
  | .ob b base => poisoned (s.block b).obBad (base + a) n
  | .mem ctx i => (List.range n).any (fun j => poisoned s.poison ((s.handle ctx i).pa (a + j)) 1)
  | _ => false

/-- Bytes written at an operand, firing watches (R117). -/
def State.locStore (s : State) (l : Loc) (a : Nat) (bytes : List Byte) : State :=
  match l with
  | .spad b => s.storeBank b a bytes false
  | .ob b base => s.setBlock b { s.block b with ob := writeBytes (s.block b).ob (base + a) bytes }
  | .mem ctx i =>
    (((s.handle ctx i).runs a bytes.length).foldl (fun (x : State × List Byte) r =>
      (x.1.storeMem r.1 (x.2.take r.2) false, x.2.drop r.2)) (s, bytes)).1
  | _ => s

/-- Poison flags after one engine write of byte ranges, some of them with poisoned data (R75, R78): the sectors that it covers entirely are clean but
for its own poison. -/
def flagsAfter (p : List Nat) (all bad : List (Nat × Nat)) : List Nat :=
  let whole := wholeSectors all
  (bad.flatMap (fun r => sectorsOf r.1 r.2)).foldl addSorted (p.filter (fun t => !whole.contains t))

/-- The flags of an operand's sectors after one engine write: the ranges written, and those of them with poisoned data. -/
def State.locFlags (s : State) (l : Loc) (all bad : List (Nat × Nat)) : State :=
  match l with
  | .spad b => s.setBlock b { s.block b with spadBad := flagsAfter (s.block b).spadBad all bad }
  | .ob b base =>
    let moved := fun (rs : List (Nat × Nat)) => rs.map (fun r => (base + r.1, r.2))
    s.setBlock b { s.block b with obBad := flagsAfter (s.block b).obBad (moved all) (moved bad) }
  | .mem ctx i =>
    let moved := fun (rs : List (Nat × Nat)) => rs.flatMap (fun r => (s.handle ctx i).runs r.1 r.2)
    { s with poison := flagsAfter s.poison (moved all) (moved bad) }
  | _ => s

/-- Every sector of an operand's bytes poisoned. -/
def State.locSpoil (s : State) (l : Loc) (a n : Nat) : State := s.locFlags l [] [(a, n)]

/-- Whether byte ranges of two operands meet (R278). -/
def State.locsMeet (s : State) (l m : Loc) (a b n : Nat) : Bool :=
  match l, m with
  | .spad x, .spad y => decide (x = y) && rangesMeet a n b n
  | .mem c i, .mem d j =>
    ((s.handle c i).runs a n).any (fun p => ((s.handle d j).runs b n).any (fun q => rangesMeet p.1 p.2 q.1 q.2))
  | .window p i, .window q j => decide (p = q ∧ i = j) && rangesMeet a n b n
  | _, _ => false

/-- One element written: its first bit, its new code from the old one, and whether its data is poisoned. -/
structure Put where
  bit : Nat
  new : Nat → Nat
  bad : Bool

/-- The bytes that an element of `w` bits touches. -/
def elemRange (w bit : Nat) : Nat × Nat := (bit / 8, (w + 7) / 8)

/-- One element of `w` bits written in its bytes (R419). -/
def State.putOne (l : Loc) (w : Nat) (s : State) (p : Put) : State :=
  let (a, n) := elemRange w p.bit
  let old := natLE (s.locBytes l a n)
  let k := 2 ^ (p.bit % 8)
  let field := old / k % 2 ^ w
  s.locStore l a (bytesLE n (old - field * k + p.new field % 2 ^ w * k))

/-- The elements of one engine write; where two share a byte, which wins is open (R419, log 11). A reduction of clean data over the whole of a poisoned
sector is such a write too, and clears its flag (R75, log 111). -/
def State.putAll (s : State) (l : Loc) (w : Nat) (ps : List Put) : State :=
  let order := if Config.overlapWins s.free then ps else ps.reverse
  let s := order.foldl (State.putOne l w) { s with free := s.free + 1 }
  let ranges := fun (qs : List Put) => qs.map (fun p => elemRange w p.bit)
  s.locFlags l (ranges ps) (ranges (ps.filter Put.bad))

/-! ### What an operation moves (R419, R432, R433, R434) -/

/-- Where an operation's source bytes come from: an operand of this chip, or what was fetched of another's. -/
structure Source where
  byte : Nat → Byte
  bad : Nat → Nat → Bool

def State.source (s : State) (o : EngineOp) (l : Loc) : Source :=
  match l with
  | .away _ => { byte := readByte o.image, bad := fun a n => o.imageBad.any (fun x => decide (a ≤ x ∧ x < a + n)) }
  | .window _ _ => { byte := readByte o.image, bad := fun a n => o.imageBad.any (fun x => decide (a ≤ x ∧ x < a + n)) }
  | l => { byte := s.locByte l, bad := s.locBad l }

/-- An element of `w` bits at a bit of a source. -/
def Source.elem (x : Source) (w bit : Nat) : Nat :=
  natLE ((List.range ((w + 7) / 8)).map (fun i => x.byte (bit / 8 + i))) / 2 ^ (bit % 8) % 2 ^ w

def Source.elemBad (x : Source) (w bit : Nat) : Bool := x.bad (bit / 8) ((w + 7) / 8)

/-- The positions that two records share, in element order (R419, R432). -/
def sharedPositions (a b : TileRec) : List (Nat × Nat × Nat) :=
  let low := fun (x y : Nat) => if x ≤ y then x else y
  (List.range (low a.d2 b.d2)).flatMap (fun z => (List.range (low a.rows b.rows)).flatMap (fun y =>
    (List.range (low a.cols b.cols)).map (fun x => (x, y, z))))

/-- The moves of an operation: source bit, destination bit, and whether the index that chose it was poisoned. -/
def EngineOp.moves (o : EngineOp) : List (Nat × Nat × Bool) :=
  match o.kind with
  | .gather =>
    let cols := if o.src.cols ≤ o.dst.cols then o.src.cols else o.dst.cols
    o.list.zipIdx.flatMap (fun r => (List.range cols).map (fun x =>
      (o.src.bitAt x (r.1 / 2) 0, o.dst.bitAt x r.2 0, decide (r.1 % 2 = 1))))
  | _ => (sharedPositions o.src o.dst).map (fun p => (o.src.bitAt p.1 p.2.1 p.2.2, o.dst.bitAt p.1 p.2.1 p.2.2, false))

/-- The elements that an operation writes: destination bit, code, and poison (R78). -/
def EngineOp.elements (o : EngineOp) (x : Source) : List (Nat × Nat × Bool) :=
  let w := fmtBits o.dst.fmt
  match o.kind with
  | .mst => o.elems.map (fun e => (o.dst.bitAt e.1 e.2.1 0, e.2.2, false))
  | _ => o.moves.map (fun m => (m.2.1, x.elem w m.1, m.2.2 || x.elemBad w m.1))

/-- POISON_READ when any element was poisoned (R78). -/
def poisonStatus (es : List (Nat × Nat × Bool)) : DWord := if es.any (fun e => e.2.2) then stPoisonRead else 0

/-! ### Bulk data (R111, R151, R154) -/

/-- A byte of an operation's destination: its offset, its value, its poison, and which part of it is moved: 0 all of it, 1
its low half, 2 its high half. -/
structure OutByte where
  pos : Nat
  val : Nat
  bad : Bool
  part : Nat
  deriving DecidableEq, Repr

/-- The destination bytes of elements of `w` bits, in order. -/
def outBytes (w : Nat) : List (Nat × Nat × Bool) → List OutByte
  | [] => []
  | e :: rest =>
    if w = 4 then
      (match outBytes w rest with
      | b :: bs =>
        if e.1 % 8 = 0 ∧ b.pos = e.1 / 8 ∧ b.part = 2 then
          { pos := b.pos, val := e.2.1 + b.val, bad := e.2.2 || b.bad, part := 0 } :: bs
        else { pos := e.1 / 8, val := e.2.1 * 2 ^ (e.1 % 8), bad := e.2.2, part := 1 + e.1 % 8 / 4 } :: b :: bs
      | [] => [{ pos := e.1 / 8, val := e.2.1 * 2 ^ (e.1 % 8), bad := e.2.2, part := 1 + e.1 % 8 / 4 }])
    else
      (List.range (w / 8)).map (fun i => { pos := e.1 / 8 + i, val := e.2.1 / 256 ^ i % 256, bad := e.2.2, part := 0 }) ++
        outBytes w rest

/-- A byte with poisoned bytes in its sector of the destination is sent as poisoned: the write poisons that sector whichever of its bytes were (R75,
R78), and the sector's bytes stay together. -/
def spreadBad (bs : List OutByte) : List OutByte := bs.map (fun b => { b with bad := bs.any (fun c => c.bad && decide (c.pos / 32 = b.pos / 32)) })

/-- Bytes cut into runs of consecutive offsets that do not pass a multiple of `max`; a half byte is a run of its own, and poisoned bytes
are apart from the others. -/
def runsOf (max : Nat) : List OutByte → List (List OutByte)
  | [] => []
  | b :: rest =>
    match runsOf max rest with
    | (c :: r) :: rs => if b.pos + 1 = c.pos ∧ b.part = 0 ∧ c.part = 0 ∧ b.bad = c.bad ∧ c.pos % max ≠ 0 then (b :: c :: r) :: rs else [b] :: (c :: r) :: rs
    | rs => [b] :: rs

/-- What a bulk operation has in common over its segments (R154). -/
structure BulkHead where
  dst : Nat
  ctx : Nat
  cgen : Nat
  red : Nat
  c4 : Bool
  slot : Bool
  slotno : Nat
  fmt : Nat
  via : Nat
  reply : Bool
  direct : Bool
  opnum : Nat
  handle : Nat
  srcrank : Nat
  lo : Nat
  hi : Nat
  segs : Nat

/-- Bytes that are written together: those of one aligned unit of 16 bytes (R123). -/
def unitRuns : List OutByte → List (List OutByte)
  | [] => []
  | b :: rest =>
    match unitRuns rest with
    | (c :: u) :: us => if b.pos / 16 = c.pos / 16 then (b :: c :: u) :: us else [b] :: (c :: u) :: us
    | us => [b] :: us

/-- Whole bytes at consecutive offsets. -/
def isPlain : List OutByte → Bool
  | [] => true
  | b :: rest =>
    match rest with
    | [] => decide (b.part = 0)
    | c :: _ => decide (b.part = 0 ∧ b.pos + 1 = c.pos) && isPlain rest

/-- Whether two bytes have a half in common. -/
def OutByte.meets (a b : OutByte) : Bool := decide (a.pos = b.pos ∧ (a.part = b.part ∨ a.part = 0 ∨ b.part = 0))

/-- Bytes each of which meets none before it, and those that are left. -/
def onceEach (u : List OutByte) : List OutByte × List OutByte :=
  u.foldl (fun x b => if x.1.any b.meets then (x.1, x.2 ++ [b]) else (x.1 ++ [b], x.2)) ([], [])

/-- A unit's bytes as they are sent: at once, unless several elements write one byte; which of them comes last is open (R419, log 11). -/
def unitLayers (late : Bool) (u : List OutByte) : List (List OutByte) :=
  let peel := fun (_ : OutByte) (x : List (List OutByte) × List OutByte) =>
    let (a, b) := onceEach x.2
    (if a = [] then x.1 else x.1 ++ [a], b)
  let ls := (u.foldr peel ([], u)).1
  if late then ls else ls.reverse

/-- Bytes as the segments carry them: units of whole consecutive bytes joined up to a multiple of `max`, poisoned ones apart from the others, and each
other unit by itself (log 29). The flag says that a run is plain. -/
def joinUnits (max : Nat) (late : Bool) : List (List OutByte) → List (Bool × List OutByte)
  | [] => []
  | u :: us =>
    let rest := joinUnits max late us
    if !isPlain u then (unitLayers late u).map (fun l => (false, l)) ++ rest
    else
      match rest, u.getLast? with
      | (true, c :: r) :: more, some b =>
        if b.pos + 1 = c.pos ∧ b.bad = c.bad ∧ c.pos % max ≠ 0 then (true, u ++ c :: r) :: more else (true, u) :: rest
      | _, _ => (true, u) :: rest

/-- The half bytes that bytes of a unit move, from an offset on. -/
def halfMask (first : Nat) (u : List OutByte) : Nat :=
  u.foldl (fun m b => Nat.lor m ((if b.part = 0 then 3 else b.part) * 4 ^ (b.pos - first))) 0

/-- The bytes from the first of a unit to its last, those that are not moved 0. -/
def filled (first : Nat) (u : List OutByte) : List Byte :=
  (List.range ((u.map OutByte.pos).foldl max first - first + 1)).map (fun i =>
    BitVec.ofNat 8 ((u.filter (fun b => decide (b.pos = first + i))).foldl (fun v b => v + b.val) 0))

/-- The lowest offset of some bytes. -/
def lowest (u : List OutByte) : Nat := (u.map OutByte.pos).foldl min ((u.map OutByte.pos).headD 0)

/-- A segment of an operation: the `num`-th of those made now. -/
def BulkHead.seg (h : BulkHead) (src num dest n : Nat) (data : List Byte) (bad : Bool) (mask : Nat) : SegMsg :=
  let whole := h.reply = false ∧ h.slot = false
  { src := src, dst := h.dst, ctx := h.ctx, cgen := h.cgen, red := h.red, c4 := h.c4, slot := h.slot, fmt := h.fmt,
    via := h.via, slotno := h.slotno, reply := h.reply, direct := h.direct, opnum := h.opnum, segnum := h.segs + num,
    dest := h.handle * 2 ^ 48 + dest, nbytes := n, srcrank := h.srcrank, xlo := if whole then h.lo else 0,
    xhi := if whole then h.hi else 0, data := data, bad := bad, mask := mask }

/-- The segments of plain or reduced bytes, none of which cuts what is written in a sector or a unit of 16 bytes: `max` is a multiple of 64
(R75, R123). -/
def plainSegs (src max : Nat) (late : Bool) (h : BulkHead) (bs : List OutByte) : List SegMsg :=
  (joinUnits max late (unitRuns (spreadBad bs))).zipIdx.map (fun r =>
    let u := r.1.2
    let bad := u.any OutByte.bad
    if r.1.1 then h.seg src r.2 ((u.map OutByte.pos).headD 0) u.length (u.map (fun b => BitVec.ofNat 8 b.val)) bad 0
    else h.seg src r.2 (lowest u) (filled (lowest u) u).length (filled (lowest u) u) bad (halfMask (lowest u) u))

/-- A coded element with its destination bit and poison. -/
abbrev CodedAt := Nat × Coded × Bool

/-- Coded elements of one block cut into runs of consecutive destinations. -/
def codedRuns (w : Nat) : List CodedAt → List (List CodedAt)
  | [] => []
  | e :: rest =>
    match codedRuns w rest with
    | (f :: r) :: rs => if e.1 + w = f.1 then (e :: f :: r) :: rs else [e] :: (f :: r) :: rs
    | rs => [e] :: rs

/-- Coded elements block by block (R165). -/
def codedBlocks (w : Nat) : Nat → List CodedAt → List (List CodedAt)
  | 0, _ => []
  | n + 1, es => if es = [] then [] else codedRuns w (es.take 32) ++ codedBlocks w n (es.drop 32)

/-- The first and the last unit of 16 bytes that a run writes in. -/
def runSpan (r : List CodedAt) : Nat × Nat := ((r.map Prod.fst).headD 0 / 128, (r.map Prod.fst).getLastD 0 / 128)

/-- The elements of one unit of 16 bytes, taken from several runs: which of the scales among them an element has, 1 the first, stands in the mask at the
place of its half bytes, and its code at its place in that scale's block (log 90). -/
def BulkHead.codedUnit (h : BulkHead) (src num w : Nat) (es : List CodedAt) : SegMsg :=
  let n := w / 8
  let first := (es.map (fun e => e.1 / 8)).foldl min ((es.map (fun e => e.1 / 8)).headD 0)
  let last := (es.map (fun e => e.1 / 8)).foldl max first
  let scales := (es.map (fun e => e.2.1.code)).foldl addUnique []
  let place := fun (e : CodedAt) => (e.1 / 8 - first) / n
  let codes := fun (c : Nat) => (List.range 16).map (fun i =>
    match es.find? (fun e => decide (e.2.1.code = c ∧ place e = i)) with
    | some e => e.2.1
    | none => { code := c, q := 0, efb := 0 })
  let mask := es.foldl (fun m e => m + (scales.idxOf e.2.1.code + 1) * 2 ^ (2 * n * place e)) 0
  h.seg src num first (last - first + n) (codeFlits scales.length (scales.map codes)) (es.any (fun e => e.2.2)) mask

/-- Elements of a unit as they are sent: each offset once, the rest behind them. -/
def codedLayers : Nat → List CodedAt → List (List CodedAt)
  | 0, _ => []
  | n + 1, es =>
    let (a, b) := es.foldl (fun (x : List CodedAt × List CodedAt) e =>
      if x.1.any (fun f => decide (f.1 = e.1)) then (x.1, x.2 ++ [e]) else (x.1 ++ [e], x.2)) ([], [])
    if a.isEmpty then [] else a :: codedLayers n b

/-- The segments of compressed elements: each a part of one block with consecutive destinations (R166). How a block whose destinations are not
consecutive is carried is open: it is cut, and each flit holds the codes of its part from element 0 on; a unit of 16 bytes that several of these
parts write in is taken out of them and sent by itself, so that it is written in one step (R123, log 90). -/
def codedSegs (src w : Nat) (h : BulkHead) (es : List CodedAt) : List SegMsg :=
  let runs := codedBlocks w es.length es
  let spans := runs.map runSpan
  let shared := fun (e : CodedAt) => decide (1 < (spans.filter (fun p => decide (p.1 ≤ e.1 / 128 ∧ e.1 / 128 ≤ p.2))).length)
  let own := (runs.map (fun r => r.filter (fun e => !shared e))).filter (fun r => !r.isEmpty)
  let cut := runs.flatten.filter shared
  let units := ((cut.map (fun e => e.1 / 128)).foldl addUnique []).flatMap (fun u =>
    codedLayers cut.length (cut.filter (fun e => decide (e.1 / 128 = u))))
  own.zipIdx.map (fun r =>
    h.seg src r.2 ((r.1.map (fun e => e.1 / 8)).headD 0) (r.1.length * (w / 8)) (blockFlit (r.1.map (fun e => e.2.1)))
      (r.1.any (fun e => e.2.2)) 0) ++
  units.zipIdx.map (fun u => h.codedUnit src (own.length + u.2) w u.1)

/-- The path joins PU(g) (R112). -/
def State.usePath (s : State) (k dst via : Nat) : State :=
  let g := s.group k
  if g.paths.contains (dst, via) then s else s.setGroup k { g with paths := g.paths ++ [(dst, via)] }

/-- The flag word of an end marker (R155). -/
def flagWord (handle off : Nat) : Nat := if off = 0xFFFFFFFF then 2 ^ 64 - 1 else handle * 2 ^ 48 + off

/-! ### Bulk operations at their source (R111 to R113, R154, R155, R164) -/

/-- The name under which a chip counts the answer to a read request: the requester's number with its position (log 30). -/
def replyNum (dst opnum : Nat) : Nat := opnum + 2 ^ 32 * (1 + dst)

/-- The GSLOT of an end marker that follows REPLY segments (log 30). -/
def replySlot : Nat := 63

/-- The GSLOT of an end marker that follows what a relay reduction slot forwards (log 30). -/
def forwardSlot : Nat := 62

/-- The engine operation of bulk data that none has sent: an answer's, or a slot's. -/
def noEngine : Nat := 2 ^ 64

/-- Bulk data that begins to go to a chip under an operation number. -/
def State.newBulk (s : State) (opnum ctx dst flag : Nat) : BulkOp :=
  { opnum := opnum, engine := noEngine, group := 0, block := 0, grid := 0, blockId := 0, ctx := ctx, dst := dst, paths := [],
    since := s.fab.podtime, limit := s.tmo ctx, reported := false, stopped := false, status := 0, flag := flag, segs := 0,
    whole := false, marked := false, lost := false, goal := 0 }

/-- An engine operation's bulk data, with the block that issued it; a packet's copy has none. -/
def State.newEngineBulk (s : State) (o : EngineOp) (opnum dst goal : Nat) : BulkOp :=
  let b := s.block o.block
  { s.newBulk opnum o.ctx dst (flagWord o.dst.index o.dst.flagOff) with
    engine := o.id, group := o.group, block := o.block, grid := b.grid, blockId := b.blockId, reported := decide (o.kind ≠ .hostcopy), goal := goal }

def State.setBulk (s : State) (b : BulkOp) : State :=
  let ops := s.fab.bulkOps
  let ops := if ops.any (fun x => decide (x.opnum = b.opnum)) then ops.map (fun x => if x.opnum = b.opnum then b else x) else ops ++ [b]
  { s with fab := { s.fab with bulkOps := ops } }

/-- Whether a message is a segment or an end marker of an operation of this chip. -/
def partOf (here opnum : Nat) (m : OutMsg) : Bool :=
  match m.msg with
  | .seg g => decide (g.src = here ∧ (if g.reply then replyNum g.dst g.opnum else g.opnum) = opnum)
  | .marker k => decide (k.src = here ∧ k.typ = 1 ∧ (if k.gslot = replySlot then replyNum k.dst k.number else k.number) = opnum)
  | _ => false

def isSeg : Msg → Bool
  | .seg _ => true
  | _ => false

/-- The group that issued an operation, while its block is the one that did (R164). -/
def State.issuerOf (s : State) (b : BulkOp) : Option Nat :=
  let g := s.group b.group
  let bl := s.block b.block
  if b.reported = true ∧ g.resident = true ∧ g.block = b.block ∧ bl.resident = true ∧ bl.grid = b.grid ∧ bl.blockId = b.blockId then
    some b.group
  else none

/-- Bulk data of an operation takes a path: the operation's markers, the group's next flush (R112) or the packet's (R236) will take it too, and so will the flags
of the operations whose chunk it carries (R435). -/
def State.takePath (s : State) (b : BulkOp) (via : Nat) : State :=
  let s := s.setBulk { b with paths := addUnique b.paths via }
  let s := (match s.issuerOf b with
    | some k => s.usePath k b.dst via
    | none => s)
  { s with
    ops := s.ops.map (fun o => if o.id = b.engine ∧ o.kind = .hostcopy then { o with awaited := addUnique o.awaited via } else o),
    fab := { s.fab with slotOps := s.fab.slotOps.map (fun o => if o.nums.contains b.opnum then { o with paths := addUnique o.paths via } else o) } }

/-- Segments placed in a path queue (R111). -/
def State.placeSegs (s : State) (b : BulkOp) (via : Nat) (segs : List SegMsg) : State :=
  let s := segs.foldl (fun s m => s.sendBulk (.seg m) b.dst via) s
  if segs = [] then s.setBulk b else s.takePath { b with segs := b.segs + segs.length } via

/-- All data of an operation to its destination has been placed, with a status for its end markers; one that sent no data uses the path that is open
for them. -/
def State.wholeBulk (s : State) (b : BulkOp) (via status : Nat) : State :=
  s.setBulk { b with whole := true, status := status, paths := if b.paths = [] then [via] else b.paths }

/-- An end marker of an operation on one of its paths (R155). -/
def bulkMarker (s : State) (b : BulkOp) (status via : Nat) : MarkerMsg :=
  { src := s.fab.pos, dst := b.dst, ctx := b.ctx, cgen := s.cgen b.ctx, typ := 1, via := via, core := coreOf b.group,
    gslot := if 2 ^ 32 ≤ b.opnum then replySlot else if b.engine = noEngine then forwardSlot else b.group % 32, number := b.opnum % 2 ^ 32, paths := b.paths.length,
    status := status, flag := b.flag }

/-- An operation's end markers, one on each path that it used (R113); none can go by a relay that is fenced (R163). -/
def State.sendMarkers (s : State) (b : BulkOp) (status : Nat) : State :=
  b.paths.foldl (fun s via => if s.fab.fenced.contains via then s else s.sendBulk (.marker (bulkMarker s b status via)) b.dst via) s

/-- The end markers of an operation follow once the first hop has accepted all its segments, so that each comes behind them on its path (R113, R161). -/
def State.markOne (s : State) (b : BulkOp) : State :=
  if b.whole && !b.marked && !s.fab.bulkOut.any (fun m => isSeg m.msg && partOf s.fab.pos b.opnum m) then
    (s.sendMarkers b b.status).setBulk { b with marked := true, lost := b.lost || b.paths.any s.fab.fenced.contains }
  else s

/-- The timers of bulk operations whose every message its first hop has accepted stop (R164). -/
def State.stopTimers (s : State) : State :=
  { s with fab := { s.fab with bulkOps := s.fab.bulkOps.filter (fun b =>
      !b.marked || b.lost || s.fab.bulkOut.any (partOf s.fab.pos b.opnum)) } }

/-- What is due for the bulk operations of this chip: end markers, and timers that stop. -/
def State.settleBulk (s : State) : State := (s.fab.bulkOps.foldl State.markOne s).stopTimers

/-- The next operation number of this chip, taken (R154). -/
def State.takeOpnum (s : State) : Nat × State :=
  (s.fab.nextOp, { s with fab := { s.fab with nextOp := (s.fab.nextOp + 1) % 2 ^ 32 } })

/-! ### The end of an operation (R115, R421, R422, R37) -/

/-- Whether a handle serves a command: it is live, or it drains and the command was accepted before (R37). -/
def HandleEnt.serves (h : HandleEnt) (user : Nat) : Bool := decide (h.st = .live) || (decide (h.st = .draining) && h.users.contains user)

/-- The arrival flag of a command added at its home slice on this chip (R422); nothing where the flag word fails its checks. -/
def State.addFlag (s : State) (user ctx index off : Nat) (status : DWord) : State :=
  let h := s.handle ctx index
  if off = 0xFFFFFFFF ∨ index = 0 ∨ 4096 ≤ index ∨ h.serves user = false ∨ h.wr = false ∨ h.length < off + 4 ∨ off % 4 ≠ 0 then s
  else
    let pa := h.pa off
    let add := if status = 0 then 1 else 0x10000
    if poisoned s.poison pa 4 then s else s.storeMem pa (bytesLE 4 ((readNat s.mem pa 4 + add) % 2 ^ 32)) false

/-- A command retires from the handles of this chip (R37). -/
def State.retire (s : State) (user : Nat) : State :=
  { s with handles := s.handles.map (fun p => (p.1, { p.2 with users := p.2.users.filter (fun u => decide (u ≠ user)) })) }

/-- A command holds a handle from its acceptance on (R37). -/
def State.holdHandle (s : State) (ctx index user : Nat) : State :=
  let h := s.handle ctx index
  s.setHandle ctx index { h with users := if h.users.contains user then h.users else h.users ++ [user] }

/-- The completion's arrival on its barrier, or its bits in MERR when EXPECT is 0 (R57, R421). -/
def State.opArrive (s : State) (o : EngineOp) (status : DWord) : State :=
  let b := s.block o.block
  if !o.dst.barv || !b.resident then s
  else if b.scr < barOff o.dst.bar + 32 ∨ b.barExpect o.dst.bar = 0 then
    (if status &&& 0x7FE = 0 then s else s.merr o.group status)
  else s.arriveAt o.block o.dst.bar status.toNat

/-- The completion in the retire queue (R115): the engine may finish in any order. -/
def State.finishErq (s : State) (o : EngineOp) (status : DWord) : State :=
  let g := s.group o.group
  let erq := g.erq.map (fun e => if e.op = o.id ∧ e.cls = o.cls then { e with finished := true, status := status.toNat } else e)
  s.setGroup o.group { g with erq := erq }

/-- The name by which a TILEX holds the handle of its destination on this chip while its data is at a relay reduction slot (R37). -/
def slotUser (op : Nat) : Nat := 2 ^ 61 + op

/-- RSLOT of a tile record (R418). -/
def TileRec.slotted (r : TileRec) : Bool := decide (r.rslot / 2 ^ 15 = 1)
def TileRec.slotPos (r : TileRec) : Nat := r.rslot / 16 % 1024
def TileRec.slotNo (r : TileRec) : Nat := r.rslot % 16

/-- Whether a relay reduction slot has still to apply some of what an operation has sent it. -/
def State.slotHolds (s : State) (op : Nat) : Bool :=
  s.fab.slotWaits.any (fun w => decide (w.user = slotUser op)) || s.fab.slotOps.any (fun o => decide (o.user = slotUser op))

/-- An operation that ends, or is given up, retires from the handles that it holds (R37); what a slot still has to apply holds its destination's on. -/
def State.retireOp (s : State) (o : EngineOp) : State :=
  let s := s.retire o.id
  if s.slotHolds o.id then s else s.retire (slotUser o.id)

/-- The operation has ended (R115, R421). A packet's copy stays until its packet sees it. -/
def State.closeOp (s : State) (o : EngineOp) (status : DWord) : State :=
  let s := s.retireOp o
  if o.kind = .hostcopy then
    { s with ops := s.ops.map (fun p => if p.id = o.id then { p with stage := .finished, status := status.toNat } else p) }
  else
    let s := (s.opArrive o status).finishErq o status
    { s with ops := s.ops.filter (fun p => decide (p.id ≠ o.id)) }

def State.setOp (s : State) (o : EngineOp) : State := { s with ops := s.ops.map (fun p => if p.id = o.id then o else p) }

def State.findOp (s : State) (id : Nat) : Option EngineOp := s.ops.find? (fun o => decide (o.id = id))

end Sys2Proof.Machine
end

