-- ==== Sys2Proof/Machine/SlotUnit.lean ====
section
/-! DEFINITION. Relay reduction slots of this module (R169 to R171, R435): what sources contribute, the chunks combined and
forwarded, and the arrival flags that follow. -/

namespace Sys2Proof.Machine

/-- A slot row of this chip's copy of the Timetable (R199). -/
def State.slotRow (s : State) (pos n : Nat) : SlotRow := getKey SlotRow.empty s.tt.slots (pos * 16 + n)

/-- The element format and the reduce operator of a slot row, as records and segments code them (R169, R258, R154). -/
def SlotRow.format (r : SlotRow) : Nat := if r.fmt = 0 then 0 else 2
def SlotRow.red (r : SlotRow) : Nat := r.op + 1

/-- The elements of a segment that is reduced or compressed, or goes to a slot: their destination offset and raw code (R154, R166). Of a masked one, the
mask tells which are there, and of a compressed one which block holds each (log 90). -/
def segElems (m : SegMsg) : List (Nat × Nat) :=
  let n := fmtBits m.fmt / 8
  let o := m.dest % 2 ^ 48
  let field := fun i => if m.mask = 0 then 1 else m.mask / 2 ^ (2 * n * i) % 2 ^ (2 * n)
  ((List.range (m.nbytes / n)).filter (fun i => decide (field i ≠ 0))).map (fun i =>
    if m.c4 then
      let e := flitElem m.data (if m.mask = 0 then i else 32 * (field i - 1) + i)
      (o + n * i, e.2 + 16 * e.1)
    else (o + n * i, recNat m.data (n * i) n))

/-- One element added to the part of its operation and chunk. -/
def addPart (m : SegMsg) (ps : List SlotPart) (e : Nat × Nat) : List SlotPart :=
  let chunk := e.1 / 4096
  let mine := fun (p : SlotPart) => decide (p.slot = m.slotno ∧ p.chunk = chunk ∧ p.rank = m.srcrank ∧ p.src = m.src ∧ p.opnum = m.opnum)
  if ps.any mine then ps.map (fun p => if mine p then { p with vals := insKey p.vals e.1 e.2, bad := p.bad || m.bad } else p)
  else
    ps ++ [{ slot := m.slotno, chunk := chunk, rank := m.srcrank, src := m.src, opnum := m.opnum, ctx := m.ctx, dest := m.dest / 2 ^ 48, fmt := m.fmt,
             c4 := m.c4, vals := [(e.1, e.2)], bad := m.bad }]

/-- A source's operation begins at a slot (R169), with the name by which it holds a destination on this chip and what its check there found. -/
def State.slotBegin (s : State) (m : SegMsg) (user status : Nat) : State :=
  if s.fab.slotOps.any (fun o => decide (o.src = m.src ∧ o.opnum = m.opnum)) then s
  else
    let o : SlotOp := { src := m.src, opnum := m.opnum, slot := m.slotno, ctx := m.ctx, dest := m.dest / 2 ^ 48, chunks := [], gone := [],
                        paths := [], flag := 2 ^ 64 - 1, status := status, ended := false, user := user, nums := [] }
    { s with fab := { s.fab with slotOps := s.fab.slotOps ++ [o] } }

/-- A contribution reaches its slot (R169, R170). -/
def State.slotContribute (s : State) (m : SegMsg) : State :=
  let es := segElems m
  let more := fun (o : SlotOp) =>
    if o.src = m.src ∧ o.opnum = m.opnum then { o with chunks := (es.map (fun e => e.1 / 4096)).foldl addSorted o.chunks } else o
  { s with fab := { s.fab with slotParts := es.foldl (addPart m) s.fab.slotParts, slotOps := s.fab.slotOps.map more } }

/-- Whether the 32 MiB of a slot of this module have room for a contribution (R169, R170). -/
def State.slotRoom (s : State) (slot more : Nat) : Bool :=
  let used := ((s.fab.slotParts.filter (fun p => decide (p.slot = slot))).map (fun p => p.vals.length * (fmtBits p.fmt / 8))).sum
  decide (used + more ≤ 32 * 2 ^ 20)

/-- The exact value of a part's raw code (R167). -/
def SlotPart.value (p : SlotPart) (x : Nat) : FVal := if p.c4 then blockValue (x / 16) (x % 16) else valueOf p.fmt x

/-- One step of a slot's combination, in f32 (R170). -/
def slotStep (red : Nat) (a b : FVal) : FVal :=
  if red = 1 then fv (rne32 (fAdd false a b))
  else fv ((if red = 2 then fmax32 else fmin32) (rne32 a) (rne32 b))

/-- The part of a chunk that a rank's next contribution is: its oldest. -/
def State.slotPart (s : State) (slot chunk rank : Nat) : Option SlotPart :=
  s.fab.slotParts.find? (fun p => decide (p.slot = slot ∧ p.chunk = chunk ∧ p.rank = rank))

/-- The parts of a chunk in ascending source rank (R170). -/
def State.chunkParts (s : State) (slot chunk : Nat) (row : SlotRow) : List SlotPart := row.ranks.filterMap (s.slotPart slot chunk)

/-- The combined code of one element (R170): the contributions in rank order, and one rounding to the element format. -/
def combineElem (fmt red : Nat) (ps : List SlotPart) (off : Nat) : Nat :=
  let vs := ps.filterMap (fun p => (findKey p.vals off).map p.value)
  match vs with
  | [] => 0
  | v :: rest => roundTo fmt 0 false 0 (rest.foldl (slotStep red) v)

/-- The elements of a combined chunk: destination bit, code and poison. -/
def chunkElems (fmt red : Nat) (ps : List SlotPart) : List (Nat × Nat × Bool) :=
  let offs := (ps.flatMap (fun p => p.vals.map Prod.fst)).foldl addSorted []
  offs.map (fun o => (8 * o, combineElem fmt red ps o, ps.any SlotPart.bad))

/-- Whether a part is the whole of what its operation contributes to its chunk. -/
def State.wholePart (s : State) (p : SlotPart) : Bool :=
  decide (4096 ≤ p.vals.length * (fmtBits p.fmt / 8)) ||
  s.fab.slotOps.any (fun o => decide (o.slot = p.slot ∧ o.src = p.src ∧ o.opnum = p.opnum) && o.ended)

/-- Whether a source has sent its whole contribution to a chunk, or was fenced before it had (R170, R171). -/
def State.chunkReady (s : State) (slot chunk rank : Nat) : Bool :=
  s.fab.slotLost.contains (slot, chunk, rank) ||
  (match s.slotPart slot chunk rank with
  | some p => s.wholePart p
  | none => false)

/-- A source of a slot is fenced (R171): the chunks that await it will not wait for it any longer. -/
def State.loseSource (s : State) (slot rank : Nat) : State :=
  let chunks := (s.fab.slotParts.filter (fun p => decide (p.slot = slot))).map SlotPart.chunk
  let waits := (chunks.foldl addUnique []).filter (fun c => !s.chunkReady slot c rank)
  { s with fab := { s.fab with slotLost := s.fab.slotLost ++ waits.map (fun c => (slot, c, rank)) } }

/-- The handle check of a chunk's destination on this chip (R35): an operation accepted before a destroy goes on (R37). -/
def State.slotDestStatus (s : State) (ctx index hi : Nat) (os : List SlotOp) : DWord :=
  let h := s.handle ctx index
  let held := decide (h.st = .draining) && os.any (fun o => h.users.contains o.user)
  handleStatus (if held then { h with st := .live } else h) index hi true

/-- The arrival flag of a source's operation goes on, once every chunk it contributed to has been applied here or has left for the destination (R435);
the destination learns of an operation without a flag by its end markers, as of one with. -/
def State.slotFlag (s : State) (o : SlotOp) : State :=
  let row := s.slotRow s.fab.pos o.slot
  let pos := s.rankPos row.grid row.dest
  let away := s.fab.bulkOut.any (fun m => isSeg m.msg && o.nums.any (fun n => partOf s.fab.pos n m))
  if !(o.ended && o.chunks.all o.gone.contains) || away then s
  else
    let s := { s with fab := { s.fab with slotOps := s.fab.slotOps.filter (fun x => decide (x ≠ o)) } }
    if pos = s.fab.pos then
      (if o.flag = 2 ^ 64 - 1 then s else s.addFlag o.user o.ctx (o.flag / 2 ^ 48) (o.flag % 2 ^ 48) (BitVec.ofNat 64 o.status)).retire o.user
    else
      let (num, s) := s.takeOpnum
      s.wholeBulk { s.newBulk num o.ctx pos o.flag with paths := o.paths } ((s.bulkPath pos false).getD 0xFFFF) o.status

/-- Every flag that may go, and what is due for this chip's bulk operations. -/
def State.settle (s : State) : State :=
  let s := s.settleBulk
  (s.fab.slotOps.foldl State.slotFlag s).settleBulk

/-- A chunk has gone, for the operations whose parts it took; under a number where it went to another chip. -/
def chunkGone (ps : List SlotPart) (chunk status : Nat) (num : Option Nat) (o : SlotOp) : SlotOp :=
  if ps.any (fun p => decide (p.src = o.src ∧ p.opnum = o.opnum)) then
    { o with gone := addSorted o.gone chunk, nums := o.nums ++ num.toList, status := Nat.lor o.status status }
  else o

/-- SLOT_CHUNK_COMBINE (R170, R171): the combined chunk is applied at the destination under the operator. -/
def State.combineChunk (s : State) (slot chunk : Nat) (ps : List SlotPart) (ctx dest : Nat) : State :=
  let row := s.slotRow s.fab.pos slot
  let pos := s.rankPos row.grid row.dest
  let lost := s.fab.slotLost.any (fun x => decide (x.1 = slot ∧ x.2.1 = chunk))
  let es := chunkElems row.format row.red ps
  let poison := poisonStatus es
  let status := poison ||| (if lost then stFenced else 0)
  let s := { s with fab := { s.fab with slotParts := s.fab.slotParts.filter (fun p => decide (p ∉ ps)),
                                        slotLost := s.fab.slotLost.filter (fun x => !decide (x.1 = slot ∧ x.2.1 = chunk)) } }
  let gone := fun (st : DWord) (num : Option Nat) (s : State) =>
    { s with fab := { s.fab with slotOps := s.fab.slotOps.map (chunkGone ps chunk st.toNat num) } }
  let n := fmtBits row.format / 8
  let lo := (es.map (fun e => e.1 / 8)).headD 0
  let hi := (es.map (fun e => e.1 / 8 + n)).foldl max 0
  if pos = s.fab.pos then
    let puts := es.map (fun e => ({ bit := e.1, new := fun old => combine row.format row.red old e.2.1, bad := e.2.2 } : Put))
    let mine := s.fab.slotOps.filter (fun o => ps.any (fun p => decide (p.src = o.src ∧ p.opnum = o.opnum)))
    let st := s.slotDestStatus ctx dest hi mine
    (gone (status ||| st) none (if st = 0 then s.putAll (.mem ctx dest) (fmtBits row.format) puts else s)).settle
  else
    match s.bulkPath pos false with
    | none => s
    | some via =>
      let (num, s) := s.takeOpnum
      let h : BulkHead := { dst := pos, ctx := ctx, cgen := s.cgen ctx, red := row.red, c4 := false, slot := false, slotno := 0,
                            fmt := row.format, via := via, reply := false, direct := false, opnum := num, handle := dest,
                            srcrank := row.srcBase, lo := lo, hi := hi, segs := 0 }
      let segs := plainSegs s.fab.pos (64 * s.fab.params.segMax) true h (outBytes (fmtBits row.format) es)
      let s := gone status (some num) s
      let s := s.placeSegs (s.newBulk num ctx pos (2 ^ 64 - 1)) via segs
      let b := (s.fab.bulkOps.find? (fun b => decide (b.opnum = num))).getD (s.newBulk num ctx pos (2 ^ 64 - 1))
      (s.wholeBulk b via status.toNat).settle

def execSlotChunkCombine (slot chunk : Nat) (s : State) : Out :=
  let row := s.slotRow s.fab.pos slot
  let ps := s.chunkParts slot chunk row
  let pos := s.rankPos row.grid row.dest
  let canGo := decide (pos = s.fab.pos) || (s.bulkPath pos false).isSome
  match ps with
  | [] => .next s
  | p :: _ =>
    if row.held && canGo && row.ranks.all (s.chunkReady slot chunk) then .next (s.combineChunk slot chunk ps p.ctx p.dest)
    else .next s

end Sys2Proof.Machine
end

