-- ==== Sys2Proof/Machine/EvEngine.lean ====
section
/-! DEFINITION. The events of the engines: acceptance with its checks and reads (R35, R419, R433, R437), what an accepted
operation moves and where (R78, R115, R420, R421, R422, R431, R434, R435), and the reports of the retire queues. -/

namespace Sys2Proof.Machine

/-! ### Acceptance (R35, R36, R419) -/

/-- Whether a status turns an operation away before it moves anything (R35, R163, R164, R437). -/
def rejects (status : Nat) : Bool := decide (Nat.land status 0x386 ≠ 0)

/-- Where a target rank of a TILEX lies (R434). -/
def State.targetLoc (s : State) (o : EngineOp) (rank : Nat) : Loc :=
  let pos := s.rankPos (s.block o.block).grid rank
  if pos = s.fab.pos then .mem o.ctx o.dst.index else .away pos

/-- HANDLE for a slot that the context does not hold or that differs from the operation (R435). -/
def State.slotStatus (s : State) (o : EngineOp) : DWord :=
  let row := s.slotRow o.dst.slotPos o.dst.slotNo
  let grid := (s.block o.block).grid
  if row.held = true ∧ row.ctx = o.ctx ∧ row.grid = grid ∧ row.format = o.dst.fmt ∧ row.red = o.dst.red ∧
    o.targets = [row.dest] then 0 else stHandle

/-- The check of a feedback region of `n` elements (R165, R168). -/
def State.feedbackStatus (s : State) (o : EngineOp) (n : Nat) : DWord :=
  let index := o.dst.efb / 2 ^ 48
  let hi := o.dst.efb % 2 ^ 48 + 4 * n
  handleStatus (s.handle o.ctx index) index hi true ||| handleStatus (s.handle o.ctx index) index hi false

/-- The checks of a TILEX but for its source: its slot, its own-chip targets and its feedback region. -/
def State.tilexStatus (s : State) (o : EngineOp) : DWord :=
  let own := o.targets.filter (fun r => s.rankPos (s.block o.block).grid r = s.fab.pos)
  let dst := if own = [] then 0 else s.tileExtent o o.dst (.mem o.ctx o.dst.index) true
  dst ||| (if o.dst.slotted then s.slotStatus o else 0) ||| (if o.dst.c4 then s.feedbackStatus o o.moves.length else 0)

/-- The index list of GATHER as read, each index doubled and 1 added where it was poisoned (R433, R78). -/
def State.readList (s : State) (o : EngineOp) : List Nat :=
  let b := s.block o.block
  (List.range o.dst.rows).map (fun i =>
    let a := o.list.headD 0 + 4 * i
    2 * readNat b.spad a 4 + (if poisoned b.spadBad a 4 then 1 else 0))

/-- BOUNDS for an index outside the source's rows (R433). -/
def listStatus (o : EngineOp) : DWord := if o.list.any (fun i => decide (o.src.rows ≤ i / 2)) then stBounds else 0

/-- The size of a merge's objects once the TYPE byte is read (R437): the header where it names no kind. -/
def EngineOp.objectSize (o : EngineOp) : Nat := ((skKindOfType (o.typ - 1)).map SkKind.size).getD 64

def State.objectExtent (s : State) (o : EngineOp) (r : TileRec) (l : Loc) (write : Bool) : DWord :=
  s.extent o r l r.off (r.off + o.objectSize) write

/-- The checks of a merge whose TYPE byte has been read (R437), with the meeting of its objects (R278). -/
def State.mergeStatus (s : State) (o : EngineOp) : DWord :=
  let st := s.objectExtent o o.src (s.srcLoc o) false ||| s.objectExtent o o.dst (s.dstLoc o) true
  let meet := s.locsMeet (s.srcLoc o) (s.dstLoc o) o.src.off o.dst.off o.objectSize
  if st = 0 ∧ (skKindOfType (o.typ - 1) = none ∨ meet = true) then stSummary else st

/-- The status found before any byte moves (R35). -/
def State.acceptStatus (s : State) (o : EngineOp) : DWord :=
  match o.kind with
  | .mst => s.tileExtent o o.dst (s.dstLoc o) true
  | .tilex => s.tileExtent o o.src (s.srcLoc o) false ||| s.tilexStatus o
  | .skmerge => s.mergeStatus o
  | .gather => s.tileExtent o o.src (s.srcLoc o) false ||| s.tileExtent o o.dst (s.dstLoc o) true ||| listStatus o
  | _ => s.tileExtent o o.src (s.srcLoc o) false ||| s.tileExtent o o.dst (s.dstLoc o) true

/-- An operand in a region of this chip is held from acceptance on (R37). -/
def State.holdLoc (s : State) (o : EngineOp) (l : Loc) : State :=
  match l with
  | .mem ctx i => s.holdHandle ctx i o.id
  | _ => s

/-- The regions of this chip that an accepted operation uses. -/
def State.holdAll (s : State) (o : EngineOp) : State :=
  let s := if o.kind = .mst then s else s.holdLoc o (s.srcLoc o)
  if o.kind = .tilex then
    let s := o.targets.foldl (fun s r => s.holdLoc (if o.dst.slotted then { o with id := slotUser o.id } else o) (s.targetLoc o r)) s
    if o.dst.c4 then s.holdHandle o.ctx (o.dst.efb / 2 ^ 48) o.id else s
  else s.holdLoc o (s.dstLoc o)

/-! ### Sources on other chips (R154, R420) -/

/-- The record of which a read request asks every moved position: the source's, clipped to what a COPY shares with its
destination; for a merge, the object or its first byte. -/
def EngineOp.wanted (o : EngineOp) : TileRec :=
  match o.kind with
  | .skmerge => { o.src with fmt := 10, d0 := if o.typ = 0 then 1 else o.objectSize, d1 := 1, d2 := 1, vr := 0, vc := 0, s1 := 0, s2 := 0 }
  | .copy =>
    let low := fun (x y : Nat) => if x ≤ y then x else y
    { o.src with vr := low o.src.rows o.dst.rows, vc := low o.src.cols o.dst.cols }
  | _ => o.src

/-- A read request goes to the owner under an operation number of this chip (R154), by the path policy of the source's record (R449). -/
def State.requestRead (s : State) (o : EngineOp) (pos via : Nat) : State :=
  let (num, s) := s.takeOpnum
  let r := o.wanted
  let m : ReadReqMsg :=
    { src := s.fab.pos, dst := pos, ctx := o.ctx, cgen := o.cgen, fmt := r.fmt, opnum := num, base := r.base, d0 := r.d0,
      d1 := r.d1, d2 := r.d2, vr := r.vr, vc := r.vc, s1 := r.s1, s2 := r.s2, direct := o.src.direct }
  (s.sendBulk (.readReq m) pos via).setOp { o with stage := .remoteRead, opnum := num, awaited := [pos], image := [], imageBad := [] }

/-- The message opcode of an operation on the win flow (R153). -/
def EngineOp.opc (o : EngineOp) : Nat :=
  match o.kind with
  | .copy => 0xBC
  | .tilex => 0xBD
  | .gather => 0xBE
  | .mst => 0xC0
  | _ => 0xC3

/-- An engine's access to a member's scratchpad on another chip (R420): it stands at once in its core's buffer, and the
group's program order does not bind it. -/
def State.windowEntry (s : State) (o : EngineOp) (pos addr : Nat) (read : Bool) (w : Nat) (data data2 : Nat) : State :=
  s.placeEntry { baseEntry s o.group with
    op := .engWin o.id read, target := .remote pos true addr, addr := addr, kind := .uo, scope := 4, dscope := 4,
    size := 2 ^ w, data := data, data2 := data2, opc := o.opc, wcode := w, core := o.core, ctx := o.ctx, cgen := o.cgen,
    byHandler := false, stage := .cb }

/-- The aligned units of 16 bytes that hold bytes [lo, hi). -/
def units16 (lo hi : Nat) : List Nat := if hi ≤ lo then [] else (List.range ((hi - 1) / 16 - lo / 16 + 1)).map (fun i => (lo / 16 + i) * 16)

/-- The units read of a window source: those that its moved positions touch (R123). -/
def State.windowReads (s : State) (o : EngineOp) (pos member : Nat) : State :=
  let r := o.wanted
  let at1 := fun (p : Nat × Nat × Nat) =>
    let b := r.bitAt p.1 p.2.1 p.2.2
    units16 (b / 8) ((b + fmtBits r.fmt + 7) / 8)
  let us := ((sharedPositions r r).flatMap at1).foldl addSorted []
  let s := us.foldl (fun s u => s.windowEntry o pos (member * 2 ^ 19 + u) true 4 0 1) s
  s.setOp { o with stage := .remoteRead, awaited := [], image := [], imageBad := [] }

/-- Whether every byte asked of another chip has come, or the operation has failed. -/
def State.fetched (s : State) (o : EngineOp) : Bool :=
  decide (o.awaited = []) && !s.entries.any (fun e => decide (e.op = .engWin o.id true))

/-- An operation accepted with a status (R35). -/
def State.accept (s : State) (o : EngineOp) (st : DWord) : State :=
  let status := Nat.lor o.status st.toNat
  s.setOp { o with stage := .accepted, status := status, dead := rejects status }

/-- A checked operation goes on: its source on another chip is read first (R115, R420). -/
def State.begin (s : State) (o : EngineOp) : Option State :=
  match (if o.kind = .mst then Loc.gone else s.srcLoc o) with
  | .away pos => (s.bulkPath pos o.src.direct).map (fun via => s.requestRead o pos via)
  | .window pos i => some (s.windowReads o pos i)
  | _ => some (s.accept o 0)

/-- The TYPE byte of a merge is read first (R437), an engine read, so that a poisoned one sets POISON_READ (R78): a source of this chip at once. -/
def State.beginMerge (s : State) (o : EngineOp) : Option State :=
  let l := s.srcLoc o
  let st := s.extent o o.src l o.src.off (o.src.off + 64) false
  if st ≠ 0 then some (s.accept o st)
  else
    match l with
    | .away _ => s.begin o
    | .window _ _ => s.begin o
    | _ => some (s.setOp { o with typ := 1 + (s.locByte l o.src.off).toNat,
                                  status := Nat.lor o.status (if s.locBad l o.src.off 1 then stPoisonRead.toNat else 0) })

/-- A compressed TILEX, which reads and writes feedback (R165). -/
def EngineOp.coded (o : EngineOp) : Bool := decide (o.kind = .tilex) && o.dst.c4

/-- The memory of a compressed TILEX's feedback (R165). -/
def State.feedbackRuns (s : State) (o : EngineOp) : List (Nat × Nat) :=
  (s.handle o.ctx (o.dst.efb / 2 ^ 48)).runs (o.dst.efb % 2 ^ 48) (4 * o.moves.length)

/-- Of one group's TILEX operations whose feedback ranges overlap, an earlier one ends first (R168). -/
def feedbackTurn (s : State) (o : EngineOp) : Bool :=
  !o.coded || !s.ops.any (fun p => decide (p.group = o.group ∧ p.ctx = o.ctx ∧ p.id < o.id) && p.coded &&
    (s.feedbackRuns p).any (fun x => (s.feedbackRuns o).any (fun y => rangesMeet x.1 x.2 y.1 y.2)))

/-- What the read before acceptance gave: the TYPE byte of a merge, or the whole source. -/
def State.afterFetch (s : State) (o : EngineOp) : State :=
  if rejects o.status then s.setOp { o with stage := .accepted, dead := true }
  else if o.kind = .skmerge ∧ o.typ = 0 then
    s.setOp { o with stage := .left, typ := 1 + (readByte o.image o.src.off).toNat,
                     status := Nat.lor o.status (if o.imageBad.contains o.src.off then stPoisonRead.toNat else 0) }
  else s.setOp { o with stage := .accepted }

def execEngineAccept (op : Nat) (s : State) : Out :=
  match s.findOp op with
  | none => .next s
  | some o =>
    if o.stage = .remoteRead ∧ s.fetched o = true then .next (s.afterFetch o)
    else if o.stage ≠ .left ∨ feedbackTurn s o = false then .next s
    else if o.kind = .skmerge ∧ o.typ = 0 then .next ((s.beginMerge o).getD s)
    else
      let o := if o.kind = .gather then { o with list := s.readList o } else o
      let st := s.acceptStatus o
      if st ≠ 0 then .next (s.accept o st)
      else .next (((s.holdAll o).begin o).getD s)

/-! ### What is read (R78, R123, R165, R166, R431) -/

/-- How many elements an operation has. -/
def EngineOp.full (o : EngineOp) : Nat :=
  match o.kind with
  | .mst => o.elems.length
  | .skmerge => o.objectSize
  | _ => o.moves.length

/-- How many elements an operation moves; none (any more) once it is dead. -/
def EngineOp.count (o : EngineOp) : Nat := if o.dead then 0 else o.full

/-- The bits of its source at which the elements lie, in order, and those of its destination. -/
def EngineOp.srcBits (o : EngineOp) : List Nat :=
  match o.kind with
  | .mst => o.elems.map (fun e => o.dst.bitAt e.1 e.2.1 0)
  | .skmerge => (List.range o.objectSize).map (fun i => 8 * (o.src.off + i))
  | _ => o.moves.map Prod.fst
def EngineOp.dstBits (o : EngineOp) : List Nat :=
  match o.kind with
  | .mst => o.elems.map (fun e => o.dst.bitAt e.1 e.2.1 0)
  | .skmerge => (List.range o.objectSize).map (fun i => 8 * (o.dst.off + i))
  | _ => o.moves.map (fun m => m.2.1)

/-- An element's bit and number put behind those at no higher bit. -/
def insertBit (p : Nat × Nat) : List (Nat × Nat) → List (Nat × Nat)
  | [] => [p]
  | q :: rest => if p.1 < q.1 then p :: q :: rest else q :: insertBit p rest

/-- The elements that lie at these bits, by their numbers, in units of `per` bits: the units as they first appear, the elements of a unit by rising bits. -/
def unitsOf (per : Nat) (bits : List Nat) : List (List Nat) :=
  ((bits.map (fun b => b / per)).foldl addUnique []).map (fun u =>
    ((bits.zipIdx.filter (fun p => decide (p.1 / per = u))).foldl (fun l p => insertBit p l) []).map Prod.snd)

/-- The elements in the order in which they are read: by aligned units of 16 bytes, each read in one step (R123). -/
def EngineOp.reads (o : EngineOp) : List (List Nat) := unitsOf 128 o.srcBits

/-- The elements in the order in which they are written: by sectors, each written in one step, so that a sector's flag changes by one write of it (R75),
and its two units of 16 bytes are whole (R123). -/
def EngineOp.writes (o : EngineOp) : List (List Nat) := unitsOf 256 o.dstBits

/-- How many elements the first units hold that have `m` elements or more together. -/
def upTo : Nat → List (List Nat) → Nat
  | _, [] => 0
  | m, u :: us => if m = 0 then 0 else u.length + upTo (m - u.length) us

/-- How many elements will have been read after the next step (R84, log 11): one or more further, in whole units of the source. -/
def State.loadEnd (s : State) (o : EngineOp) : Nat :=
  let k := o.cargo.length
  upTo (k + 1 + Config.piece s.free % (o.count - k)) o.reads

/-- The elements read so far, by their numbers. -/
def EngineOp.got (o : EngineOp) : List (Nat × (Nat × Nat × Bool)) := o.reads.flatten.zip o.cargo

/-- The elements read so far, in element order. -/
def EngineOp.inOrder (o : EngineOp) : List (Nat × Nat × Bool) := (List.range o.count).filterMap (findKey o.got)

/-- What may be written of the elements read: whole sectors, or all blocks of a compressed operation (R165) once everything is read. -/
def EngineOp.ready (o : EngineOp) : List (Nat × Nat × Bool) :=
  if o.coded then (if o.count ≤ o.cargo.length then o.inOrder else [])
  else ((o.writes.takeWhile (fun u => u.all (fun i => (findKey o.got i).isSome))).flatten).filterMap (findKey o.got)

/-- The bytes of a merge's source from the `k`-th on, and their poison. -/
def State.mergeBytes (s : State) (o : EngineOp) (k : Nat) : List (Nat × Nat × Bool) :=
  let x := s.source o (s.srcLoc o)
  ((List.range o.objectSize).drop k).map (fun i => (8 * (o.dst.off + i), (x.byte (o.src.off + i)).toNat, x.bad (o.src.off + i) 1))

/-- All elements of an operation as they stand. -/
def State.elementsNow (s : State) (o : EngineOp) : List (Nat × Nat × Bool) :=
  if o.kind = .skmerge then s.mergeBytes o 0 else o.elements (s.source o (if o.kind = .mst then .gone else s.srcLoc o))

/-- The elements of a compressed TILEX, all of them, coded with their feedback (R165, R166); a poisoned element or feedback poisons its
block (R78). -/
def State.encodeOp (s : State) (o : EngineOp) (es : List (Nat × Nat × Bool)) : List CodedAt × Bool :=
  let l : Loc := .mem o.ctx (o.dst.efb / 2 ^ 48)
  let at1 := fun i => o.dst.efb % 2 ^ 48 + 4 * i
  let ys := es.zipIdx.map (fun e => rne32 (fAdd false (valueOf o.dst.fmt e.1.2.1) (valueOf 0 (natLE (s.locBytes l (at1 e.2) 4)))))
  let bads := es.zipIdx.map (fun e => e.1.2.2 || s.locBad l (at1 e.2) 4)
  let (cs, clip) := encodeAll es.length ys
  ((es.zip cs).zipIdx.map (fun p => (p.1.1.1, p.1.2, ((bads.drop (p.2 / 32 * 32)).take 32).any id)), clip)

/-- The new feedback written (R166, R168). -/
def State.putFeedback (s : State) (o : EngineOp) (cs : List CodedAt) : State :=
  s.putAll (.mem o.ctx (o.dst.efb / 2 ^ 48)) 32
    (cs.zipIdx.map (fun c => ({ bit := 8 * (o.dst.efb % 2 ^ 48 + 4 * c.2), new := fun _ => c.1.2.1.efb.toNat, bad := c.1.2.2 } : Put)))

/-- One summary object of an MST (R431): all values as one step. -/
def State.insertList (s : State) (o : EngineOp) (kind : SkKind) (off : Nat) : State × DWord :=
  let b := s.block o.block
  if off = 0 then (s, 0)
  else if poisoned b.spadBad off kind.size then (s, stPoisonRead)
  else
    let obj := readBytes b.spad off kind.size
    match (if wellFormed kind obj then skInsert kind obj o.summary else none) with
    | some obj' => (s.setBlock o.block { b with spad := writeBytes b.spad off obj' }, 0)
    | none => (s, stSummary)

/-- Both summary objects of an MST, once. -/
def State.insertLists (s : State) (o : EngineOp) : State :=
  let (s, a) := s.insertList o .amx o.amx
  let (s, q) := s.insertList o .qsk o.qsk
  s.setOp { o with amx := 0, qsk := 0, status := Nat.lor o.status (a ||| q).toNat }

/-- A compressed TILEX whose elements are all read is coded, and its feedback is read and written (R166, R168). -/
def State.codeAll (s : State) (o : EngineOp) : State :=
  let (cs, clip) := s.encodeOp o o.inOrder
  let st := (if cs.any (fun c => c.2.2) then stPoisonRead else 0) ||| (if clip then stClip else 0)
  let coded := o.reads.flatten.filterMap (fun i => cs[i]?)
  (s.putFeedback o cs).setOp { o with cargo := coded.map (fun c => (c.1, c.2.1.q + 16 * c.2.1.code, c.2.2)), status := Nat.lor o.status st.toNat }

/-- How far a target has got an operation's elements: one past their number once it has all of them and what follows them. -/
def EngineOp.sent (o : EngineOp) (i : Nat) : Nat := getKey 0 o.given i

/-- What an operation that is given up has not sent a slot is not awaited from there (R37). -/
def State.trimWait (s : State) (o : EngineOp) : State :=
  let went := (o.ready.take (o.sent 0)).map (fun e => e.1 / 8 / 4096)
  let left := fun (w : SlotWait) => if w.user = slotUser o.id then { w with chunks := w.chunks.filter went.contains } else w
  let s := { s with fab := { s.fab with slotWaits := (s.fab.slotWaits.map left).filter (fun w => decide (w.chunks ≠ [])) } }
  if s.slotHolds o.id then s else s.retire (slotUser o.id)

/-- Whether an operation has bytes to read of a gang member of this chip that is resident no longer (R461). -/
def State.srcGone (s : State) (o : EngineOp) : Bool :=
  decide (o.kind ≠ .mst ∧ o.cargo.length < o.count) &&
  (match s.srcLoc o with
  | .gone => true
  | _ => false)

/-- What a merge reads first tells its object's TYPE; a poisoned read tells none, so that TYPE stays that of the acceptance, and the poison goes on to the
destination object (R300). -/
def EngineOp.typed (o : EngineOp) (es : List (Nat × Nat × Bool)) : List (Nat × Nat × Bool) :=
  match es with
  | (at1, _, true) :: rest => if o.kind = .skmerge ∧ o.cargo = [] then (at1, o.typ - 1, true) :: rest else es
  | _ => es

/-- The next elements of an operation read (R123), and those of a compressed one coded once all of them are (R166); one whose source's member has
departed reads nothing further and ends with PEER_FENCED (R461), and a merge whose TYPE has changed moves nothing (R437). -/
def State.loadMore (s : State) (o : EngineOp) : State :=
  if s.srcGone o then (s.trimWait o).setOp { o with status := Nat.lor o.status stFenced.toNat, dead := true } else
  let k := o.cargo.length
  let es := o.typed ((((o.reads.flatten.take (s.loadEnd o)).drop k)).filterMap (fun i => (s.elementsNow o)[i]?))
  let s := { s with free := s.free + 1 }
  let read := { o with cargo := o.cargo ++ es, status := Nat.lor o.status (poisonStatus es).toNat }
  if o.coded ∧ o.count ≤ read.cargo.length then s.codeAll read
  else if o.kind = .skmerge ∧ k = 0 ∧ (es.map (fun e => e.2.1)).headD 0 ≠ o.typ - 1 then
    s.setOp { o with status := Nat.lor o.status stSummary.toNat, dead := true }
  else s.setOp read

/-! ### Where it goes -/

/-- A target of an operation: where it lies, and whether it is a relay reduction slot. -/
structure Goal where
  loc : Loc
  slot : Bool

/-- The targets of an operation (R434, R435); one that failed before it read anything tells the destination itself. -/
def State.goals (s : State) (o : EngineOp) : List Goal :=
  if o.kind = .tilex then
    if o.dst.slotted && (!o.dead || decide (o.cargo ≠ [])) then
      [{ loc := if o.dst.slotPos = s.fab.pos then .mem o.ctx o.dst.index else .away o.dst.slotPos, slot := true }]
    else o.targets.map (fun r => { loc := s.targetLoc o r, slot := false })
  else [{ loc := s.dstLoc o, slot := false }]

/-- The bits of an operation's elements: a merge moves bytes, whatever its record says. -/
def EngineOp.width (o : EngineOp) : Nat := if o.kind = .skmerge then 8 else fmtBits o.dst.fmt

/-- The extent of an operation's destination bytes (R154, R459). -/
def EngineOp.span (o : EngineOp) : Nat × Nat :=
  let w := o.width
  let at1 := o.dstBits
  (at1.foldl (fun m b => min m (b / 8)) (at1.headD 0 / 8), at1.foldl (fun m b => max m ((b + w + 7) / 8)) 0)

/-- The header of an operation's segments to a chip; the bytes of a merge have the format code 15 (log 28). -/
def State.bulkHead (s : State) (o : EngineOp) (slot : Bool) (dst via opnum segs : Nat) : BulkHead :=
  { dst := dst, ctx := o.ctx, cgen := o.cgen, red := if o.kind = .tilex then o.dst.red else 0, c4 := decide (o.kind = .tilex) && o.dst.c4,
    slot := slot, slotno := if slot then o.dst.slotNo else 0,
    fmt := if o.kind = .skmerge then 15 else o.dst.fmt, via := via, reply := false,
    direct := o.dst.direct, opnum := opnum, handle := o.dst.index, srcrank := if o.kind = .hostcopy then 0 else s.opRank o,
    lo := o.span.1, hi := o.span.2, segs := segs }

/-- The segments of elements read. -/
def State.segments (s : State) (o : EngineOp) (es : List (Nat × Nat × Bool)) (h : BulkHead) : List SegMsg :=
  if h.c4 then
    codedSegs s.fab.pos o.width h (es.map (fun e => (e.1, ({ code := e.2.1 / 16, q := e.2.1 % 16, efb := 0 } : Coded), e.2.2)))
  else plainSegs s.fab.pos (64 * s.fab.params.segMax) (Config.overlapWins s.free) h (outBytes o.width es)

/-- What elements read write at an operand of this chip. -/
def EngineOp.puts (o : EngineOp) (es : List (Nat × Nat × Bool)) : List Put :=
  if o.coded then
    es.map (fun e => { bit := e.1, new := fun old => addValue o.dst.fmt old (blockValue (e.2.1 / 16) (e.2.1 % 16)), bad := e.2.2 })
  else
    let red := if o.kind = .tilex then o.dst.red else 0
    es.map (fun e => { bit := e.1, new := fun old => combine o.dst.fmt red old e.2.1, bad := e.2.2 })

/-- The one message of the win flow that writes the bytes of a unit of 16 bytes (R420, R123): its address, its width code, and its bytes from there on.
It has the width of the bytes where they are an aligned run of that size, and otherwise the whole unit's. -/
def winPiece (u : List OutByte) : Nat × Nat × Bool :=
  let first := lowest u
  let fits := fun (w : Nat) => isPlain u && decide (u.length = 2 ^ w ∧ first % 2 ^ w = 0)
  match (List.range 5).find? fits with
  | some w => (first, w, true)
  | none => (first / 16 * 16, 4, false)

/-- The messages that write a window destination on another chip (log 25): of the second operand, bit 1 marks poisoned data, bit 2 the first message of a
merge, and bits [63:32] the half bytes that are moved, or the merge. `start` is for the first bytes of the operation. -/
def State.windowWrites (s : State) (o : EngineOp) (pos member : Nat) (start : Bool) (bs : List OutByte) : State :=
  ((unitRuns (spreadBad bs)).flatMap (unitLayers (Config.overlapWins s.free))).zipIdx.foldl (fun s q =>
    let u := q.1
    let (a, w, whole) := winPiece u
    let high := if o.kind = .skmerge then o.id % 2 ^ 32 else if whole then 0 else halfMask a u
    let low := (if u.any OutByte.bad then 2 else 0) + (if o.kind = .skmerge ∧ start = true ∧ q.2 = 0 then 4 else 0)
    s.windowEntry o pos (member * 2 ^ 19 + a) false w (natLE (filled a u)) (low + 2 ^ 32 * high)) s

/-- A target has got elements up to `r`. -/
def State.giveTo (s : State) (id i r : Nat) (bits : DWord) : State :=
  { s with ops := s.ops.map (fun o => if o.id = id then { o with given := setKey 0 o.given i r, status := Nat.lor o.status bits.toNat } else o) }

/-- Whether a target that has the elements up to `r` has all of them. -/
def EngineOp.wholeAt (o : EngineOp) (r : Nat) : Bool := decide (o.count ≤ o.cargo.length ∧ o.count ≤ r)

/-- A TILEX whose destination on this chip a slot of another module is to write holds that destination until the slot's chunks have come (R37). -/
def State.awaitSlot (s : State) (o : EngineOp) (pos : Nat) : State :=
  if o.dead || !(o.targets.any (fun r => decide (s.rankPos (s.block o.block).grid r = s.fab.pos))) then s
  else
    let w : SlotWait := { user := slotUser o.id, pos := pos, slot := o.dst.slotNo, ctx := o.ctx, index := o.dst.index,
                          chunks := (o.dstBits.map (fun b => b / 8 / 4096)).foldl addSorted [] }
    { s with fab := { s.fab with slotWaits := s.fab.slotWaits ++ [w] } }

/-- The next elements of an operation go to another chip as segments, on the path that is open now (R111, R151); with the last of them its end markers
become due. -/
def State.sendPiece (s : State) (o : EngineOp) (i : Nat) (slot : Bool) (pos via r : Nat) : State :=
  let es := (o.ready.take r).drop (o.sent i)
  let going := s.fab.bulkOps.find? (fun b => decide (b.engine = o.id ∧ b.goal = i))
  let (b, s) := (match going with
    | some b => (b, s)
    | none =>
      let (num, s) := s.takeOpnum
      (s.newEngineBulk o num pos i, if slot then s.awaitSlot o pos else s))
  let s := s.placeSegs b via (s.segments o es (s.bulkHead o slot pos via b.opnum b.segs))
  let b := (s.fab.bulkOps.find? (fun x => decide (x.opnum = b.opnum))).getD b
  if o.wholeAt r then (s.wholeBulk b via o.status).giveTo o.id i (o.full + 1) 0 else s.giveTo o.id i r 0

/-- The next elements of an operation reach a slot of this module, and with the last of them the operation's end (R169, R435). -/
def State.slotPiece (s : State) (o : EngineOp) (i r : Nat) : State :=
  let es := (o.ready.take r).drop (o.sent i)
  let num := o.opnum
  let (num, s) := if o.sent i = 0 then s.takeOpnum else (num, s)
  let o := { o with opnum := num }
  let s := s.setOp o
  let h := s.bulkHead o true s.fab.pos 0xFFFF num 0
  let s := s.slotBegin (h.seg s.fab.pos 0 0 0 [] false 0) (slotUser o.id) 0
  let s := (s.segments o es h).foldl State.slotContribute s
  if o.wholeAt r then
    let ends := fun (x : SlotOp) => if x.src = s.fab.pos ∧ x.opnum = num then
      { x with ended := true, flag := flagWord o.dst.index o.dst.flagOff, status := Nat.lor x.status o.status } else x
    { s with fab := { s.fab with slotOps := s.fab.slotOps.map ends } }.giveTo o.id i (o.full + 1) 0
  else s.giveTo o.id i r 0

/-- The next elements of an operation written at a target of this chip, and with the last of them the arrival flag (R422). -/
def State.putPiece (s : State) (o : EngineOp) (i : Nat) (l : Loc) (r : Nat) : State :=
  let es := (o.ready.take r).drop (o.sent i)
  let s := if es = [] then s else s.putAll l o.width (o.puts es)
  if o.wholeAt r then
    (if o.dst.space = 0 ∧ o.kind ≠ .skmerge then s.addFlag o.id o.ctx o.dst.index o.dst.flagOff (BitVec.ofNat 64 o.status) else s).giveTo o.id i (o.full + 1) 0
  else s.giveTo o.id i r 0

/-- A target gets what has been read since it last got something, where a path to it is open (R151) and the slot has credit (R170). An operation that was
rejected waits for none: its end marker stands in the direct path's queue, and it has completed (R115, R422). -/
def State.deliverTo (id : Nat) (s : State) (g : Goal × Nat) : State :=
  match s.findOp id with
  | none => s
  | some o =>
    let i := g.2
    let d := o.sent i
    let r := o.ready.length
    if o.full < d ∨ (r ≤ d ∧ o.wholeAt r = false) then s
    else
      match g.1.loc with
      | .away pos =>
        if s.fab.fenced.contains pos then s.giveTo id i (o.full + 1) stFenced
        else if o.dead = true ∧ o.dst.flagOff = 0xFFFFFFFF ∧ d = 0 then s.giveTo id i (o.full + 1) 0
        else if g.1.slot && !Config.slotCredit s.free then s
        else
          (match s.bulkPath pos o.dst.direct with
          | some via => s.sendPiece o i g.1.slot pos via r
          | none => if o.dead = true ∧ o.cargo = [] then s.sendPiece o i g.1.slot pos 0xFFFF r else s)
      | .window pos m =>
        let es := (o.ready.take r).drop d
        (s.windowWrites o pos m (decide (d = 0)) (outBytes o.width es)).giveTo id i (if o.wholeAt r then o.full + 1 else r) 0
      | .gone => s.giveTo id i (o.full + 1) stFenced
      | l =>
        if g.1.slot then
          (if s.slotRoom o.dst.slotNo ((r - d) * (o.width / 8)) then s.slotPiece o i r else s)
        else s.putPiece o i l r

/-! ### Merges (R278, R298, R300, R437) -/

/-- The bytes of a merge's source, those read already first, and their poison. -/
def State.mergeSource (s : State) (o : EngineOp) : List Byte × List Bool :=
  let es := o.cargo ++ s.mergeBytes o o.cargo.length
  (es.map (fun e => BitVec.ofNat 8 e.2.1), es.map (fun e => e.2.2))

/-- Whether a merge's destination lies on this chip. -/
def isHere (l : Loc) : Bool :=
  match l with
  | .away _ => false
  | .window _ _ => false
  | .gone => false
  | _ => true

/-- The merge as one step at its destination on this chip (R298): its status, and the state after it. -/
def State.mergeInto (s : State) (l : Loc) (off typ : Nat) (src : List Byte) (bad : Bool) : DWord × State :=
  match skKindOfType typ with
  | none => (stSummary, s)
  | some k =>
    if bad || s.locBad l off k.size then (stPoisonRead, s.locSpoil l off k.size)
    else
      match (if objType src = typ then mergeObjects k (s.locBytes l off k.size) src else none) with
      | some obj => (0, s.locStore l off obj)
      | none => (stSummary, s)

/-- SKMERGE_APPLY (R298): a merge whose destination is on this chip. -/
def execSkmergeApply (op : Nat) (s : State) : Out :=
  match s.findOp op with
  | none => .next s
  | some o =>
    if o.kind ≠ .skmerge ∨ o.stage ≠ .accepted ∨ o.dead = true ∨ isHere (s.dstLoc o) = false ∨ s.srcGone o = true then .next s
    else
      let (src, bads) := s.mergeSource o
      let (st, s) := s.mergeInto (s.dstLoc o) o.dst.off (o.typ - 1) src (bads.any id)
      .next (s.setOp { o with stage := .moved, status := Nat.lor o.status st.toNat })

/-! ### ENGINE_COMPLETE (R115, R421, R422) -/

/-- The next part of what an accepted operation moves (R84, R123): its summaries, further elements read, and what each target may get of them. With
the last of it the operation has moved. -/
def State.moveSome (s : State) (o : EngineOp) : State :=
  let s := if o.kind = .mst ∧ o.dead = false ∧ (o.amx ≠ 0 ∨ o.qsk ≠ 0) then s.insertLists o else s
  let o := (s.findOp o.id).getD o
  let s := if o.cargo.length < o.count then s.loadMore o else s
  let s := (s.goals o).zipIdx.foldl (State.deliverTo o.id) s
  let given := fun (p : EngineOp) => (List.range (s.goals o).length).all (fun i => decide (p.full < p.sent i))
  let s := { s with ops := s.ops.map (fun (p : EngineOp) => if p.id = o.id ∧ given p = true then { p with stage := .moved } else p) }
  s.settle

/-- Whether an engine's window writes are all acknowledged (R115, R420). -/
def State.written (s : State) (o : EngineOp) : Bool := !s.entries.any (fun e => decide (e.op = .engWin o.id false))

/-- The last step of an operation: a merge of this chip adds its flag here. -/
def State.finishOp (s : State) (o : EngineOp) : State :=
  let st := BitVec.ofNat 64 o.status
  let s := if o.kind = .skmerge ∧ o.dst.space = 0 ∧ isHere (s.dstLoc o) = true then
      s.addFlag o.id o.ctx o.dst.index o.dst.flagOff st else s
  s.closeOp o st

def execEngineComplete (op : Nat) (s : State) : Out :=
  match s.findOp op with
  | none => .next s
  | some o =>
    if o.stage = .moved then (if s.written o then .next (s.finishOp o) else .next s)
    else if o.stage ≠ .accepted then .next s
    else if o.kind = .skmerge ∧ o.dead = false ∧ isHere (s.dstLoc o) = true then
      (if o.cargo.length < o.count then .next (s.loadMore o) else .next s)
    else .next (s.moveSome o)

/-- ERQ_REPORT (R115): the head of a retire queue, once it has completed. -/
def execErqReport (group cls : Nat) (s : State) : Out :=
  let g := s.group group
  match g.erq.find? (fun e => decide (e.cls = cls)) with
  | some e => if e.finished then .next (s.setGroup group { g with erq := g.erq.erase e }) else .next s
  | none => .next s

/-! ### BULK_TIMEOUT (R164) -/

/-- FABRIC_TIMEOUT in the status of an operation that has not completed yet, which then sends this destination nothing further, or else in MERR of the
group that issued it, while its block is the one that issued it (R164). -/
def State.merrOf (s : State) (b : BulkOp) (bits : DWord) : State :=
  if s.ops.any (fun o => decide (o.id = b.engine)) then
    let s := (s.ops.filter (fun o => decide (o.id = b.engine))).foldl State.trimWait s
    { s with ops := s.ops.map (fun o => if o.id = b.engine then
        { o with status := Nat.lor o.status bits.toNat, given := setKey 0 o.given b.goal (o.full + 1) } else o) }
  else
    match s.issuerOf b with
    | some k => s.merr k bits
    | none => s

def execBulkTimeout (opnum : Nat) (s : State) : Out :=
  match s.fab.bulkOps.find? (fun b => decide (b.opnum = opnum)) with
  | none => .next s
  | some b =>
    if b.stopped = true ∨ s.fab.podtime < b.since + b.limit then .next s
    else
      let fab := { s.fab with bulkOut := s.fab.bulkOut.filter (fun m => m.sent || !partOf s.fab.pos opnum m),
                              bulkOps := s.fab.bulkOps.filter (fun x => decide (x ≠ b)) }
      .next (({ s with fab := fab }.sendMarkers b (Nat.lor b.status stTimeout.toNat)).merrOf b stTimeout)

end Sys2Proof.Machine
end

