-- ==== Sys2Proof/Machine/EvOrder.lean ====
section
/-! DEFINITION. The events of the ordering machine on this chip: departures, applications, bindings and results
(R90 to R105, R57, R297, R323). An event whose condition does not hold changes nothing (log 16). -/

namespace Sys2Proof.Machine

/-- An event on an entry: it happens where the entry is there and its condition holds. -/
def onEntry (s : State) (id : Nat) (ok : Entry → Bool) (f : Entry → Out) : Out :=
  match s.findEntry id with
  | none => .next s
  | some e => if ok e then f e else .next s

/-- Bulk data that waited for a rank (R24, R420) is looked at again, before anything that came after it (R113, R127). -/
def State.takeUp (s : State) : State :=
  { s with agenda := s.fab.bulkWaits.map Item.message ++ s.agenda, fab := { s.fab with bulkWaits := [] } }

/-! ### GQ_DEPART (R90, R96, R97, R99, R112, R114) -/

/-- A load that an earlier source can serve binds there, and goes nowhere else (R100). -/
def bindsEarly (s : State) (e : Entry) : Bool :=
  match e.op, e.issuer with
  | .load, .group k => (earlyBytes s k e).isSome
  | _, _ => false

/-- An engine operation whose command has left its group queue (R114). -/
def State.leaveOp (s : State) (op : Nat) : State :=
  { s with ops := s.ops.map (fun o => if o.id = op ∧ o.stage = .queued then { o with stage := .left } else o) }

/-- The entry leaves for its bank, the core buffer or its engine; a fence is over (R99). -/
def State.depart1 (s : State) (e : Entry) : State :=
  match e.op with
  | .fence kind _ =>
    let s := s.removeEntry e
    if kind ≠ 1 ∧ 3 ≤ e.scope then s.raiseFloor e.owner else s
  | .engine op => (s.removeEntry e).leaveOp op
  | _ =>
    match e.target with
    | .bank _ _ => s.moveEntry { e with stage := .bank }
    | .nowhere => s.removeEntry e
    | _ => s.moveEntry { e with stage := .cb }

def execGqDepart (e : Nat) (s : State) : Out :=
  onEntry s e (fun x => decide (x.stage = .gq) && mayLeave s false x && !bindsEarly s x) (fun x =>
    let g := s.group x.owner
    if x.needsFlush && !g.flushed then
      (if g.flush.isNone then .next (s.startFlush x.owner)
       else if g.flushLost then .next ((s.setGroup x.owner { g with flush := none }).failEntry x.owner x tPeerFenced false 0)
       else .next s)
    else .next (s.depart1 x))

/-! ### CB_DEPART (R103, R104, R64, R106, R107, R136) -/

/-- The messages of merges into gang windows leave the chip in one order, so that those of one merge stay together
(log 25). -/
def mergeTurn (s : State) (e : Entry) : Bool :=
  let part := fun (f : Entry) => decide (f.opc = 0xC3 ∧ f.stage = .cb) && f.target.isWindow && decide (f.res = none)
  !part e || (earlierArrivals s e).all (fun f => !part f)

/-- Whether an entry may leave the core buffer: every earlier same-address entry has left it, and the SO rule holds
(R103). -/
def cbAllows (s : State) (c : List Entry) (e : Entry) : Bool :=
  decide (e.stage = .cb) && soAllows s e && mergeTurn s e &&
  s.entries.all (fun f => !(e.objectPart f && decide (f.stage = .gq ∨ f.stage = .cb))) &&
  (earlierArrivals s e).all (fun f => decide (f ∈ c) || !(decide (f.stage = .cb ∧ f.core = e.core) && e.overlaps f))

/-- The L1 of the issuing core when an entry leaves its core buffer (R64). -/
def State.l1Leave (s : State) (e : Entry) (pa : Nat) : State :=
  let c := s.core e.core
  match e.op with
  | .store => s.setCore e.core { c with l1 := l1Store c.l1 pa (bytesLE e.size e.data) }
  | .load => s
  | .marm _ => s
  | _ => s.setCore e.core { c with l1 := l1Drop c.l1 pa e.size }

def EntOp.mayWrite : EntOp → Bool
  | .load => false
  | .marm _ => false
  | .fence _ _ => false
  | .engWin _ read => !read
  | _ => true

/-- A request that ends with PEER_FENCED (R163): its trap says whether it may have written. -/
def State.fencedEntry (s : State) (e : Entry) : State :=
  let k := e.owner
  let s := s.marmLost k e
  s.failEntry k e tPeerFenced e.op.mayWrite 0

/-- One entry leaves the core buffer for its home slice or its fabric flow; a load takes the bytes that its core's L1 holds with it (R100). -/
def State.leaveCb (s : State) (e : Entry) : State :=
  match e.target with
  | .memory pa =>
    let bs := match e.op with
      | .load => l1Bytes s e.owner e
      | _ => []
    ((s.noteOwed e.owner e bs).l1Leave e pa).moveEntry { e with stage := .net, early := bs }
  | .remote pos _ _ =>
    if s.fab.shut pos then s.fencedEntry e
    else
      (match (s.core e.core).freeSlot with
      | some slot => s.enterRemote e slot
      | none => s)
  | _ => s

def execCbDepart (e : Nat) (s : State) : Out :=
  onEntry s e (fun x => (combined s x).all (cbAllows s (combined s x)) && !bindsEarly s x) (fun x =>
    .next ((combined s x).foldl State.leaveCb s))

/-! ### ROUTER_MERGE (R68, R69) -/

/-- Whether two reductions on their way to a home slice may merge (R68). -/
def mergeable (e f : Entry) : Bool :=
  match e.op, f.op, e.target, f.target with
  | .red p, .red q, .memory a, .memory b =>
    decide (e.id ≠ f.id ∧ e.stage = .net ∧ f.stage = .net ∧ p = q ∧ a = b ∧ e.size = f.size ∧ e.ctx = f.ctx ∧
      e.kind ≠ .so ∧ f.kind ≠ .so ∧ e.id ∉ f.merged)
  | _, _, _, _ => false

/-- The combined operand of two reductions (R69). -/
def mergedData (s : State) (e f : Entry) : Nat :=
  match e.op with
  | .red op => redNew op s.free e.data f.data
  | _ => e.data

/-- Whether two entries came to their home slice by one way: from one core's buffer, or from one other chip. -/
def Entry.sameWay (e f : Entry) : Bool :=
  match e.issuer, f.issuer with
  | .group _, .group _ => decide (e.core = f.core)
  | .peer p _, .peer q _ => decide (p = q)
  | _, _ => false

/-- The home slices that an entry's bytes belong to. -/
def Entry.slices (e : Entry) : List Nat :=
  match e.target with
  | .memory a => [homeSlice a, homeSlice (a + e.size - 1)]
  | _ => []

def Entry.sameSlice (e f : Entry) : Bool := e.slices.any (fun a => f.slices.contains a)

/-- The entry in whose merge a reduction travels, or the entry itself (R68). -/
def State.carrier (s : State) (e : Entry) : Entry := (s.entries.find? (fun x => x.merged.contains e.id)).getD e

/-- Whether z stands on f's way to its slice, by itself or in a merge, which keeps the places of what it carries (R104). -/
def onWay (s : State) (f z : Entry) : Bool :=
  decide (z.id ≠ f.id ∧ z.stage = .net) && f.sameWay z && (s.carrier f).sameSlice (s.carrier z)

/-- What moves with y when it merges into another reduction: y, and what has merged into it. -/
def withMerged (s : State) (y : Entry) : List Entry := y :: s.entries.filter (fun f => y.merged.contains f.id)

/-- Whether y, and what it carries, may go with x, which stands where it stands: nothing that one of them came behind on its way to the slice is left
behind, and nothing that came behind it there is overtaken by it (R104). -/
def mayJoin (s : State) (x y : Entry) : Bool :=
  (withMerged s y).all (fun f =>
    let other := fun (z : Entry) => onWay s f z && decide (z.id ≠ x.id) && !(withMerged s y).any (fun w => decide (w.id = z.id))
    (earlierArrivals s f).all (fun z => !other z || decide (z ∈ earlierArrivals s x)) &&
    (earlierArrivals s x).all (fun z => !other z || decide (z ∈ earlierArrivals s f)))

def execRouterMerge (e f : Nat) (s : State) : Out :=
  onEntry s e (fun _ => true) (fun x => onEntry s f (fun y => mergeable x y && mayJoin s x y) (fun y =>
    let x' := { x with data := mergedData s x y, merged := x.merged ++ y.id :: y.merged }
    let moved := (withMerged s y).map (fun z => { z with target := .nowhere, merged := [] })
    let stay := s.entries.filter (fun z => !(withMerged s y).any (fun w => decide (w.id = z.id)))
    .next { s with entries := stay.flatMap (fun z => if z.id = x.id then x' :: moved else [z]), free := s.free + 1 }))

/-! ### HS_APPLY and BANK_APPLY (R67, R104, R124) -/

/-- The network keeps the order of entries to one home slice, of those that travel in a merge too, and of every one that e carries (R104). -/
def sliceTurn (s : State) (e : Entry) : Bool :=
  let c := combined s e ++ withMerged s e
  c.all (fun x => (earlierArrivals s x).all (fun f => decide (f ∈ c) || !onWay s x f))

def execHsApply (e : Nat) (s : State) : Out :=
  onEntry s e (fun x => decide (x.stage = .net)) (fun x =>
    match x.target with
    | .memory pa =>
      if !sliceTurn s x then .next s
      else if !inHbm pa then .fault (.outsideHbm pa)
      else .next (s.applyMem x pa)
    | _ => .next s)

/-- Whether an entry at a bank port is the next of its group on its bytes (R90), and those that name the same word are there too (R53). -/
def bankTurn (s : State) (e : Entry) : Bool :=
  (bankMates s e).all (fun x => decide (x.stage = .bank) &&
    (earlierArrivals s x).all (fun f => decide (f ∈ bankMates s e) || !(decide (f.stage = .bank) && x.sameGroup f && x.overlaps f)))

def State.applyAt (s : State) (e : Entry) : State :=
  match e.target with
  | .bank b off => s.applyBank e b off
  | _ => s

/-- An entry applied at its bank, when its turn has come, with those that name the same word (R53). -/
def applyAtBank (s : State) (id : Nat) (kind : EntOp → Bool) : Out :=
  onEntry s id (fun x => kind x.op && bankTurn s x) (fun x => .next ((bankMates s x).foldl State.applyAt s))

def EntOp.isArrival : EntOp → Bool
  | .arrive _ _ => true
  | _ => false

def EntOp.isInsert : EntOp → Bool
  | .insert _ _ => true
  | _ => false

def execBankApply (e : Nat) (s : State) : Out := applyAtBank s e (fun op => !op.isArrival && !op.isInsert)

/-- BARRIER_ARRIVAL (R57). -/
def execBarrierArrival (e : Nat) (s : State) : Out := applyAtBank s e EntOp.isArrival

/-- SUMMARY_APPLY (R297). -/
def execSummaryApply (e : Nat) (s : State) : Out := applyAtBank s e EntOp.isInsert

/-! ### LOAD_BIND and FC_WRAP (R100, R101) -/

/-- Whether a load stands where it may bind from the group queue, the core buffer or the L1. -/
def bindPlace (s : State) (e : Entry) : Bool :=
  decide (e.op = .load) && (decide (e.stage = .cb) || (decide (e.stage = .gq) && mayLeave s true e))

def execLoadBind (e : Nat) (s : State) : Out :=
  onEntry s e (bindPlace s) (fun x =>
    match x.issuer with
    | .group k =>
      (match earlyBytes s k x with
      | some bytes => .next ((s.noteOwed k x (l1Bytes s k x)).finishRead k x (natLE bytes))
      | none => .next s)
    | .peer _ _ => .next s)

def execFcWrap (core : Nat) (s : State) : Out :=
  if 2 ^ 32 ≤ (s.core core).fc then .next (s.wrapFc core) else .next s

/-! ### RESULT_WRITEBACK (R323) -/

/-- A result that has bound whole and waits for its register. -/
def PendRes.ready (r : PendRes) : Bool := decide (r.left = 0) && r.awaited

def execResultWriteback (res : Nat) (s : State) : Out :=
  match s.groups.find? (fun p => p.2.results.any (fun r => decide (r.id = res) && r.ready)) with
  | none => .next s
  | some (k, g) =>
    match g.results.find? (fun r => decide (r.id = res)) with
    | some r => .next (s.writeResult k r)
    | none => .next s

end Sys2Proof.Machine
end

