-- ==== Sys2Proof/Machine/EvGroup.lean ====
section
/-! DEFINITION. The events of groups and blocks on this chip: traps and PREEMPT at their boundaries (R240, R241, R243, R196),
replay (R42, R197), frozen blocks (R60), the ends of groups and blocks (R180, R182, R191, R192), the start of a block (R172,
R211, R217, R245), and the preparation of a rank (R21, R25, R232). -/

namespace Sys2Proof.Machine

/-- Whether a group can reach an issue boundary at all. -/
def Group.alive (g : Group) : Bool := g.resident && !g.stopped && !g.ended && decide (g.liveLanes ≠ [])

/-! ### TRAP_DELIVER and PREEMPT_DELIVER -/

/-- TRAP_DELIVER (R240, R241): the next trap of the group's boundary. -/
def execTrapDeliver (group : Nat) (s : State) : Out :=
  if (s.group group).alive then .next (s.boundaryTrap group) else .next s

/-- Whether a group waits for PREEMPT and may take it: no trap is pending, and it is in no save or restore handler
(R196, R241, R243). -/
def Group.preemptible (g : Group) (clock : Nat) : Bool :=
  g.alive && g.preempt && g.settled clock && decide (g.handler = .none ∨ g.handler = .trap) && g.sync.isNone &&
  decide (g.handler = .trap ∨ g.async = [])

def execPreemptDeliver (group : Nat) (s : State) : Out :=
  let g := s.group group
  let b := s.block g.block
  if !g.preemptible s.clock || !b.started then .next s
  else
    let s := s.dropWatches group
    .next (s.setGroup group ({ g with replay := none }.enterSave (BitVec.ofNat 32 (s.ctxDesc b.ctx).saveh)))

/-! ### PAGE_FAULT_REPLAY (R42, R43, R197) -/

/-- The physical page that an entry of a level maps, if it is a leaf. -/
def leafPage (val : Nat) : Option Nat := if val % 2 = 1 ∧ val / 8 % 4 ≠ 3 then some (val / 2 ^ 16 % 2 ^ 36 * 2 ^ 16) else none

/-- The addresses of the aligned 8 bytes of memory that are not all zero. -/
def wordsOf (mem : List Host.Cell) : List Nat := (mem.map (fun c => c.1 / 8 * 8)).foldl (fun l a => if l.head? = some a then l else a :: l) []

/-- The pages that tables of a level and those below them map (R26 to R29), each an address and the bits of its size: `words` are the addresses of
all entries that are not zero. -/
def pagesUnder (mem : List Host.Cell) (words : List Nat) : List PtLevel → List Nat → List (Nat × Nat)
  | [], _ => []
  | lv :: rest, tables =>
    let raws := (words.filter (fun a => tables.any (fun t => decide (t ≤ a ∧ a < t + 8 * 2 ^ lv.bits)))).map (fun a => readNat mem a 8)
    (raws.filterMap (fun r => if lv.leaf then (leafPage r).map (fun pa => (pa, lv.shift)) else none)) ++
      pagesUnder mem words rest (raws.filterMap (fun r => if lv.desc ∧ r % 2 = 1 ∧ r / 8 % 4 = 3 then some (r / 2 ^ 8 % 2 ^ 44 * 2 ^ 8) else none))

/-- The pages that the tables of all contexts map while memory is `mem`. -/
def State.pagesIn (s : State) (mem : List Host.Cell) : List (Nat × Nat) :=
  pagesUnder mem (wordsOf mem) ptLevels ((s.ctxs.filter (fun c => decide (c.2.state = 1))).map (fun c => c.2.root))

/-- The pages that are mapped in the second memory and not in the first. -/
def State.newPages (s : State) (old new : List Host.Cell) : List (Nat × Nat) :=
  let before := s.pagesIn old
  (s.pagesIn new).filter (fun p => !before.contains p)

/-- Whether a page lies in a die reservation in part (R72): none is as large as that. -/
def pageReserved (p : Nat × Nat) : Bool := inReserve p.1 || inReserve (p.1 + 2 ^ p.2 - 1)

/-- Whether a page is one that a change has freed whose invalidation is not complete (R44). -/
def State.pageFreed (s : State) (p : Nat × Nat) : Bool :=
  match s.inval with
  | some i => i.freed.any (fun q => decide (p.1 < q.1 + 2 ^ q.2 ∧ q.1 < p.1 + 2 ^ p.2))
  | none => false

/-- Whether an entry, in a table or not yet, names a page of a die reservation (R72). -/
def namesReserve (val : Nat) : Bool :=
  match leafPage val with
  | some pa => pageReserved (pa, 16)
  | none => false

/-- Whether a page-table entry that ctl2 writes was empty before (R44 guards the others). -/
def pteEmpty (s : State) (p : PteWrite) : Bool :=
  decide (p.pa % 8 = 0) && inHbm p.pa && decide (readNat s.mem p.pa 8 % 2 = 0)

/-- Whether ctl2 writes entries (R44, R72): they are empty before, and no page that they map, at whatever level, is reserved or has just been
freed. -/
def State.ptesGood (s : State) (ps : List PteWrite) : Bool :=
  let mem := ps.foldl (fun m p => writeNat m p.pa 8 p.val.toNat) s.mem
  ps.all (fun p => pteEmpty s p && !namesReserve p.val.toNat) &&
  (s.newPages s.mem mem).all (fun p => !pageReserved p && !s.pageFreed p)

/-- Page-table entries written at their home slices. -/
def State.writePtes (s : State) (ps : List PteWrite) : State :=
  ps.foldl (fun s p => s.storeMem p.pa (bytesLE 8 p.val.toNat) false) s

/-- Whether an address is mapped by a leaf. -/
def State.mapped (s : State) (ctx va : Nat) : Bool :=
  match s.walkVa ctx va with
  | .inl _ => true
  | .inr _ => false

/-- The pages that lanes faulted on become valid, and the group goes on at the faulting word; where they cannot, the context is
killed (R42). -/
def execPageFaultReplay (group : Nat) (ptes : List PteWrite) (s : State) : Out :=
  let g := s.group group
  let ctx := (s.block g.block).ctx
  match g.replay with
  | none => .next s
  | some r =>
    if !s.ptesGood ptes then .next s
    else
      let s' := s.writePtes ptes
      if r.pages.all (s'.mapped ctx) then .next (s'.setGroup group { s'.group group with replay := none, waiting := .nothing })
      else if ptes = [] then .next ((s.setGroup group { g with replay := none, stopped := true }).contributeKill ctx 0x20)
      else .next s

/-! ### BLOCK_FREEZE (R60, R128) -/

/-- Whether a group has taken PREEMPT and emptied its class counters, or has ended. -/
def Group.drained (g : Group) : Bool := g.ended || (decide (g.handler = .save ∨ g.handler = .saved) && decide (g.erq = []))

def execBlockFreeze (block : Nat) (s : State) : Out :=
  let b := s.block block
  if b.resident = true ∧ b.preempting = true ∧ b.frozen = false ∧ b.groups.all (fun k => (s.group k).drained) = true then
    .next (s.setBlock block { b with frozen := true })
  else .next s

/-! ### GROUP_END (R180, R182, R191, R192) -/

/-- A block whose groups have all ended: a gang member departs and is held; another block's resources return at once. -/
def State.endBlock (s : State) (bk : Nat) : State :=
  let b := s.block bk
  let fin := fun (s : State) => s.contribute 0x0002 [(16, 2, b.grid), (18, 1, 0), (20, 4, b.blockId), (24, 2, b.ctx)]
  if 1 < b.gsz then
    let s := s.depart bk
    fin (s.setBlock bk { s.block bk with held := true, finished := true })
  else fin (s.releaseBlock bk)

/-- Whether a block is still to be saved while its unit is pre-empted. -/
def State.unsaved (s : State) (b : Block) : Bool := !b.groups.all (fun k => (s.group k).ended)

/-- A group ends: its registers and its slot return, and its block may end (R180). In a unit that is pre-empted, an end may be
the last thing that the unit's saving waited for (R243). -/
def State.endGroup (s : State) (k : Nat) : State :=
  let g := s.group k
  let bk := g.block
  let s := (s.dropWatches k).setGroup k
    { Group.empty with resident := true, block := bk, gid := g.gid, ended := true, handler := g.handler, lanes := g.lanes }
  let b := s.block bk
  let left := (s.unitBlocks b.grid (unitIndex s b)).filter (fun p => s.unsaved p.2)
  if b.groups.all (fun k => (s.group k).ended) then
    let s := s.endBlock bk
    match left with
    | [] => s
    | p :: _ => if b.preempting then s.unitSaved p.1 else s
  else if b.preempting then s.unitSaved bk
  else s

/-- A trap that stands before a group whose lanes have all exited. -/
def Group.endsTrapped (g : Group) : Bool := decide (g.handler = .none ∧ g.async ≠ []) || g.sync.isSome

/-- GROUP_END: after the last EXIT the counters drain, and then comes the release side at .pod (R98, R180). Where a trap stands before the group, such as
that of a store which has timed out, the release completes as trapped (R138): no lane is left to take the trap to a handler, so that the group ends, and
where no handler could take it the context is killed (R240, log 107). -/
def execGroupEnd (group : Nat) (s : State) : Out :=
  let g := s.group group
  if g.resident = false ∨ g.ended = true ∨ g.stopped = true ∨ g.liveLanes ≠ [] ∨ g.erq ≠ [] ∨
    (s.block g.block).started = false then .next s
  else if g.endsTrapped then
    (if g.settled s.clock then
      let t := s.boundaryTrap group
      if (t.group group).stopped then .next t else .next (t.endGroup group)
    else .next s)
  else if !s.entries.all (fun f => decide (f.issuer ≠ .group group) || !f.ordered || f.performedAt 5) || s.owed group g.nextSeq then .next s
  else if g.flushed || g.flushLost then .next (s.endGroup group)
  else if g.flush.isNone then .next (s.startFlush group)
  else .next s

/-! ### BLOCK_START (R172, R211, R217, R245) -/

/-- A group as placement leaves it, every lane RUN at an offset. -/
def freshGroup (bk gid : Nat) (pc : Word) : Group :=
  { Group.empty with resident := true, block := bk, gid := gid }.mapLanes (fun _ _ => { Lane.empty with pc := pc, st := .run })
    (List.range laneCount)

/-- The start of one group: at the kernel's entry, or in the restore handler with its monitor FIRED (R245). -/
def startGroup (bk gid : Nat) (entry resth : Word) (restoring : Bool) : Group :=
  if restoring then { freshGroup bk gid resth with handler := .restore, mon := .fired } else freshGroup bk gid entry

/-- BLOCK_START: no group issues before T_start, and none where the context's descriptor is invalid (R229). -/
def execBlockStart (block : Nat) (s : State) : Out :=
  let b := s.block block
  let prep := findKey s.grids b.grid
  let d := s.ctxDesc b.ctx
  if b.resident = false ∨ b.started = true ∨ s.fab.podtime < b.tStart ∨ d.state ≠ 1 then .next s
  else
    match prep with
    | none => .next s
    | some p =>
      let s := b.groups.zipIdx.foldl (fun s k =>
        s.setGroup k.1 { startGroup block k.2 (BitVec.ofNat 32 p.entry) (BitVec.ofNat 32 d.resth) b.restoring with preempt := b.preempting }) s
      let s := s.setBlock block { b with started := true, frozen := b.restoring }
      .next (if b.restoring then s else s.attach block)

/-! ### RANK_PREPARE (R21, R25, R232) -/

/-- The leaves that cover virtual addresses from `va` to `stop`, each with the address that it begins at. -/
def State.leavesOf (s : State) (ctx : Nat) : Nat → Nat → Nat → List (Nat × Leaf)
  | 0, _, _ => []
  | fuel + 1, va, stop =>
    if stop ≤ va then []
    else
      match s.walkVa ctx va with
      | .inl l => (va / 2 ^ l.bits * 2 ^ l.bits, l) :: s.leavesOf ctx fuel ((va / 2 ^ l.bits + 1) * 2 ^ l.bits) stop
      | .inr _ => []

/-- Whether a leaf is one of an export window (R21). -/
def windowLeaf (flags : Nat) (l : Leaf) : Bool :=
  l.exp && !l.nc && decide (l.kind = if flags / 16 % 2 = 1 then Kind.so else Kind.rc) && decide (l.w = decide (flags / 8 % 2 = 0))

/-- The physical ranges, first byte and length, of the virtual addresses from `lo` to `hi` under leaves. -/
def rangesOf (ls : List (Nat × Leaf)) (lo hi : Nat) : List (Nat × Nat) :=
  ls.filterMap (fun p =>
    let a := max lo p.1
    let b := min hi (p.1 + 2 ^ p.2.bits)
    if a < b then some (p.2.pa + (a - p.1), b - a) else none)

/-- The bytes of the addresses from `lo` to `hi` that leaves cover. -/
def coveredBy (ls : List (Nat × Leaf)) (lo hi : Nat) : Nat := ((rangesOf ls lo hi).map Prod.snd).sum

def inRanges (rs : List (Nat × Nat)) (pa : Nat) : Bool := rs.any (fun r => decide (r.1 ≤ pa ∧ pa < r.1 + r.2))

/-- The bytes of a window filled with zeros (R21 step 2). -/
def State.zeroFill (s : State) (rs : List (Nat × Nat)) : State :=
  { s with mem := s.mem.filter (fun c => !inRanges rs c.1), poison := s.poison.filter (fun t => !inRanges rs (32 * t)) }

/-- Bytes written by ctl1's own access, which ignores W; none where a page is unmapped or a sector is poisoned (R232). -/
def State.writeCode (s : State) (ctx va : Nat) : List Byte → Option State
  | [] => some s
  | b :: rest =>
    match s.walkVa ctx va with
    | .inl l =>
      let pa := l.pa + va % 2 ^ l.bits
      if s.poison.contains (pa / 32) then none else { s with mem := writeByte s.mem pa b }.writeCode ctx (va + 1) rest
    | .inr _ => none

/-- The grid as this chip holds it after its preparation (R230). -/
def prepOf (d : List Byte) (bank : List Byte) : GridPrep :=
  { codeBase := recNat d 0 8, codeLen := recNat d 8 4, entry := recNat d 12 4, privBase := recNat d 24 8, psize := recNat d 32 4,
    saveBase := recNat d 40 8, saveStride := recNat d 48 8, bank := writeBytes [] 0 (bank.take 65536), bankBad := [] }

/-- Bytes of a context's local virtual addresses as a control core reads them, 64 KiB at a time; none for a fault or a poisoned sector. -/
def State.ctlSpan (s : State) (ctx : Nat) : Nat → Nat → Nat → Option (List Byte)
  | 0, _, n => if n = 0 then some [] else none
  | fuel + 1, va, n =>
    if n = 0 then some []
    else
      let m := min n (65536 - va % 65536)
      match s.ctlRead ctx va m with
      | none => none
      | some bs => (s.ctlSpan ctx fuel (va + m) (n - m)).map (fun rest => bs ++ rest)

/-- The descriptor, the code and the bank of a grid as ctl1 reads them on the origin chip (R232): from this chip's own memory where it is the
origin, and else what the other chip gave. -/
def State.rankSource (s : State) (grid : Nat) (img : RankImage) : Option RankImage :=
  let row := s.gridRow grid
  if row.origin ≠ s.fab.pos then (if img.ok then some img else none)
  else
    match s.ctlRead row.ctx row.desc 64 with
    | none => none
    | some d =>
      let len := recNat d 8 4
      match s.ctlSpan row.ctx (len / 65536 + 2) (recNat d 0 8) len with
      | none => none
      | some code =>
        if recNat d 16 8 = 0 then some { img with desc := d, code := code, bank := [] }
        else (s.ctlSpan row.ctx 2 (recNat d 16 8) 65536).map (fun bank => { img with desc := d, code := code, bank := bank })

/-- The window made, the export entry filled, and the code and the bank in place; none where the code's pages are not mapped. -/
def State.prepareRank (s : State) (grid rank : Nat) (img : RankImage) (ls : List (Nat × Leaf)) : Option State :=
  let row := s.gridRow grid
  let p := prepOf img.desc img.bank
  let s := s.zeroFill (rangesOf ls img.winBase (img.winBase + row.expLen))
  (s.writeCode row.ctx p.codeBase (img.code.take p.codeLen)).map (fun s =>
    { s with exports := insKey s.exports (grid * 1024 + rank) img.winBase, grids := insKey s.grids grid p })

/-- Whether this chip is to take up a rank that it does not hold yet. -/
def State.rankHere (s : State) (grid rank : Nat) : Bool :=
  decide ((s.gridRow grid).state = 1 ∧ rank < (s.gridRow grid).nranks ∧ s.rankPos grid rank = s.fab.pos) &&
  (findKey s.exports (grid * 1024 + rank)).isNone

/-- RANK_PREPARE: a step that fails kills the context with REASON 0x21 (R232); an image whose tables do not make the window
that R21 asks for is none that ctl2 obtains. -/
def execRankPrepare (grid rank : Nat) (img : RankImage) (s : State) : Out :=
  let row := s.gridRow grid
  if s.ctl.phase = .fatalHeld ∨ s.rankHere grid rank = false then .next s
  else if (s.ctxDesc row.ctx).state ≠ 1 then .next (s.contributeKill row.ctx 0x21)
  else
    match s.rankSource grid img with
    | none => .next (s.contributeKill row.ctx 0x21)
    | some src =>
      if !s.ptesGood img.tables || decide (img.winBase % 65536 ≠ 0) then .next s
      else
        let s' := s.writePtes img.tables
        let ls := s'.leavesOf row.ctx (row.expLen / 65536 + 1) img.winBase (img.winBase + row.expLen)
        if !ls.all (fun l => windowLeaf row.flags l.2) || decide (coveredBy ls img.winBase (img.winBase + row.expLen) < row.expLen) then .next s
        else
          match s'.prepareRank grid rank src ls with
          | some t => .next t.takeUp
          | none => .next (s.contributeKill row.ctx 0x21)

end Sys2Proof.Machine
end

