-- ==== Sys2Proof/Machine/EvBulk.lean ====
section
/-! DEFINITION. Bulk data that reaches this module: segments, read requests, end markers and flush markers, and the flush
acknowledgements of its own flushes (R78, R111 to R113, R154, R155, R161, R169, R422, R437, R459). -/

namespace Sys2Proof.Machine

/-- Whether an arriving item is discarded: its source is fenced (R163), or its generation is stale (R132). -/
def State.refuses (s : State) (src ctx cgen : Nat) : Bool := s.fab.fenced.contains src || decide (cgen ≠ s.cgen ctx)

/-- Whether this chip is to take up a rank of a context and holds none yet (R24): the rank map names it, but the window does not exist. -/
def State.notHeld (s : State) (ctx : Nat) : Bool :=
  let mine := s.tt.rankMap.flatMap (fun p =>
    if (s.gridRow p.1).ctx = ctx ∧ (s.gridRow p.1).state = 1 then
      (p.2.zipIdx.filter (fun r => decide (r.1 = s.fab.pos))).map (fun r => p.1 * 1024 + r.2)
    else [])
  decide (mine ≠ []) && !mine.any (fun k => (findKey s.exports k).isSome)

/-- Whether the chip that a request names a region of holds no rank of the context yet, though the context has a grid: it has still to apply the round
that moves one here, or to fill its export table, and has no such handle (R24, log 92). -/
def State.notYet (s : State) (ctx index : Nat) : Bool :=
  s.notHeld ctx ||
  (decide (1 ≤ index ∧ index < 4096 ∧ (s.handle ctx index).st = .free) && s.tt.grids.any (fun g => decide (g.2.ctx = ctx ∧ g.2.state = 1)) &&
   !s.exports.any (fun e => decide ((s.gridRow (e.1 / 1024)).ctx = ctx)))

/-- Whether a segment waits so; one for a reduction slot of this module does so only where a rank is to be taken up. -/
def State.segWaits (s : State) (m : SegMsg) : Bool := if m.slot then s.notHeld m.ctx else s.notYet m.ctx (m.dest / 2 ^ 48)

/-- A marker waits as well, and behind the segments of its source that do (R112, R113). -/
def State.markWaits (s : State) (src ctx : Nat) : Bool :=
  s.notHeld ctx || s.fab.bulkWaits.any (fun x => match x with
    | .seg g => decide (g.src = src ∧ g.ctx = ctx)
    | _ => false)

/-- Bulk data for such a rank performs nothing yet (R420): R154 gives it no tag to be answered NOT_HELD by, so that it waits here instead of being sent
again and again (log 92). -/
def State.keepBack (s : State) (m : Msg) : State := { s with fab := { s.fab with bulkWaits := s.fab.bulkWaits ++ [m] } }

/-! ### BULK_SEGMENT (R459, R161, R165 to R167) -/

/-- The name by which an operation of another chip holds a handle of this one (R37). -/
def bulkUser (src opnum : Nat) : Nat := 2 ^ 60 + src * 2 ^ 32 + opnum

def State.findBulkIn (s : State) (src opnum : Nat) : Option BulkIn :=
  s.fab.bulkIn.find? (fun b => decide (b.src = src ∧ b.opnum = opnum))

def State.setBulkIn (s : State) (b : BulkIn) : State :=
  let others := s.fab.bulkIn.filter (fun x => !decide (x.src = b.src ∧ x.opnum = b.opnum))
  { s with fab := { s.fab with bulkIn := b :: others } }

/-- Whether a relay reduction slot of this module has its destination here too. -/
def State.slotHere (s : State) (slot : Nat) : Bool :=
  let row := s.slotRow s.fab.pos slot
  decide (s.rankPos row.grid row.dest = s.fab.pos)

/-- An operation as its first segment shows it: its whole extent is judged once (R459). Of one to a relay reduction slot only the handle is known, and
it is judged where the destination lies on this chip. -/
def State.judgeBulk (s : State) (m : SegMsg) : BulkIn :=
  let index := m.dest / 2 ^ 48
  let st := if m.slot && !s.slotHere m.slotno then 0 else handleStatus (s.handle m.ctx index) index m.xhi true
  { src := m.src, opnum := m.opnum, ctx := m.ctx, good := decide (st = 0), status := st.toNat, segs := [], handle := index,
    lo := m.xlo, told := 0, object := [], objectBad := false }

/-- The elements that a segment writes (R154, R166, R435). -/
def segPuts (m : SegMsg) : Nat × List Put :=
  let o := m.dest % 2 ^ 48
  if m.c4 || decide (m.red ≠ 0) then
    (fmtBits m.fmt, (segElems m).map (fun e =>
      { bit := 8 * e.1, bad := m.bad,
        new := fun old => if m.c4 then addValue m.fmt old (blockValue (e.2 / 16) (e.2 % 16)) else combine m.fmt m.red old e.2 }))
  else if m.mask ≠ 0 then
    (4, ((List.range (2 * m.nbytes)).filter (fun i => decide (m.mask / 2 ^ i % 2 = 1))).map (fun i =>
      { bit := 8 * o + 4 * i, new := fun _ => recNat m.data (i / 2) 1 / 16 ^ (i % 2) % 16, bad := m.bad }))
  else
    (8, (List.range m.nbytes).map (fun i =>
      { bit := 8 * (o + i), new := fun _ => recNat m.data i 1, bad := m.bad }))

/-- A judged segment applied: bytes and reductions at once, a merge's object when its end markers are in (R437), a
contribution at its slot (R170). -/
def State.applySegment (s : State) (m : SegMsg) (b : BulkIn) : State :=
  let b := { b with segs := b.segs ++ [m.segnum] }
  if m.slot then
    let user := if s.slotHere m.slotno then bulkUser m.src m.opnum else 0
    ((s.setBulkIn b).slotBegin m user b.status).slotContribute m
  else if !b.good then s.setBulkIn b
  else if m.fmt = 15 then
    s.setBulkIn { b with object := writeBytes b.object (m.dest % 2 ^ 48) (m.data.take m.nbytes), objectBad := b.objectBad || m.bad }
  else (s.setBulkIn b).putAll (.mem m.ctx b.handle) (segPuts m).1 (segPuts m).2

/-- The read operation of this chip that an answer belongs to (R154). -/
def State.reader (s : State) (src opnum : Nat) : Option EngineOp :=
  s.ops.find? (fun o => decide (o.stage = .remoteRead ∧ o.opnum = opnum ∧ o.awaited = [src]))

/-- One element of `w` bits laid into a fetched image. -/
def imagePut (w bit v : Nat) (m : List Host.Cell) : List Host.Cell :=
  if w < 8 then
    let k := 2 ^ (bit % 8)
    let old := readNat m (bit / 8) 1
    writeNat m (bit / 8) 1 (old - old / k % 2 ^ w * k + v % 2 ^ w * k)
  else writeNat m (bit / 8) (w / 8) v

/-- Elements of an answer filled in at the source positions that they came from: DEST is the index of the first. -/
def State.replySegment (s : State) (m : SegMsg) : State :=
  match s.reader m.src m.opnum with
  | none => s
  | some o =>
    let r := o.wanted
    let w := fmtBits r.fmt
    let ps := (sharedPositions r r).drop (m.dest % 2 ^ 48)
    let n := if w < 8 then 2 * m.nbytes else m.nbytes / (w / 8)
    let es := (ps.take n).zipIdx.map (fun p =>
      let b := w * p.2 / 8
      (r.bitAt p.1.1 p.1.2.1 p.1.2.2, recNat m.data b ((w + 7) / 8) / 2 ^ (w * p.2 % 8) % 2 ^ w))
    let image := es.foldl (fun im e => imagePut w e.1 e.2 im) o.image
    let bad := if m.bad then es.flatMap (fun e => (List.range ((w + 7) / 8)).map (fun j => e.1 / 8 + j)) else []
    s.setOp { o with image := image, imageBad := o.imageBad ++ bad }

def execBulkSegment (m : SegMsg) (s : State) : Out :=
  if m.dst ≠ s.fab.pos ∨ s.refuses m.src m.ctx m.cgen = true then .next s
  else if m.reply then .next (s.replySegment m)
  else if s.segWaits m then .next (s.keepBack (.seg m))
  else
    match s.findBulkIn m.src m.opnum with
    | some b => if b.segs.contains m.segnum then .next s else .next (s.applySegment m b)
    | none =>
      let b := s.judgeBulk m
      let s := if b.good && (!m.slot || s.slotHere m.slotno) then s.holdHandle m.ctx b.handle (bulkUser m.src m.opnum) else s
      .next (s.applySegment m b)

/-! ### BULK_READ_REQUEST (R36, R154) -/

/-- The record that a read request describes. -/
def readReqRecord (m : ReadReqMsg) : TileRec :=
  { readTile [] with base := m.base, fmt := m.fmt, d0 := m.d0, d1 := m.d1, d2 := m.d2, vr := m.vr, vc := m.vc, s1 := m.s1, s2 := m.s2 }

/-- The elements of the answer packed in element order, with their poison. -/
def State.packedReply (s : State) (m : ReadReqMsg) : List OutByte :=
  let r := readReqRecord m
  let l : Loc := .mem m.ctx r.index
  let w := fmtBits r.fmt
  let x : Source := { byte := s.locByte l, bad := fun a n => s.locBad l a n }
  outBytes w ((sharedPositions r r).zipIdx.map (fun p =>
    let b := r.bitAt p.1.1 p.1.2.1 p.1.2.2
    (w * p.2, x.elem w b, x.elemBad w b)))

/-- The segments of an answer: DEST is the index of the first element. -/
def replySegs (src max w : Nat) (h : BulkHead) (bs : List OutByte) : List SegMsg :=
  let runs := runsOf max (bs.map (fun b => { b with part := 0 }))
  runs.zipIdx.map (fun r =>
    let at0 := (r.1.map OutByte.pos).headD 0
    h.seg src r.2 (at0 * 8 / w) r.1.length (r.1.map (fun b => BitVec.ofNat 8 b.val)) (r.1.any OutByte.bad) 0)

/-- The answer's segments, its end markers when they are due, and its timer (R113, R164). -/
def State.placeReply (s : State) (m : ReadReqMsg) (via : Nat) (segs : List SegMsg) (status : Nat) : State :=
  let b := s.newBulk (replyNum m.src m.opnum) m.ctx m.src (2 ^ 64 - 1)
  let s := s.placeSegs b via segs
  (s.wholeBulk ((s.fab.bulkOps.find? (fun x => decide (x.opnum = b.opnum))).getD b) via status).settle

def execBulkReadRequest (m : ReadReqMsg) (s : State) : Out :=
  if m.dst ≠ s.fab.pos ∨ s.refuses m.src m.ctx m.cgen = true then .next s
  else if s.notYet m.ctx (readReqRecord m).index then .next (s.keepBack (.readReq m))
  else
    let r := readReqRecord m
    let st := handleStatus (s.handle m.ctx r.index) r.index r.last false
    let via := (s.bulkPath m.src m.direct).getD 0xFFFF
    let h : BulkHead := { dst := m.src, ctx := m.ctx, cgen := m.cgen, red := 0, c4 := false, slot := false, slotno := 0, fmt := m.fmt,
                          via := via, reply := true, direct := m.direct, opnum := m.opnum, handle := 0, srcrank := 0, lo := 0, hi := 0, segs := 0 }
    let segs := if st = 0 then replySegs s.fab.pos (64 * s.fab.params.segMax) (fmtBits m.fmt) h (s.packedReply m) else []
    .next (s.placeReply m via segs st.toNat)

/-! ### Markers (R112, R113, R155, R161) -/

/-- The key of a marker: flush markers by source, core, slot and number; end markers by source and number, those of an
answer apart. -/
def markerKey (m : MarkerMsg) (g : Gather) : Bool :=
  decide (g.typ = m.typ ∧ g.src = m.src ∧ g.number = m.number) &&
  (if m.typ = 0 then decide (g.core = m.core ∧ g.gslot = m.gslot) else decide ((g.gslot = replySlot) = (m.gslot = replySlot)))

/-- A marker counted once for its path; the gather as it then stands, and whether this marker completed it. -/
def State.gatherMarker (s : State) (m : MarkerMsg) : State × Gather × Bool :=
  let old : Gather := (s.fab.gathers.find? (markerKey m)).getD
    { typ := m.typ, src := m.src, core := m.core, gslot := m.gslot, number := m.number, ctx := m.ctx, cgen := m.cgen,
      paths := m.paths, got := [], status := 0, flag := m.flag }
  let g := if old.got.contains m.via then old else { old with got := old.got ++ [m.via], status := Nat.lor old.status m.status }
  let fab := { s.fab with gathers := g :: s.fab.gathers.filter (fun x => !markerKey m x) }
  ({ s with fab := fab }, g, decide (old.got.length < old.paths ∧ g.paths ≤ g.got.length))

/-- The arrival flag of an end marker (R155, R422). -/
def State.markFlag (s : State) (user ctx flag : Nat) (status : DWord) : State :=
  if flag = 2 ^ 64 - 1 then s else s.addFlag user ctx (flag / 2 ^ 48) (flag % 2 ^ 48) status

/-- The completion of a merge whose object came as bulk data (R437), at its home slice (R298); one that failed on its way, so that the object may not
be whole, merges nothing. -/
def State.mergeBulk (s : State) (b : BulkIn) (status : Nat) : DWord × State :=
  if rejects status ∨ b.object = [] then (0, s)
  else
    let typ := (readByte b.object b.lo).toNat
    let n := ((skKindOfType typ).map SkKind.size).getD 64
    s.mergeInto (.mem b.ctx b.handle) b.lo typ (readBytes b.object b.lo n) b.objectBad

/-- How many sources a relay reduction slot of another module serves that has its destination on this chip. -/
def State.slotSources (s : State) (pos ctx : Nat) : Nat :=
  match s.tt.slots.find? (fun p => decide (p.1 / 16 = pos ∧ p.2.held = true ∧ p.2.ctx = ctx ∧ s.rankPos p.2.grid p.2.dest = s.fab.pos)) with
  | some p => p.2.ranks.length
  | none => 0

/-- What a slot's chunks were refused for here reaches the completion of each source that contributed to them (R435, R459): the next end marker of each
(log 93). -/
def State.refusals (s : State) (m : MarkerMsg) : Nat × State :=
  if m.gslot ≠ forwardSlot then (0, s)
  else
    let due := fun (b : BulkIn) => decide (b.src = m.src ∧ b.ctx = m.ctx ∧ b.status ≠ 0 ∧ b.told < s.slotSources m.src m.ctx)
    let told := s.fab.bulkIn.map (fun b => if due b then { b with told := b.told + 1 } else b)
    ((s.fab.bulkIn.filter due).foldl (fun n b => Nat.lor n b.status) 0, { s with fab := { s.fab with bulkIn := told } })

/-- A chunk from a slot of another module is applied: the operations of this chip that it was still to come for hold their destination no longer for it (R37). -/
def State.slotArrived (s : State) (b : BulkIn) : State :=
  match s.fab.slotWaits.find? (fun w => decide (w.pos = b.src ∧ w.ctx = b.ctx ∧ w.index = b.handle) && w.chunks.contains (b.lo / 4096)) with
  | none => s
  | some w =>
    let left := w.chunks.filter (fun c => decide (c ≠ b.lo / 4096))
    let others := s.fab.slotWaits.filter (fun x => decide (x ≠ w))
    let s := { s with fab := { s.fab with slotWaits := if left = [] then others else others ++ [{ w with chunks := left }] } }
    if left = [] then s.retire w.user else s

/-- All end markers of an operation are in: the completion is written (R113). -/
def State.endBulk (s : State) (m : MarkerMsg) (status : Nat) : State :=
  if m.gslot = replySlot then
    match s.reader m.src m.number with
    | some o => s.setOp { o with status := Nat.lor o.status status, awaited := [] }
    | none => s
  else
    let mine := fun (o : SlotOp) => decide (o.src = m.src ∧ o.opnum = m.number)
    match s.fab.slotOps.find? mine with
    | some _ =>
      let ends := fun (x : SlotOp) => if mine x then { x with ended := true, flag := m.flag, status := Nat.lor x.status status } else x
      { s with fab := { s.fab with slotOps := s.fab.slotOps.map ends } }.settle
    | none =>
      match s.findBulkIn m.src m.number with
      | none =>
        let (refused, s) := s.refusals m
        s.markFlag (bulkUser m.src m.number) m.ctx m.flag (BitVec.ofNat 64 (Nat.lor status refused))
      | some b =>
        let (st, s) := s.mergeBulk b status
        let s := s.setBulkIn { b with object := [] }
        let s := if m.gslot = forwardSlot then s.slotArrived b else s
        (s.markFlag (bulkUser m.src m.number) m.ctx m.flag (BitVec.ofNat 64 (Nat.lor status b.status) ||| st)).retire (bulkUser m.src m.number)

/-- The flush acknowledgement, on rsp: the flush number, and whether it ends with PEER_FENCED; the tag says whose flush it
is (log 31). -/
def flushAckMsg (s : State) (g : Gather) (ctx cgen : Nat) (lost : Bool) : LsMsg :=
  { flow := 4, op := 0xF5, src := s.fab.pos, dst := g.src, width := 0, scope := 5, order := 0, cgen := cgen, ctx := ctx,
    tag := g.gslot * 256 + g.core, seq := 0, addr := 0, data := BitVec.ofNat 128 (g.number + (if lost then 2 ^ 32 else 0)), data2 := 0 }

/-- Whether a gather still awaits a path by a fenced chip: a destination cannot see by which paths the missing markers come (log 44). -/
def Gather.awaits (g : Gather) (x : Nat) : Bool :=
  decide (g.got.length < g.paths) && !g.got.contains x && Config.awaitsVia x g.src g.number

/-- A gather that ends with PEER_FENCED: the acknowledgement with its flag, or the completion with the status bit. -/
def State.loseGather (s : State) (g : Gather) : State :=
  let s := { s with fab := { s.fab with gathers := s.fab.gathers.map (fun y => if y = g then { g with paths := 0 } else y) } }
  if g.typ = 0 then s.enterFlow (flushAckMsg s g g.ctx g.cgen true)
  else
    let m : MarkerMsg :=
      { src := g.src, dst := s.fab.pos, ctx := g.ctx, cgen := g.cgen, typ := 1, via := 0xFFFF, core := g.core, gslot := g.gslot,
        number := g.number, paths := g.paths, status := g.status, flag := g.flag }
    s.endBulk m (Nat.lor g.status stFenced.toNat)

/-- A gather that still awaits a path by a chip that is present and fenced ends so (R163). -/
def State.fenceGather (s : State) (g : Gather) : State :=
  if s.fab.fenced.any (fun x => s.fab.occupied.contains x && g.awaits x) then s.loseGather g else s

def execEndMarker (m : MarkerMsg) (s : State) : Out :=
  if m.dst ≠ s.fab.pos ∨ m.typ ≠ 1 ∨ s.refuses m.src m.ctx m.cgen = true then .next s
  else if decide (m.gslot ≠ replySlot) && s.markWaits m.src m.ctx then .next (s.keepBack (.marker m))
  else
    let (s', g, now) := s.gatherMarker m
    if now then .next (s'.endBulk m g.status) else .next (s'.fenceGather g)

/-! ### Flushes (R112, R153, R163) -/

/-- FLUSH_MARKER. A contribution to a slot of this module counts as applied once it is in the slot, before its chunk is combined (log 112). -/
def execFlushMarker (m : MarkerMsg) (s : State) : Out :=
  if m.dst ≠ s.fab.pos ∨ m.typ ≠ 0 ∨ s.refuses m.src m.ctx m.cgen = true then .next s
  else if s.markWaits m.src m.ctx then .next (s.keepBack (.marker m))
  else
    let (s', g, now) := s.gatherMarker m
    if now then .next (s'.enterFlow (flushAckMsg s' g m.ctx m.cgen false)) else .next (s'.fenceGather g)

/-- A destination has acknowledged a flush (R112 step 5). -/
def Flush.ack (f : Flush) (src : Nat) (lost : Bool) : Flush :=
  { f with awaited := f.awaited.filter (fun d => decide (d ≠ src)), fenced := f.fenced || lost }

/-- A flush with no destination left has ended, unless PEER_FENCED has still to be reported. -/
def Flush.left (f : Flush) : Option Flush := if f.awaited = [] ∧ f.fenced = false then none else some f

/-- A flush acknowledgement for a group or, from 8192 on, for a submission queue (R236). -/
def State.ackFlush (s : State) (tag src number : Nat) (lost : Bool) : State :=
  if tag / 256 < 32 then
    let k := tag % 256 * 32 + tag / 256
    match (s.group k).flush with
    | some f => if f.number = number ∧ f.awaited.contains src = true then s.setGroup k { s.group k with flush := (f.ack src lost).left } else s
    | none => s
  else
    let q := tag % 256
    let sq := getKey SubQueue.empty s.ctl.queues q
    match sq.flush with
    | some f =>
      if f.number = number ∧ f.awaited.contains src = true then
        { s with ctl := { s.ctl with queues := setKey SubQueue.empty s.ctl.queues q { sq with flush := some (f.ack src lost) } } }
      else s
    | none => s

def execFlushAcknowledgement (m : LsMsg) (s : State) : Out :=
  if m.op ≠ 0xF5 ∨ m.dst ≠ s.fab.pos ∨ s.refuses m.src m.ctx m.cgen = true then .next s
  else .next (s.ackFlush m.tag m.src (m.data.toNat % 2 ^ 32) (decide (m.data.toNat / 2 ^ 32 % 256 = 1)))

end Sys2Proof.Machine
end

