-- ==== Sys2Proof/Machine/EvFabric.lean ====
section
/-! DEFINITION. LS messages that reach this module: the flow reorder buffers (R107 to R109), requests of other chips (R23,
R24, R461), replies and acknowledgements (R110, R137, R172, R460), notices and wakes (R16, R18, R117, R190), the
timers of the request slots (R136 to R138), and the ends of walks (R26 to R32, R38, R39, R45). -/

namespace Sys2Proof.Machine

/-! ### Flow reorder buffers (R107 to R109) -/

/-- What a flow reorder buffer does with a message now. -/
inductive FrbTurn where
  | drop
  | hold
  | go
  deriving DecidableEq, Repr

def isOrdered (flow : Nat) : Bool := decide (flow = 0 ∨ flow = 2 ∨ flow = 3)

def flowKey (m : LsMsg) : Nat := m.src * 8 + m.flow

/-- Whether a message of an ordered flow has been delivered and is not yet applied. -/
def inFlight (s : State) (m : LsMsg) : Bool :=
  s.entries.any (fun e =>
    match e.issuer with
    | .peer p m' => decide (p = m.src ∧ m'.flow = m.flow ∧ m'.seq = m.seq)
    | .group _ => false)

/-- Whether a sequence number stands before another, modulo 2^32. -/
def seqBefore (a b : Nat) : Bool := decide (a ≠ b ∧ seqAhead b a < 2 ^ 31)

/-- The bytes of a plain access whose message is only a part of it (log 32), or of its width. -/
def plainSize (m : LsMsg) : Nat :=
  let part := m.data2.toNat / 2 ^ 16 % 2 ^ 8
  if part ≠ 0 then part else 2 ^ m.width

/-- The lines of a request with the grid whose window they are in (R109). -/
def lineKeys (m : LsMsg) : List Nat :=
  let key := fun (a : Nat) => a / 128 * 2 ^ 16 + msgGrid m
  [key m.addr, key (m.addr + (if plainCode m.op then plainSize m else 2 ^ m.width) - 1)]

/-- How far a number stands beyond the lowest of its ordered flow that has still to be applied. -/
def State.ahead (s : State) (m : LsMsg) : Nat := seqAhead m.seq (getKey 0 s.fab.nextIn (flowKey m))

/-- Whether the entry that stands so far back in the flow, 0 for none, has still to be delivered. -/
def State.missing (s : State) (m : LsMsg) (back : Nat) : Bool :=
  decide (back ≠ 0 ∧ back < 2 ^ 30) && !(getKey [] s.fab.delivered (flowKey m)).contains (seqAhead m.seq back)

/-- Whether a lower-numbered request for one of the same 128-byte lines has still to be delivered in an unordered flow (R109): it waits in the
buffer, it was answered NOT_HELD and will be sent again, or it has not come, of which the message itself tells (log 34). -/
def lineHeld (s : State) (m : LsMsg) : Bool :=
  let meets := fun (l : Nat) => (lineKeys m).contains l
  s.fab.frb.any (fun x => decide (flowKey x = flowKey m) && (lineKeys x).any meets && seqBefore x.seq m.seq) ||
  (getKey [] s.fab.linesBack (flowKey m)).any (fun x => meets x.2 && seqBefore x.1 m.seq) ||
  s.missing m (msgLinks m).first || s.missing m (msgLinks m).last

def State.frbTurn (s : State) (m : LsMsg) : FrbTurn :=
  if isOrdered m.flow then
    if 2 ^ 31 ≤ s.ahead m then .drop else if s.ahead m ≠ 0 then .hold else if inFlight s m then .drop else .go
  else if (getKey [] s.fab.delivered (flowKey m)).contains m.seq then .drop
  else if decide (m.flow = 1) && lineHeld s m then .hold
  else .go

/-- The buffer gives a message up. -/
def State.leaveFrb (s : State) (m : LsMsg) : State := { s with fab := { s.fab with frb := s.fab.frb.filter (fun x => decide (x ≠ m)) } }

/-- The buffer keeps a message. -/
def State.keepFrb (s : State) (m : LsMsg) : State :=
  if s.fab.frb.contains m then s else { s with fab := { s.fab with frb := s.fab.frb ++ [m] } }

/-- Whether a number is still remembered beside a newer one: those that are 2^30 away and more are of an earlier round of the counter (R107,
log 34). -/
def seqNear (a b : Nat) : Bool := decide (seqAhead a b < 2 ^ 30) || decide (seqAhead b a < 2 ^ 30)

/-- An unordered flow remembers the number (R107), and in rc it holds nothing back any longer (R109). -/
def State.flowDelivered (s : State) (m : LsMsg) : State :=
  let k := flowKey m
  if isOrdered m.flow then s
  else
    let seen := addSorted ((getKey [] s.fab.delivered k).filter (seqNear m.seq)) m.seq
    let back := (getKey [] s.fab.linesBack k).filter (fun x => decide (x.1 ≠ m.seq))
    { s with fab := { s.fab with delivered := setKey [] s.fab.delivered k seen, linesBack := setKey [] s.fab.linesBack k back } }

/-- A message that is over as soon as it is delivered. -/
def State.passed (s : State) (m : LsMsg) : State := (s.flowDelivered m).flowApplied m

/-- An arriving or held message in its flow's turn (R108, R109): one of a stale generation is discarded (R132), which
counts as its application (log 34). -/
def onFlow (m : LsMsg) (flows : List Nat) (body : State → State) (s : State) : Out :=
  if m.dst ≠ s.fab.pos ∨ s.fab.shut m.src = true ∨ flows.contains m.flow = false then .next s
  else
    match s.frbTurn m with
    | .drop => .next (s.leaveFrb m)
    | .hold => .next (s.keepFrb m)
    | .go => if m.cgen ≠ s.cgen m.ctx then .next ((s.leaveFrb m).passed m) else .next (body (s.leaveFrb m))

/-! ### Requests of other chips (R23, R24, R153, R461) -/

/-- The atomics and reductions of the lane opcodes 0x55 to 0x6A. -/
def laneAtomics : List AtomOp :=
  [.add, .incw, .decw, .badd, .min, .max, .nmin, .nmax, .and, .or, .xor, .xchg, .cas, .fadd, .fmax, .add]
def laneReductions : List RedOp := [.add, .fadd, .fmax, .max, .min, .or]

/-- What a request asks for (R153). -/
def requestOp (m : LsMsg) : Option EntOp :=
  if [0x4A, 0x4E, 0x53, 0x9C, 0xC4, 0xC5, 0xC6, 0xC8].contains m.op then some .load
  else if [0x4B, 0x4F, 0x54, 0x9D].contains m.op then some .store
  else if 0x55 ≤ m.op ∧ m.op < 0x65 then laneAtomics[m.op - 0x55]?.map EntOp.atom
  else if 0x65 ≤ m.op ∧ m.op < 0x6B then laneReductions[m.op - 0x65]?.map EntOp.red
  else if m.op = 0xB7 then some (.marm (m.data.toNat % 2 ^ (8 * 2 ^ m.width)))
  else if m.op = 0xB9 then some (.atom .add)
  else if m.op = 0xBA then some (.atom .cas)
  else if m.op = 0xBB then some (.atom .xchg)
  else if m.op = 0xC7 then some (.skinit (skKindOf (m.data.toNat / 2 ^ 64 % 4)) (m.data.toNat % 2 ^ 64))
  else if [0xBC, 0xBD, 0xBE, 0xC0, 0xC3].contains m.op then some (.engWin (2 ^ 64) (decide (m.data2.toNat % 2 = 1)))
  else none

/-- The bytes of a request: its width, the size of a part (log 32), or the object of a SKINIT. -/
def requestSize (m : LsMsg) (op : EntOp) : Nat :=
  match op with
  | .skinit kind _ => kind.size
  | .load => plainSize m
  | .store => plainSize m
  | _ => 2 ^ m.width

/-- The first operand of a request, without the links of an atomic or a reduction. -/
def requestData (m : LsMsg) (op : EntOp) : Nat :=
  match op with
  | .atom _ => m.data.toNat % 2 ^ 64
  | .red _ => m.data.toNat % 2 ^ 64
  | _ => m.data.toNat

/-- The entry of a request (R83): it stands at its home slice's network or at its bank. -/
def peerEntry (s : State) (m : LsMsg) (op : EntOp) (target : Target) (kind : Kind) (nc : Bool) : Entry :=
  { id := s.nextId, issuer := .peer m.src m, core := 0, ctx := m.ctx, cgen := m.cgen, seq := 0, sub := 0, lane := none, pc := 0,
    op := op, target := target, addr := m.addr, kind := kind, nc := nc, priv := false, scope := m.scope, dscope := m.scope,
    acq := false, rel := false, size := requestSize m op, off := 0, res := none, data := requestData m op,
    data2 := m.data2.toNat % 2 ^ 64, whole := [], byHandler := false, opc := m.op, wcode := m.width, word := 0, pfxWord := 0,
    prefixed := false, tag := m.tag, fseq := m.seq, epoch := getKey 0 s.epochs 0, merged := [], waits := none, early := [], prior := none, begun := false,
    stage := match target with
      | .memory _ => .net
      | _ => .bank }

/-- NOT_HELD (R24, R108): nothing is delivered and nothing is applied; in an unordered flow later entries for the line wait (R109). -/
def State.answerNotHeld (s : State) (m : LsMsg) : State :=
  let s := s.reply m 0xF2 0 0
  let k := flowKey m
  if m.flow = 1 then
    let back := (lineKeys m).map (fun l => (m.seq, l)) ++ (getKey [] s.fab.linesBack k).filter (fun x => decide (x.1 ≠ m.seq))
    { s with fab := { s.fab with linesBack := setKey [] s.fab.linesBack k back } }
  else s

/-- The owner's translation of an address for a request (R23): its TLB has it, or it takes a walk. The TLB that serves requests of other chips is
the L2 TLB of die 0 (log 54). -/
def State.ownerLook (s : State) (ctx va : Nat) (write : Bool) : Look :=
  match (getKey [] s.l2tlb 0).find? (tlbCovers ctx va) with
  | some e => if write && !e.w then .bad .noWrite else if write && !e.d then .miss else .hit e
  | none => .miss

/-- A grid-global request at its owner (R23, R24): the export table, and then the page tables; it waits in the buffer for a walk (R39). A request
that these do not let through has no answer of its own in R153, so it is answered NOT_HELD (log 54). -/
def State.deliverGlobal (s : State) (m : LsMsg) (op : EntOp) : State :=
  match findKey s.exports (msgGrid m * 1024 + rankOf m.addr) with
  | none => s.answerNotHeld m
  | some base =>
    let va := base + winOff m.addr
    match s.ownerLook m.ctx va op.mayWrite with
    | .bad _ => s.answerNotHeld m
    | .miss => (s.startPeerWalk m.ctx va op.mayWrite).keepFrb m
    | .hit e => (s.flowDelivered m).placeEntry (peerEntry s m op (.memory (e.pa + (va - e.va))) e.kind e.nc)

/-- Whether a request is for a gang window. -/
def windowAsk (m : LsMsg) : Bool := decide (m.flow = 2) || (decide (m.flow = 3) && msgWin m)

/-- The member of the requester's gang that an index names, where it is resident here and has started (R461). -/
def State.gangMember (s : State) (m : LsMsg) (i : Nat) : Option Nat :=
  (s.blocks.find? (fun p => decide (p.2.resident = true ∧ p.2.started = true ∧ 1 < p.2.gsz ∧ p.2.ctx = m.ctx ∧ p.2.grid = msgGrid m ∧
    p.2.blockId / p.2.gsz = msgBlock m / p.2.gsz ∧ p.2.gangIdx = i))).map Prod.fst

/-- A window request at the core of its member (R14, R461). -/
def State.deliverWindow (s : State) (m : LsMsg) (op : EntOp) : State :=
  match s.gangMember m (m.addr / 2 ^ 19) with
  | none => (s.reply m 0xF8 0 0).passed m
  | some bk => (s.flowDelivered m).placeEntry (peerEntry s m op (.bank bk (m.addr % 2 ^ 19)) .rc false)

/-- FRB_DELIVER (R108, R109): a request goes on to its home slice or bank; one with an OP of no request is discarded, and a MARM's cancel takes its watch
away (R117). -/
def execFrbDeliver (m : LsMsg) (s : State) : Out :=
  onFlow m [0, 1, 2, 3] (fun s =>
    if msgCancel m then (s.dropWatch (fun w => decide (w.pos = m.src ∧ w.group = msgGroup m ∧ w.entry = m.data.toNat / 2 ^ 64))).passed m
    else match requestOp m with
    | none => s.passed m
    | some op => if windowAsk m then s.deliverWindow m op else s.deliverGlobal m op) s

/-! ### WALK_COMPLETE (R26 to R32, R38, R39, R45) -/

/-- A walk's result for its group: both TLBs filled, or the bad end that the word will meet. -/
def State.endGroupWalk (s : State) (w : Walk) : State :=
  let g := s.group w.group
  let bad := fun (s : State) (out : WalkEnd) =>
    let r : WalkOut := { page := w.va / 65536, write := w.write, out := out }
    s.setGroup w.group { s.group w.group with walked := (s.group w.group).walked ++ [r] }
  let s := s.setGroup w.group { g with waiting := if g.waiting = .walk then .nothing else g.waiting }
  match s.walkVa w.ctx w.va with
  | .inr .tableError => bad (s.logError (.tableError w.ctx w.va)) .tableError
  | .inr out => bad s out
  | .inl l =>
    match l.allows w.write w.fetch with
    | some out => bad s out
    | none => (s.markLeaf l w.write).tlbFill w.core (l.tlbEnt w.ctx w.va (w.write || l.d))

/-- A walk's result for CACHE or PREF, which set neither A nor D and raise nothing (R73, R414, log 105). -/
def State.endProbe (s : State) (w : Walk) : State :=
  let g := s.group w.group
  let found := (match s.walkVa w.ctx w.va with
    | .inl l => some (l.pa + w.va % 2 ^ l.bits, l.kind, l.nc)
    | .inr _ => none)
  s.setGroup w.group { g with waiting := if g.waiting = .walk then .nothing else g.waiting, probed := some (w.va, found) }

/-- Whether a request that the buffer keeps waits for a walk (R23). -/
def ownerWaits (s : State) (w : Walk) (m : LsMsg) : Bool :=
  decide (m.ctx = w.ctx ∧ s.frbTurn m = .go) && !windowAsk m &&
  (match requestOp m, findKey s.exports (msgGrid m * 1024 + rankOf m.addr) with
  | some op, some base => decide (op.mayWrite = w.write ∧ (base + winOff m.addr) / 65536 = w.va / 65536)
  | _, _ => false)

/-- A walk's result for requests of other chips (R23): the owner's TLB filled, or NOT_HELD for those that wait (log 54); ctl3 logs a table
error (R30). -/
def State.endPeerWalk (s : State) (w : Walk) : State :=
  let bad := fun (s : State) => (s.fab.frb.filter (ownerWaits s w)).foldl (fun s m => (s.leaveFrb m).answerNotHeld m) s
  match s.walkVa w.ctx w.va with
  | .inr .tableError => bad (s.logError (.tableError w.ctx w.va))
  | .inr _ => bad s
  | .inl l =>
    if l.allows w.write false ≠ none then bad s
    else
      let e := l.tlbEnt w.ctx w.va (w.write || l.d)
      let s := s.markLeaf l w.write
      { s with l2tlb := setKey [] s.l2tlb 0 (tlbAdd 8192 (getKey [] s.l2tlb 0) e) }

def State.endWalk (s : State) (w : Walk) : State := if w.peer then s.endPeerWalk w else if w.quiet then s.endProbe w else s.endGroupWalk w

/-- The walks of a die that its 64 walkers serve: the first that came (R39). -/
def State.served64 (s : State) (die : Nat) : List Walk := (s.walks.filter (fun w => decide (dieOf w.core = die))).take 64

/-- WALK_COMPLETE: a walk that a walker serves ends; one that waits for a walker does not yet (R39). -/
def execWalkComplete (walk : Nat) (s : State) : Out :=
  match s.walks.find? (fun w => decide (w.id = walk) && decide (w ∈ s.served64 (dieOf w.core))) with
  | none => .next s
  | some w =>
    let epoch := getKey 0 s.epochs (dieOf w.core)
    if w.epoch ≠ epoch then
      .next { s with walks := s.walks.map (fun x => if x.id = walk then { x with epoch := epoch } else x) }
    else .next ({ s with walks := s.walks.filter (fun x => decide (x.id ≠ walk)) }.endWalk w)


/-- SKIP (R108): an ordered flow counts it as the application of its number; an unordered one discards it, and its number, which will not be sent
again, holds nothing back any longer (R109). -/
def execSkip (m : LsMsg) (s : State) : Out :=
  if m.op ≠ 0xFA then .next s
  else if isOrdered m.flow = true then onFlow m [0, 2, 3] (fun s => s.passed m) s
  else if m.flow = 1 ∧ m.dst = s.fab.pos ∧ s.frbTurn m ≠ .drop then .next (s.flowDelivered m)
  else .next s

/-! ### Replies (R110, R136, R137, R172) -/

/-- The entry that a reply answers, where its tag is current. -/
def State.answered (s : State) (m : LsMsg) : Option Entry :=
  let slot := (s.core (msgCore m)).slot (m.tag / 16)
  if slot.inUse = true ∧ slot.gen = m.tag % 16 then s.findEntry slot.entry else none

/-- A reply that no request waits for is dropped and counted (R137). -/
def State.dropStale (s : State) (core : Nat) : State :=
  let c := s.core core
  s.setCore core { c with stale := if c.stale < 2 ^ 32 - 1 then c.stale + 1 else c.stale }

/-- A reply on rsp, in its flow's turn: its request slot becomes free, and its entry ends as `f` says. -/
def onReply (m : LsMsg) (op : Nat) (f : Entry → State → State) (s : State) : Out :=
  if m.op ≠ op then .next s
  else
    onFlow m [4] (fun s =>
      let s := s.passed m
      match s.answered m with
      | none => s.dropStale (msgCore m)
      | some e => f e (s.freeTag (msgCore m) m.tag false)) s

/-- A MARM's compare answered: only the newest one arms the monitor, and the watch of an older one is cancelled (R117); a wake that came before it has
fired it. -/
def State.marmReply (s : State) (k : Nat) (e : Entry) (val : Nat) : State :=
  let s := (s.removeEntry e).bindRes k e.res 0 val
  let g := s.group k
  if g.monEntry = e.id ∧ g.mon = .pending then s.setGroup k { g with mon := if val = 0 then .armed else .fired }
  else if val = 0 then s.enterFlow (cancelMsg s k e.id e.dest)
  else s

/-- Bytes fetched of a window source on another chip (R420). -/
def State.windowData (s : State) (e : Entry) (op val : Nat) : State :=
  let s := s.removeEntry e
  let put := fun (o : EngineOp) => if o.id = op then { o with image := writeNat o.image (e.target.base % 2 ^ 19) e.size val } else o
  { s with ops := s.ops.map put }

/-- Poisoned bytes fetched of a window source (R78, R300): they count as read, and as poisoned. -/
def State.windowBad (s : State) (e : Entry) (op val : Nat) : State :=
  let bytes := (List.range e.size).map (fun i => e.target.base % 2 ^ 19 + i)
  let s := s.windowData e op val
  { s with ops := s.ops.map (fun o => if o.id = op then { o with imageBad := o.imageBad ++ bytes } else o) }

/-- A result that is whole is written at once, and its lane runs again (R172, R176). -/
def State.settleLane (s : State) (k : Nat) (e : Entry) : State :=
  let done := (s.group k).results.find? (fun r => decide (some r.id = e.res) && decide (r.left = 0) && r.awaited && e.lane.isSome)
  let s := (match done with
    | some r => s.writeResult k r
    | none => s)
  s.resume k e

def execReplyData (m : LsMsg) (s : State) : Out :=
  onReply m 0xF0 (fun e s =>
    let val := m.data.toNat % 2 ^ (8 * e.size)
    match e.op with
    | .engWin op _ => s.windowData e op val
    | .marm _ => s.marmReply e.owner e (m.data.toNat % 2 ^ 32)
    | _ => (s.finishRead e.owner e val).settleLane e.owner e) s

/-- The status that a window write's acknowledgement carries (R437, log 25). -/
def ackStatus (m : LsMsg) : DWord :=
  if m.data.toNat % 4 = 1 then stPoisonRead else if m.data.toNat % 4 = 2 then stSummary else 0

/-- The acknowledgement of a departure notice (R18): its scope field is 0, and it echoes the notice. -/
def State.noticeAck (s : State) (m : LsMsg) : State :=
  let mine := fun (p : Nat × Block) => decide (p.2.resident = true ∧ p.2.grid = m.data.toNat % 2 ^ 16 ∧ p.2.blockId = msgBlock m)
  match s.blocks.find? mine with
  | none => s
  | some (bk, b) =>
    match b.acks.find? (fun i => decide ((b.member i).pos = m.src)) with
    | some i => (s.setBlock bk { b with acks := b.acks.erase i }).departDone bk
    | none => s

def execAcknowledgement (m : LsMsg) (s : State) : Out :=
  if m.op = 0xF1 ∧ m.scope = 0 then onFlow m [4] (fun s => (s.passed m).noticeAck m) s
  else
    onReply m 0xF1 (fun e s =>
      let s := s.removeEntry e
      match e.op with
      | .engWin op _ => { s with ops := s.ops.map (fun o => if o.id = op then { o with status := Nat.lor o.status (ackStatus m).toNat } else o) }
      | _ => if m.data.toNat % 2 = 1 then s.merr e.owner stPoisonRead else s) s

/-- PEER_FENCED_REPLY (R163). -/
def execPeerFencedReply (m : LsMsg) (s : State) : Out := onReply m 0xF3 (fun e s => s.fencedEntry e) s

/-- DEPARTED_REPLY (R461). -/
def execDepartedReply (m : LsMsg) (s : State) : Out :=
  onReply m 0xF8 (fun e s => s.failEntry e.owner e tWindowDeparted false 0) s

/-- POISON_REPLY (R460). -/
def execPoisonReply (m : LsMsg) (s : State) : Out :=
  onReply m 0xF9 (fun e s =>
    match e.op with
    | .engWin op true => s.windowBad e op (m.data.toNat % 2 ^ (8 * e.size))
    | _ => s.poisonAt e) s

/-! ### NOT_HELD (R24) -/

/-- A request sent again: its tag, its timer and its number stay. -/
def State.resend (s : State) (e : Entry) : State :=
  let c := s.core e.core
  let slots := setKey ReqSlot.empty c.slots (e.tag / 16) { c.slot (e.tag / 16) with resent := true }
  (s.setCore e.core { c with slots := slots }).sendLs (e.message s.fab.pos e.tag e.fseq (s.routeOf e) (s.linksOf e e.fseq))

/-- The skip message for a number that is not sent again (R108). -/
def skipMsg (s : State) (e : Entry) : LsMsg :=
  { e.message s.fab.pos e.tag e.fseq (s.routeOf e) noLinks with op := 0xFA, data := 0, addr := 0 }

/-- A request that was answered NOT_HELD ends: its number is skipped (R108). -/
def State.skipIf (s : State) (e : Entry) : State :=
  if ((s.core e.core).slot (e.tag / 16)).resent then s.sendLs (skipMsg s e) else s

/-- NOT_HELD_REPLY: the requester re-reads the rank map; a rank that has moved means that the old chip is fenced. -/
def execNotHeld (m : LsMsg) (s : State) : Out :=
  if m.op ≠ 0xF2 then .next s
  else
    onFlow m [4] (fun s =>
      let s := s.passed m
      match s.answered m with
      | none => s.dropStale (msgCore m)
      | some e =>
        let grid := (s.block (s.group e.owner).block).grid
        if s.rankPos grid (rankOf e.target.base) = m.src then s.resend e
        else ((s.skipIf e).freeTag e.core e.tag false).fencedEntry e) s

/-! ### Notices and wakes (R16, R18, R117, R190) -/

/-- Whether a wake is for the monitor of a group: the group, the MARM that entered the watch, its tag, and the chip that held it (R117). -/
def wakes (m : LsMsg) (k : Nat) (g : Group) : Bool :=
  decide (k = m.data.toNat % 2 ^ 16 ∧ g.monEntry % 2 ^ 64 = m.data.toNat / 2 ^ 64 ∧ g.monTag = m.tag + 1 ∧ g.monPos = some m.src ∧
    (g.mon = .armed ∨ g.mon = .pending))

/-- MONITOR_WAKE (R117): the monitor that the wake names; one that is still PENDING has been fired before its answer. -/
def State.wake (s : State) (m : LsMsg) : State :=
  (s.groups.filter (fun p => wakes m p.1 p.2)).foldl (fun s p => s.setGroup p.1 { s.group p.1 with mon := .fired }) s

def execMonitorWake (m : LsMsg) (s : State) : Out :=
  if m.op ≠ 0xF4 then .next s else onFlow m [3] (fun s => (s.passed m).wake m) s

/-- The residents here of the gang that a notice comes from. -/
def State.noticed (s : State) (m : LsMsg) : List (Nat × Block) :=
  s.blocks.filter (fun p => decide (p.2.resident = true ∧ 1 < p.2.gsz ∧ p.2.grid = m.data.toNat % 2 ^ 16 ∧
    p.2.blockId / p.2.gsz = msgBlock m / p.2.gsz))

/-- The member index of a notice. -/
def noticeIndex (m : LsMsg) : Nat := m.data.toNat / 2 ^ 16 % 2 ^ 16

/-- Whether a notice waits for its gang: the round that places it is not applied here yet (log 35). -/
def noticeEarly (s : State) (m : LsMsg) : Bool :=
  decide (s.noticed m = []) && decide ((s.gridRow (m.data.toNat % 2 ^ 16)).state < 2) &&
  decide (m.cgen = s.cgen m.ctx ∧ m.dst = s.fab.pos) && !s.fab.shut m.src

/-- ATTACH_NOTICE (R190): the member's presence bit is set in every resident of its gang here. -/
def execAttachNotice (m : LsMsg) (s : State) : Out :=
  if m.op ≠ 0xF6 then .next s
  else if noticeEarly s m then (if s.frbTurn m = .drop then .next s else .next (s.keepFrb m))
  else
    onFlow m [2] (fun s =>
      let set := fun (x : Member) => { x with present := true, pos := m.src }
      let s := (s.noticed m).foldl (fun s p => s.setBlock p.1 ((s.block p.1).setPresence (noticeIndex m) set)) s
      s.passed m) s

/-- A departure reaches the members that stand saved here (R193). -/
def State.noteSaved (s : State) (m : LsMsg) : State :=
  let grid := m.data.toNat % 2 ^ 16
  let gsz := (s.gridRow grid).gsz
  { s with saved := s.saved.map (fun p =>
      if p.1 / 2 ^ 32 = grid ∧ p.1 % 2 ^ 32 / gsz = msgBlock m / gsz then (p.1, { p.2 with gone := addSorted p.2.gone (noticeIndex m) }) else p) }

/-- DEPARTURE_NOTICE (R16, R18): the bit is cleared, and the notice is acknowledged. -/
def execDepartureNotice (m : LsMsg) (s : State) : Out :=
  if m.op ≠ 0xF7 then .next s
  else
    onFlow m [2] (fun s =>
      let s := (s.noticed m).foldl (fun s p => s.setBlock p.1 ((s.block p.1).noteDeparted (noticeIndex m))) s
      ((s.noteSaved m).reply m 0xF1 0 m.data.toNat).passed m) s

/-! ### Timers (R136 to R138) -/

/-- Whether a release or a fence in its group queue waits for an earlier entry to perform (R97, R99). -/
def Entry.waitsFor (r e : Entry) : Bool :=
  r.behind e && decide (r.stage = .gq) && !e.performedAt r.scope &&
  (match r.op with
  | .fence kind all => (e.ordered || all) && (decide (kind ≠ 0) || e.op.isRead) && !(e.exempt r.scope && (decide (kind = 1) || !e.op.isRead))
  | .engine _ => false
  | .push _ _ => false
  | .arrive _ _ => false
  | _ => r.rel && e.ordered && !e.exempt r.scope)

/-- A release or a fence that was waiting for a store which has timed out completes as trapped (R138): it ends without its effect, and traps itself
(log 66); a word that waits at issue, such as LAUNCH and DETACH (R98), when it issues next. -/
def State.trapWaiting (s : State) (e : Entry) : State :=
  if e.op.mayWrite then
    let s := (s.entries.filter (fun r => r.waitsFor e)).foldl (fun s r => s.failEntry r.owner r tFabricTimeout false 0) s
    let g := s.group e.owner
    match g.rel with
    | some (pc, _) => if g.waiting = .release ∧ e.ordered = true then s.setGroup e.owner { g with rel := some (pc, true) } else s
    | none => s
  else s

/-- A request that has timed out (R137, R138): an engine's sets its status bit, another's raises FABRIC_TIMEOUT. A MARM leaves
its monitor FIRED (log 36). -/
def State.timeoutEntry (s : State) (e : Entry) : State :=
  let k := e.owner
  ((s.trapWaiting e).marmLost k e).failEntry k e tFabricTimeout e.op.mayWrite e.tag

def execRequestTimeout (core slot : Nat) (s : State) : Out :=
  let r := (s.core core).slot slot
  if r.inUse = false ∨ s.fab.podtime < r.since + r.limit then .next s
  else
    match s.findEntry r.entry with
    | none => .next (s.freeTag core (slot * 16 + r.gen) true)
    | some e => .next (((s.skipIf e).freeTag core e.tag true).timeoutEntry e)

def execSlotWithholdExpire (core slot : Nat) (s : State) : Out :=
  let c := s.core core
  let r := c.slot slot
  if r.withheld = false ∨ s.fab.podtime < r.since + r.limit then .next s
  else .next (s.setCore core { c with slots := setKey ReqSlot.empty c.slots slot { r with withheld := false, since := 0, limit := 0 } })

/-- The event that an arrived LS message is, by its OP (R153). -/
def arriveLs (m : LsMsg) (s : State) : Out :=
  match m.op with
  | 0xF0 => execReplyData m s
  | 0xF1 => execAcknowledgement m s
  | 0xF2 => execNotHeld m s
  | 0xF3 => execPeerFencedReply m s
  | 0xF4 => execMonitorWake m s
  | 0xF5 => execFlushAcknowledgement m s
  | 0xF6 => execAttachNotice m s
  | 0xF7 => execDepartureNotice m s
  | 0xF8 => execDepartedReply m s
  | 0xF9 => execPoisonReply m s
  | 0xFA => execSkip m s
  | _ => execFrbDeliver m s

end Sys2Proof.Machine
end

