-- ==== Sys2Proof/Machine/Wire.lean ====
section
/-! DEFINITION. Flits and messages on the wire: the CRC (R158), the header layouts of R153 to R157 both ways, and the event
that each arrived message is. -/

namespace Sys2Proof.Machine

/-! ### CRC-32C (R158) -/

/-- One bit of the reflected register. -/
def crcBit (c : Word) : Word := if c.getLsbD 0 then (c >>> 1) ^^^ 0x82F63B78 else c >>> 1

def crcByte (c : Word) (b : Byte) : Word :=
  let c := c ^^^ b.zeroExtend 32
  crcBit (crcBit (crcBit (crcBit (crcBit (crcBit (crcBit (crcBit c)))))))

/-- The CRC of a flit's payload under its sequence number. -/
def crcOf (seq : Nat) (payload : List Byte) : Word := payload.foldl crcByte (BitVec.ofNat 32 seq ^^^ 0xFFFFFFFF) ^^^ 0xFFFFFFFF

/-! ### Headers (R153 to R157) -/

/-- A byte list cut into pieces of 64, the last one padded with zeros. -/
def flitsOf (l : List Byte) : List (List Byte) := (List.range ((l.length + 63) / 64)).map (fun i => sliceBytes l (64 * i) 64)

/-- The header flit of a message. -/
def header (kind ndata hop : Nat) (fields : List (Nat × Nat × Nat)) : List Byte :=
  packBytes 64 ([(0, 1, kind), (1, 1, ndata), (4, 4, hop)] ++ fields)

/-- The 64 bytes of an event record (R201). -/
def evBytes (e : EvRec) : List Byte :=
  bytesLE 2 e.typ ++ bytesLE 2 e.origin ++ bytesLE 4 e.seq ++ bytesLE 8 e.round ++ sliceBytes e.body 0 48

def readEv (b : List Byte) : EvRec :=
  { typ := recNat b 0 2, origin := recNat b 2 2, seq := recNat b 4 4, round := recNat b 8 8, body := sliceBytes b 16 48 }

/-- A bitmap of pod positions. -/
def bitmapNat (ps : List Nat) : Nat := ps.foldl (fun n p => if n / 2 ^ p % 2 = 1 then n else n + 2 ^ p) 0
def bitmapOf (n : Nat) : List Nat := (List.range 1024).filter (fun p => n / 2 ^ p % 2 = 1)

/-- The 192 bytes of an ack record (R157). -/
def ackBytes (a : AckRec) : List Byte :=
  bytesLE 8 a.round ++ bytesLE 4 a.attempt ++ bytesLE 4 0 ++ bytesLE 128 (bitmapNat a.named) ++ bytesLE 32 a.hash.toNat ++ bytesLE 16 0

def readAck (b : List Byte) : AckRec :=
  { round := recNat b 0 8, attempt := recNat b 8 4, named := bitmapOf (recNat b 16 128), hash := BitVec.ofNat 256 (recNat b 144 32) }

/-- The data flits of a control-share message. -/
def ctlData (m : CtlMsg) : List (List Byte) :=
  if m.typ = 1 then flitsOf (bytesLE 128 (bitmapNat m.wanted))
  else if m.typ = 4 then flitsOf m.chunk
  else m.events.map evBytes ++ m.acks.flatMap (fun a => flitsOf (ackBytes a))

/-- The flit payloads of a message (R153), its header first. -/
def encodeMsg (hop : Nat) : Msg → List (List Byte)
  | .ls m =>
    [header 1 0 hop [(8, 1, m.flow), (9, 1, m.op), (10, 2, m.src), (12, 2, m.dst), (14, 1, m.width + 8 * m.scope + 64 * m.order),
      (15, 1, m.cgen), (16, 2, m.ctx), (18, 2, m.tag), (20, 4, m.seq), (24, 8, m.addr), (32, 16, m.data.toNat), (48, 16, m.data2.toNat)]]
  | .seg m =>
    let flags := m.red + (if m.c4 then 4 else 0) + (if m.slot then 8 else 0) + 16 * m.fmt
    let segFlags := (if m.reply then 1 else 0) + (if m.direct then 2 else 0)
    let d := flitsOf m.data
    header 2 d.length hop [(8, 2, m.src), (10, 2, m.dst), (12, 2, m.ctx), (14, 1, m.cgen), (15, 1, flags), (16, 2, m.via),
      (18, 1, m.slotno), (19, 1, segFlags), (20, 4, m.opnum), (24, 4, m.segnum), (28, 8, m.dest), (36, 2, m.nbytes),
      (38, 2, m.srcrank), (40, 8, m.xlo), (48, 8, m.xhi), (56, 1, if m.bad then 1 else 0), (57, 4, m.mask)] :: d
  | .marker m =>
    [header 3 0 hop [(8, 2, m.src), (10, 2, m.dst), (12, 2, m.ctx), (14, 1, m.cgen), (15, 1, m.typ), (16, 2, m.via), (18, 1, m.core),
      (19, 1, m.gslot), (20, 4, m.number), (24, 2, m.paths), (26, 2, m.status), (28, 8, m.flag)]]
  | .readReq m =>
    [header 5 0 hop [(8, 2, m.src), (10, 2, m.dst), (12, 2, m.ctx), (14, 1, m.cgen), (15, 1, 16 * m.fmt + (if m.direct then 1 else 0)), (16, 4, m.opnum),
      (20, 8, m.base), (28, 2, m.d0), (30, 2, m.d1), (32, 2, m.d2), (34, 2, m.vr), (36, 2, m.vc), (38, 4, m.s1), (42, 4, m.s2)]]
  | .ctl m =>
    let d := ctlData m
    let dig := if m.typ = 4 then m.offset else m.digest.toNat
    header 4 d.length hop [(8, 1, m.typ), (9, 1, if m.observer then 1 else 0), (10, 2, m.src), (12, 2, m.origin),
      (14, 1, m.events.length), (15, 1, m.acks.length), (16, 8, m.round), (24, 32, dig)] :: d

/-- The body of an LS header. -/
def decodeLs (h : List Byte) : LsMsg :=
  let n := recNat h
  { flow := n 8 1, op := n 9 1, src := n 10 2, dst := n 12 2, width := n 14 1 % 8, scope := n 14 1 / 8 % 8, order := n 14 1 / 64,
    cgen := n 15 1, ctx := n 16 2 % 4096, tag := n 18 2, seq := n 20 4, addr := n 24 8, data := BitVec.ofNat 128 (n 32 16),
    data2 := BitVec.ofNat 128 (n 48 16) }

def decodeSeg (h : List Byte) (data : List Byte) : SegMsg :=
  let n := recNat h
  { src := n 8 2, dst := n 10 2, ctx := n 12 2 % 4096, cgen := n 14 1, red := n 15 1 % 4, c4 := n 15 1 / 4 % 2 = 1,
    slot := n 15 1 / 8 % 2 = 1, fmt := n 15 1 / 16, via := n 16 2, slotno := n 18 1, reply := n 19 1 % 2 = 1,
    direct := n 19 1 / 2 % 2 = 1, opnum := n 20 4, segnum := n 24 4, dest := n 28 8, nbytes := n 36 2, srcrank := n 38 2,
    xlo := n 40 8, xhi := n 48 8, data := data, bad := n 56 1 % 2 = 1, mask := n 57 4 }

def decodeMarker (h : List Byte) : MarkerMsg :=
  let n := recNat h
  { src := n 8 2, dst := n 10 2, ctx := n 12 2 % 4096, cgen := n 14 1, typ := n 15 1, via := n 16 2, core := n 18 1, gslot := n 19 1,
    number := n 20 4, paths := n 24 2, status := n 26 2, flag := n 28 8 }

def decodeReadReq (h : List Byte) : ReadReqMsg :=
  let n := recNat h
  { src := n 8 2, dst := n 10 2, ctx := n 12 2 % 4096, cgen := n 14 1, fmt := n 15 1 / 16, opnum := n 16 4, base := n 20 8, d0 := n 28 2,
    d1 := n 30 2, d2 := n 32 2, vr := n 34 2, vc := n 36 2, s1 := n 38 4, s2 := n 42 4, direct := n 15 1 % 2 = 1 }

def decodeCtl (h : List Byte) (d : List (List Byte)) : CtlMsg :=
  let n := recNat h
  let typ := n 8 1
  let nev := n 14 1
  let plain := decide (typ ≠ 1 ∧ typ ≠ 4)
  let tail := (d.drop nev).flatMap id
  { typ := typ, observer := n 9 1 % 2 = 1, src := n 10 2, origin := n 12 2, round := n 16 8,
    digest := if typ = 4 then 0 else BitVec.ofNat 256 (n 24 32), events := if plain then (d.take nev).map readEv else [],
    acks := if plain then (List.range (n 15 1)).map (fun i => readAck (sliceBytes tail (192 * i) 192)) else [],
    wanted := if typ = 1 then bitmapOf (natLE (d.flatMap id)) else [], offset := if typ = 4 then n 24 8 else 0,
    chunk := if typ = 4 then d.flatMap id else [] }

/-- The message that accepted payloads are (R153); none for another KIND. -/
def decodeMsg (ps : List (List Byte)) : Option Msg :=
  match ps with
  | [] => none
  | h :: d =>
    match recNat h 0 1 with
    | 1 => some (.ls (decodeLs h))
    | 2 => some (.seg (decodeSeg h (d.flatMap id)))
    | 3 => some (.marker (decodeMarker h))
    | 4 => some (.ctl (decodeCtl h d))
    | 5 => some (.readReq (decodeReadReq h))
    | _ => none

/-- A link message (R156): ACK 1, NAK 2, CREDIT 4. -/
def linkPayload (flags seq ls bk : Nat) : List Byte := header 15 0 0 [(8, 1, flags), (12, 4, seq), (16, 4, ls), (20, 4, bk)]

/-! ### Messages by kind -/

/-- The flits of a message. -/
def msgFlits (m : Msg) : Nat := (encodeMsg 0 m).length

/-- The class of a message for HOP numbers and relay pools (R149, R159): 0 LS, 1 bulk, 2 control share. -/
def msgClass : Msg → Nat
  | .ls _ => 0
  | .ctl _ => 2
  | _ => 1

/-- The source and the final destination of a message; a control-share message ends where it arrives. -/
def msgEnds (here : Nat) : Msg → Nat × Nat
  | .ls m => (m.src, m.dst)
  | .seg m => (m.src, m.dst)
  | .marker m => (m.src, m.dst)
  | .readReq m => (m.src, m.dst)
  | .ctl m => (m.src, here)

/-- The context and generation of a message (R132). -/
def msgCtx : Msg → Option (Nat × Nat)
  | .ls m => some (m.ctx, m.cgen)
  | .seg m => some (m.ctx, m.cgen)
  | .marker m => some (m.ctx, m.cgen)
  | .readReq m => some (m.ctx, m.cgen)
  | .ctl _ => none

/-- What comes next, put on the agenda. -/
def State.queue (s : State) (is : List Item) : State := { s with agenda := s.agenda ++ is }

end Sys2Proof.Machine
end

