-- ==== Sys2Proof/Machine/EvLink.lean ====
section
/-! DEFINITION. Ports and links: what a port sends (R150 to R152), the retry machine (R158 to R161), relays and their credit
(R148, R149), and ports that go dark (R142). -/

namespace Sys2Proof.Machine

def State.link (s : State) (p : Nat) : Link := getKey Link.empty s.fab.links p

def State.setLink (s : State) (p : Nat) (l : Link) : State :=
  { s with fab := { s.fab with links := setKey Link.empty s.fab.links p l } }

/-! ### Sending flits (R158, R160) -/

/-- Payloads sent on a link: each takes the next number and a flit time, and stays in the replay buffer. -/
def Link.send (l : Link) (ps : List (List Byte)) : Link :=
  let fs := ps.zipIdx.map (fun p => (l.txNext + p.2, ({ payload := p.1, crc := crcOf (l.txNext + p.2) p.1 } : Flit)))
  { l with txNext := l.txNext + ps.length, ticks := l.ticks + ps.length, replayBuf := l.replayBuf ++ fs, toSend := l.toSend ++ fs.map Prod.snd }

/-- Whether the replay buffer has room; a full one pauses the sender (R160). -/
def Link.room (l : Link) (n : Nat) : Bool := decide (l.replayBuf.length + n ≤ 2048)

/-- An ACK (1) or NAK (2) sent, or due until the buffer has room (R160); after the slot's last flit time none is sent (R146). -/
def Link.sendLink (l : Link) (flits flags seq : Nat) : Link :=
  if l.room 1 && decide (l.ticks < flits) then l.send [linkPayload flags seq 0 0]
  else if flags = 2 then { l with dueNak := true }
  else { l with dueAck := true }

/-- The link message that is due, the NAK first. -/
def Link.payDue (l : Link) : Link :=
  if l.dueNak then { l with dueNak := false }.send [linkPayload 2 l.e 0 0] else { l with dueAck := false }.send [linkPayload 1 l.e 0 0]

/-! ### FLIT_ARRIVE (R153, R159, R160) -/

/-- A message in the relay buffer, or discarded where its source or destination is fenced (R149, R163). -/
def State.relayMsg (s : State) (m : Msg) : State :=
  let (src, dst) := msgEnds s.fab.pos m
  if s.fab.fenced.contains src || s.fab.fenced.contains dst then s
  else
    { s with fab := { s.fab with relay := s.fab.relay ++
        [{ msg := m, src := src, dst := dst, bulk := decide (msgClass m = 1), flits := msgFlits m, slot := s.fab.slot }] } }

/-- The effects of a link message (R156) as events. -/
def linkEvents (port : Nat) (h : List Byte) : List Item :=
  let f := recNat h 8 1
  let a := recNat h 12 4
  (if f % 2 = 1 then [Item.linkAck port a] else []) ++ (if f / 2 % 2 = 1 then [Item.linkNak port a] else []) ++
  (if f / 4 % 2 = 1 then [Item.linkCredit port (recNat h 16 4) (recNat h 20 4)] else [])

/-- Telemetry of a message of an unknown KIND: counted and discarded (R153). -/
def siteKind (port : Nat) : Nat := 0x1000 + port

/-- A whole message passed up (R159): a HOP number already accepted is discarded. -/
def State.passUp (s : State) (port from1 : Nat) (ps : List (List Byte)) : State :=
  let h := ps.headD []
  match recNat h 0 1 with
  | 0 => s
  | 15 => s.queue (linkEvents port h)
  | _ =>
    match decodeMsg ps with
    | none => s.count (siteKind port)
    | some m =>
      let key := from1 * 4 + msgClass m
      let seen := getKey [] s.fab.hopSeen key
      let hop := recNat h 4 4
      if seen.contains hop || (decide (msgClass m = 0) && s.fab.shut from1) || (decide (msgClass m = 1) && s.fab.fenced.contains from1) then s
      else
        let s := { s with fab := { s.fab with hopSeen := setKey [] s.fab.hopSeen key (addSorted seen hop) } }
        if (msgEnds s.fab.pos m).2 = s.fab.pos then s.queue [.message m] else s.relayMsg m

/-- An accepted flit (R160): an acknowledgement goes back every 64 flits. -/
def State.acceptFlit (s : State) (port from1 : Nat) (l : Link) (payload : List Byte) : State :=
  let l := { l with rx := .run, timer := false, e := l.e + 1 }
  let l := if l.e % 64 = 0 then l.sendLink s.fab.params.flits 1 l.e else l
  let ps := l.partialMsg ++ [payload]
  if ps.length = recNat (ps.headD []) 1 1 + 1 then (s.setLink port { l with partialMsg := [] }).passUp port from1 ps
  else s.setLink port { l with partialMsg := ps }

def execFlitArrive (port : Nat) (flit : Flit) (s : State) : Out :=
  match (if s.ctl.phase = .fatalHeld then none else s.fab.partner port) with
  | none => .next s
  | some j =>
    let l := s.link port
    let good := decide (flit.crc = crcOf l.e flit.payload)
    match l.rx with
    | .down => .next s
    | .run =>
      if good then .next (s.acceptFlit port j l flit.payload)
      else .next (s.setLink port ({ l with rx := .nak, n := 1, timer := true }.sendLink s.fab.params.flits 2 l.e))
    | .nak => if good then .next (s.acceptFlit port j l flit.payload) else .next s

/-- NAK_TIMER_EXPIRE (R160): NAK again, or after eight a link fault for the rest of the slot. -/
def execNakTimerExpire (port : Nat) (s : State) : Out :=
  let l := s.link port
  if s.ctl.phase = .fatalHeld ∨ l.rx ≠ .nak ∨ l.timer = false then .next s
  else if l.n < 8 then .next (s.setLink port ({ l with n := l.n + 1 }.sendLink s.fab.params.flits 2 l.e))
  else .next ((s.setLink port { l with rx := .down, timer := false, partialMsg := [] }).logError (.linkFault port))

/-! ### Acknowledgements and credit (R149, R160, R161, R164) -/

/-- Messages wholly acknowledged leave their queues. -/
def State.dropSent (s : State) (ids : List Nat) : State :=
  let keep := fun (m : OutMsg) => !ids.contains m.id
  { s with fab := { s.fab with lsOut := s.fab.lsOut.filter keep, bulkOut := s.fab.bulkOut.filter keep,
                               ctlOut := s.fab.ctlOut.filter keep } }

def execLinkAck (port a : Nat) (s : State) : Out :=
  let l := s.link port
  let ids := (l.unacked.filter (fun u => decide (u.2.1 < a))).map Prod.fst
  let l := { l with replayBuf := l.replayBuf.filter (fun f => decide (a ≤ f.1)),
                    unacked := l.unacked.filter (fun u => decide (a ≤ u.2.1)) }
  .next (((s.setLink port l).dropSent ids).settle)

/-- How many flits may go again on a link: those before the tail, and in the tail only where all of them are link and idle flits (R146). -/
def Link.resendRoom (l : Link) (p : FabParams) (a : Nat) : Nat :=
  (if l.unacked.all (fun u => decide (u.2.1 < a)) then p.flits else p.flits - p.tail) - l.ticks

/-- NAK(a): the buffered flits from a on go again in order, before any new one (R160), each in a flit time of the slot (R146). -/
def execLinkNak (port a : Nat) (s : State) : Out :=
  if s.ctl.phase = .fatalHeld then .next s
  else
    let l := s.link port
    let buf := l.replayBuf.filter (fun f => decide (a ≤ f.1))
    let ids := (l.unacked.filter (fun u => decide (u.2.1 < a))).map Prod.fst
    let again := buf.take (l.resendRoom s.fab.params a)
    let l := { l with replayBuf := buf, toSend := again.map Prod.snd, ticks := l.ticks + again.length, unacked := l.unacked.filter (fun u => decide (a ≤ u.2.1)) }
    .next (((s.setLink port l).dropSent ids).settle)

/-- LINK_CREDIT (R149): the partner, as a relay, has forwarded flits of this chip's pool. -/
def execLinkCredit (port ls bulk : Nat) (s : State) : Out :=
  match s.fab.partner port with
  | none => .next s
  | some m =>
    let f := s.fab
    .next { s with fab := { f with lsDebt := setKey 0 f.lsDebt m (getKey 0 f.lsDebt m - ls),
                                   bulkDebt := setKey 0 f.bulkDebt m (getKey 0 f.bulkDebt m - bulk) } }

/-- A message goes back to its queue with its numbers unchanged, for a later slot (R161). -/
def backTo (slot : Nat) (ids : List Nat) (m : OutMsg) : OutMsg := if ids.contains m.id then { m with sent := false, after := some slot } else m

/-- The messages that a link has not had acknowledged are handed back (R161). -/
def State.handBack (s : State) (port : Nat) : State :=
  let l := s.link port
  let ids := l.unacked.map Prod.fst
  let s := s.setLink port { l with replayBuf := [], unacked := [] }
  { s with fab := { s.fab with lsOut := s.fab.lsOut.map (backTo s.fab.slot ids), bulkOut := s.fab.bulkOut.map (backTo s.fab.slot ids),
                               ctlOut := s.fab.ctlOut.map (backTo s.fab.slot ids) } }

/-- TAIL_END (R160, R161): the receiver's last acknowledgement, and the sender's hand-back; the link sends nothing more in this slot. -/
def execTailEnd (port : Nat) (s : State) : Out :=
  let l := s.link port
  if s.ctl.phase = .fatalHeld then .next s
  else .next ((s.setLink port { l.sendLink s.fab.params.flits 1 l.e with closed := true }).handBack port)

/-- LANE_FAULT (R142): the port is dark from now on; ctl6 counts it. -/
def execLaneFault (port : Nat) (s : State) : Out :=
  let s := (s.handBack port).count port
  .next { s with fab := { s.fab with dark := addSorted s.fab.dark port } }

/-! ### PORT_SEND (R146, R150 to R152, R159) -/

/-- Whether `n` flits fit before the tail (R151). -/
def fitsSlot (s : State) (l : Link) (n : Nat) : Bool := l.room n && decide (l.ticks + n ≤ s.fab.params.flits - s.fab.params.tail)

/-- Whether `n` flits of bulk data may go: in the interval after the control share, and before the tail (R146). -/
def fitsBulk (s : State) (l : Link) (n : Nat) : Bool := decide (s.fab.params.control ≤ l.ticks) && fitsSlot s l n

/-- Whether a message is one that may go on a link now: it is not on its way, and a hand-back makes it wait for a later slot (R161). -/
def State.unsent (s : State) (m : OutMsg) : Bool := !m.sent && decide (m.after ≠ some s.fab.slot)

/-- The path on which a port may send an LS message now (R150): a relayed one only to its destination. -/
def lsVia (s : State) (port : Nat) (m : OutMsg) : Option Nat :=
  if !s.unsent m then none
  else if m.relayed then (if s.fab.circuit port = some m.dst then some 0xFFFF else none)
  else
    match s.fab.path false false m.dst 1 with
    | some (p, via) => if p = port then some via else none
    | none => none

/-- Whether a marker that stands behind a segment in its path queue is to follow it there (R112, R113): a flush marker of its group, or an end marker of
its operation. -/
def follows (s : State) (g : SegMsg) (m k : OutMsg) : Bool :=
  decide (m.id < k.id ∧ k.dst = m.dst ∧ k.via = m.via) &&
  (match k.msg with
  | .marker x =>
    partOf s.fab.pos (if g.reply then replyNum g.dst g.opnum else g.opnum) k ||
    (decide (x.typ = 0) && s.fab.bulkOps.any (fun b => decide (b.opnum = g.opnum ∧ x.core = coreOf b.group ∧ x.gslot = b.group % 32)))
  | _ => false)

/-- Whether a bulk message keeps to its path: markers do, segments that a marker has to follow, and those of a direct-only operation (R151). -/
def keepsPath (s : State) (m : OutMsg) : Bool :=
  match m.msg with
  | .seg g => g.direct || s.fab.bulkOut.any (follows s g m)
  | .marker _ => true
  | .readReq r => r.direct
  | _ => false

/-- Whether `n` flits still fit before the tail of a port's slot. -/
def State.beforeTail (s : State) (port n : Nat) : Bool := decide ((s.link port).ticks + n ≤ s.fab.params.flits - s.fab.params.tail)

/-- The path on which a port may send a bulk message now (R111, R151): an adaptive segment goes on the first open path, in R151's order, on which it
still fits before the tail, and waits there for the end of the control share; one that did not fit on its path takes the next opportunity. -/
def bulkVia (s : State) (port : Nat) (m : OutMsg) : Option Nat :=
  let n := msgFlits m.msg
  if !s.unsent m ∨ fitsBulk s (s.link port) n = false then none
  else if m.relayed then (if s.fab.circuit port = some m.dst then some 0xFFFF else none)
  else if keepsPath s m then
    (if m.via = 0xFFFF then (if s.fab.circuit port = some m.dst then some 0xFFFF else none)
     else if decide (s.fab.circuit port = some m.via) && s.fab.credit true m.via n then some m.via else none)
  else
    match (s.fab.openPaths true m.dst n).find? (fun p => s.beforeTail p.1 n) with
    | some (p, via) => if p = port then some via else none
    | none => none

/-- The oldest bulk message that a port may send, with its path, none overtaking another of its path queue (R111, R162). -/
def oldestBulk (s : State) (port : Nat) : List OutMsg → List (Nat × Nat) → Option (OutMsg × Nat)
  | [], _ => none
  | m :: rest, held =>
    if m.sent ∨ held.contains (m.dst, m.via) = true then oldestBulk s port rest held
    else
      match bulkVia s port m with
      | some via => some (m, via)
      | none => oldestBulk s port rest ((m.dst, m.via) :: held)

/-- The HOP number of a message for a receiver (R159): the one it had, or the receiver's next. -/
def hopFor (f : Fabric) (j cls : Nat) (m : OutMsg) : Nat × Fabric :=
  match m.hop with
  | some (k, h) => if k = j then (h, f) else (getKey 0 f.hopSent (j * 4 + cls), { f with hopSent := setKey 0 f.hopSent (j * 4 + cls) ((getKey 0 f.hopSent (j * 4 + cls) + 1) % 2 ^ 32) })
  | none => (getKey 0 f.hopSent (j * 4 + cls), { f with hopSent := setKey 0 f.hopSent (j * 4 + cls) ((getKey 0 f.hopSent (j * 4 + cls) + 1) % 2 ^ 32) })

/-- The relay credit that a message takes at its first transmission to a relay (R149). One that is handed back and then goes by another path does not
get it back before that relay returns it: whether it would is open (log 94). -/
def Fabric.takeCredit (f : Fabric) (m : OutMsg) (via j : Nat) : Fabric :=
  if via = 0xFFFF ∨ m.relayed = true ∨ (m.hop.map Prod.fst) = some j then f
  else if msgClass m.msg = 1 then { f with bulkDebt := setKey 0 f.bulkDebt via (getKey 0 f.bulkDebt via + msgFlits m.msg) }
  else { f with lsDebt := setKey 0 f.lsDebt via (getKey 0 f.lsDebt via + 1) }

/-- A request that goes by a relay: its slot remembers the relay (R163). -/
def State.noteRoute (s : State) (m : OutMsg) (via : Nat) : State :=
  match m.msg with
  | .ls l =>
    let core := msgCore l
    let c := s.core core
    let r := c.slot (l.tag / 16)
    if via ≠ 0xFFFF ∧ l.src = s.fab.pos ∧ l.op < 0xF0 ∧ r.inUse = true ∧ r.gen = l.tag % 16 then
      s.setCore core { c with slots := setKey ReqSlot.empty c.slots (l.tag / 16) { r with vias := addSorted r.vias via } }
    else s
  | _ => s

/-- A message's header names the path it goes by (R154). -/
def onPath (via : Nat) : Msg → Msg
  | .seg g => .seg { g with via := via }
  | m => m

/-- A segment that leaves its path queue for another path takes that one too (R112, R113, R161). -/
def State.changePath (s : State) (m : OutMsg) (via : Nat) : State :=
  if m.via = via ∨ m.relayed = true then s
  else
    match s.fab.bulkOps.find? (fun b => partOf s.fab.pos b.opnum m) with
    | some b => s.takePath b via
    | none => s

/-- A whole message sent on a port's link. -/
def State.sendMsg (s : State) (port j via : Nat) (m : OutMsg) : State :=
  let cls := msgClass m.msg
  let (hop, f) := hopFor s.fab j cls m
  let f := f.takeCredit m via j
  let msg := if m.relayed then m.msg else onPath via m.msg
  let ps := encodeMsg hop msg
  let l := (s.link port).send ps
  let l := { l with unacked := l.unacked ++ [(m.id, l.txNext - 1, cls)],
                    lsUsed := l.lsUsed + (if cls = 0 ∧ s.fab.params.control ≤ (s.link port).ticks then ps.length else 0),
                    bkUsed := l.bkUsed + (if cls = 1 then ps.length else 0) }
  let mark := fun (x : OutMsg) =>
    if x.id = m.id then { x with sent := true, hop := some (j, hop), msg := msg, via := if cls = 1 ∧ x.relayed = false then via else x.via } else x
  let f := { f with lsOut := f.lsOut.map mark, bulkOut := f.bulkOut.map mark, ctlOut := f.ctlOut.map mark }
  (({ s with fab := f }.setLink port l).noteRoute m via).changePath m via

/-- LS against bulk (R152): an LS message when no bulk segment is ready, or when LS has used no more flit times than bulk; nothing where neither has a
message. -/
def State.sendData (s : State) (port j : Nat) : Option State :=
  let l := s.link port
  let ls := if fitsSlot s l 1 then s.fab.lsOut.find? (fun m => (lsVia s port m).isSome) else none
  let send := fun (m : OutMsg) => s.sendMsg port j ((lsVia s port m).getD 0xFFFF) m
  match ls, oldestBulk s port s.fab.bulkOut [] with
  | some m, none => some (send m)
  | none, some b => some (s.sendMsg port j b.2 b.1)
  | some m, some b => some (if l.lsUsed ≤ l.bkUsed then send m else s.sendMsg port j b.2 b.1)
  | none, none => none

/-- The credit owed to the partner goes back in a link message (R149, R156). -/
def State.payCredit (s : State) (port j : Nat) : State :=
  let f := s.fab
  let l := (s.link port).send [linkPayload 4 0 (getKey 0 f.lsOwed j) (getKey 0 f.bulkOwed j)]
  { s with fab := { f with lsOwed := setKey 0 f.lsOwed j 0, bulkOwed := setKey 0 f.bulkOwed j 0 } }.setLink port l

/-- Whether a control-share message may go now (R146, R157): in the control share; the rejoin traffic between an observer and its sponsor also in the
interval for LS messages. -/
def fitsControl (s : State) (l : Link) (m : OutMsg) : Bool :=
  let n := msgFlits m.msg
  let rejoins := match m.msg with
    | .ctl c => decide (c.typ ≠ 0) && (c.observer || s.duc.clients.contains m.dst)
    | _ => false
  if rejoins then fitsSlot s l n else l.room n && decide (l.ticks + n ≤ s.fab.params.control)

/-- What a port sends next, idle flits apart: due link messages and relay credit first, then the control share, and then LS or bulk data. -/
def State.portMove (s : State) (port j : Nat) : Option State :=
  let l := s.link port
  if (l.dueNak || l.dueAck) && l.room 1 then some (s.setLink port l.payDue)
  else if (getKey 0 s.fab.lsOwed j + getKey 0 s.fab.bulkOwed j ≠ 0) ∧ l.room 1 = true then some (s.payCredit port j)
  else
    match s.fab.ctlOut.find? (fun m => s.unsent m && decide (m.dst = j) && fitsControl s l m) with
    | some m => some (s.sendMsg port j 0xFFFF m)
    | none => if s.fab.shut j then none else s.sendData port j

/-- The partner of a port that may send now: after the guard and before the end of the slot (R146), and not in reset after a fatal error (R247). -/
def State.sender (s : State) (port : Nat) : Option Nat :=
  let l := s.link port
  if s.ctl.phase = .fatalHeld ∨ s.fab.podtime < s.fab.slotStart + s.fab.params.guard ∨ l.closed = true ∨ s.fab.params.flits ≤ l.ticks then none else s.fab.partner port

/-- PORT_SEND: what the port has to send, and an idle flit where it has nothing (R153, R158); while the replay buffer is full the flit time passes
without a flit (R160). -/
def execPortSend (port : Nat) (s : State) : Out :=
  match s.sender port with
  | none => .next s
  | some j =>
    match s.portMove port j with
    | some t => .next t
    | none =>
      let l := s.link port
      if l.room 1 then .next (s.setLink port (l.send [header 0 0 0 []])) else .next (s.setLink port { l with ticks := l.ticks + 1 })

/-- Whether a port has something to send in this slot, at once or after idle flits through the control share. -/
def State.portWants (s : State) (port : Nat) : Bool :=
  match s.sender port with
  | none => false
  | some j =>
    (s.portMove port j).isSome ||
    (decide ((s.link port).ticks < s.fab.params.control) && s.fab.bulkOut.any (fun m => s.unsent m) && !s.fab.fenced.contains j)

/-! ### RELAY_FORWARD (R148, R149) -/

/-- The first message in the relay buffer for the port's partner that came in an earlier slot goes to the port, and its credit is owed to its source. -/
def execRelayForward (port : Nat) (s : State) : Out :=
  match s.fab.circuit port with
  | none => .next s
  | some j =>
    match s.fab.relay.find? (fun r => decide (r.dst = j ∧ r.slot < s.fab.slot)) with
    | none => .next s
    | some r =>
      let o : OutMsg := { id := s.nextId, msg := r.msg, dst := j, via := 0xFFFF, hop := none, sent := false, relayed := true, after := none }
      let f := { s.fab with relay := s.fab.relay.erase r }
      let f := if r.bulk then { f with bulkOut := f.bulkOut ++ [o], bulkOwed := setKey 0 f.bulkOwed r.src (getKey 0 f.bulkOwed r.src + r.flits) }
        else { f with lsOut := f.lsOut ++ [o], lsOwed := setKey 0 f.lsOwed r.src (getKey 0 f.lsOwed r.src + r.flits) }
      .next { s.fresh with fab := f }

end Sys2Proof.Machine
end

