-- ==== Sys2Proof/Machine/Timetable.lean ====
section
/-! DEFINITION. The Timetable as a state machine (R198 to R205, R212 to R222): what each event of a round changes, the schedule
step, and what the control cores of the chips concerned are to enact. Nothing local to a chip enters here. -/

namespace Sys2Proof.Machine

/-! ### Lists in an order -/

/-- The order of keys, the first number first. -/
def lexLt : List Nat → List Nat → Bool
  | [], [] => false
  | [], _ :: _ => true
  | _ :: _, [] => false
  | a :: as, b :: bs => decide (a < b) || (decide (a = b) && lexLt as bs)

def insertBy {α : Type} (key : α → List Nat) (x : α) : List α → List α
  | [] => [x]
  | y :: rest => if lexLt (key y) (key x) then y :: insertBy key x rest else x :: y :: rest

/-- A list in ascending order of its keys. -/
def sortBy {α : Type} (key : α → List Nat) (l : List α) : List α := l.foldr (insertBy key) []

/-! ### Reading the Timetable -/

def Timetable.ctx (t : Timetable) (c : Nat) : CtxRow := getKey CtxRow.empty t.ctxs c
def Timetable.grid (t : Timetable) (g : Nat) : GridRow := getKey GridRow.empty t.grids g
def Timetable.unit (t : Timetable) (u : Nat) : UnitRow := getKey UnitRow.empty t.units u
def Timetable.core (t : Timetable) (pos c : Nat) : CoreRow := getKey CoreRow.empty t.cores (pos * 256 + c)
def Timetable.isMember (t : Timetable) (p : Nat) : Bool := (getKey MemberRow.empty t.members p).member

/-- The members, ascending. -/
def Timetable.memberList (t : Timetable) : List Nat := (t.members.filter (fun m => m.2.member)).map Prod.fst

/-- The live members of a partition; partition 0 is every position (R199). -/
def Timetable.live (t : Timetable) (part : Nat) : List Nat :=
  t.memberList.filter (fun p => decide (part = 0) || (getKey [] t.partition part).contains p)

/-- The position of a rank (R218). -/
def Timetable.rankPos (t : Timetable) (g rank : Nat) : Nat := (getKey [] t.rankMap g).getD rank 0xFFFF

def GridRow.gang (r : GridRow) : Bool := decide (r.flags % 2 = 1)
def GridRow.restartable (r : GridRow) : Bool := decide (r.flags / 2 % 2 = 1)
def GridRow.shrinkable (r : GridRow) : Bool := decide (r.flags / 4 % 2 = 1)

/-- The blocks of a unit, and the units of a grid (R200). -/
def GridRow.unitSize (r : GridRow) : Nat := if r.gang then r.gsz else 1
def GridRow.units (r : GridRow) : Nat := r.nranks * r.bpr / r.unitSize
def GridRow.blocksOf (r : GridRow) (index : Nat) : List Nat := (List.range r.unitSize).map (fun i => index * r.unitSize + i)

/-- Registers in units of 8 (R49). -/
def GridRow.regs8 (r : GridRow) : Nat := (r.regs + 7) / 8 * 8

/-- What one block takes of a core (R215, R13, R49). -/
def GridRow.need (r : GridRow) : CoreRow :=
  { status := 0, slots := r.groups, regKib := r.regs8 * 256 * r.groups / 1024, scrKib := (r.scrKib + 3) / 4 * 4, obg := r.obg,
    blocks := 1 }

/-- credit(x) of R213, in KiB. -/
def GridRow.credit (r : GridRow) (x : Nat) : Nat := x * r.regs8 * 64 / 1024

/-- A core in service with all resources free (R49, R48, R61, R183). -/
def CoreRow.full : CoreRow := { status := 0, slots := 32, regKib := 512, scrKib := 512, obg := 192, blocks := 0 }

/-- Whether a core fits a block (R215). -/
def CoreRow.fits (c need : CoreRow) : Bool :=
  decide (c.status = 0 ∧ need.slots ≤ c.slots ∧ need.regKib ≤ c.regKib ∧ need.scrKib ≤ c.scrKib ∧ need.obg ≤ c.obg)

/-- The free cores of a position (R215). -/
def Timetable.freeCores (t : Timetable) (pos : Nat) : Nat :=
  ((List.range 256).filter (fun c => decide ((t.core pos c).status = 0 ∧ (t.core pos c).blocks = 0))).length

/-- The chips of a partition by free cores, descending, and then position (R218). -/
def Timetable.order (t : Timetable) (part : Nat) : List Nat := sortBy (fun p => [256 - t.freeCores p, p]) (t.live part)

def Timetable.findUnit (t : Timetable) (g index : Nat) : Option (Nat × UnitRow) :=
  t.units.find? (fun u => decide (u.2.state ≠ 0 ∧ u.2.grid = g ∧ u.2.index = index))

def Timetable.findRow (t : Timetable) (g block : Nat) : Option (Nat × ResRow) :=
  t.rows.find? (fun r => decide (r.2.grid = g ∧ r.2.block = block))

def Timetable.rowsOf (t : Timetable) (u : Nat) : List (Nat × ResRow) := t.rows.filter (fun r => decide (r.2.unit = u))

/-! ### Enactment -/

/-- What ctl1 and ctl4 of the chips concerned enact, in order (R210, R212). -/
inductive Act where
  | admitted (origin seq grid ctx crec : Nat)
  | refused (origin seq ctx crec reason : Nat)
  | gridKilled (grid ctx reason : Nat)
  | retired (grid origin ctx : Nat)
  | killed (ctx : Nat)
  | killDone (ctx : Nat)
  | placed (grid block pos core : Nat) (restore moved : Bool)
  | freed (grid block pos : Nat)
  | preempting (grid index : Nat)
  | absent (grid block : Nat)
  | sourceLost (pos slot rank : Nat)
  | lost (pos : Nat)
  | joined (pos : Nat)
  | slotAnswer (origin ctx result answer : Nat)
  | slotFreed (pos slot : Nat)
  deriving DecidableEq, Repr

/-- A round being applied: the Timetable, the round's number, what is to be enacted, the contexts that PREEMPT KIND 0 has named,
and the formation set, which the default of SPAN counts (R144). -/
structure Round where
  tt : Timetable
  n : Nat
  acts : List Act
  named : List Nat
  formation : List Nat

def Round.act (r : Round) (a : Act) : Round := { r with acts := r.acts ++ [a] }
def Round.setCtx (r : Round) (k : Nat) (x : CtxRow) : Round := { r with tt := { r.tt with ctxs := setKey CtxRow.empty r.tt.ctxs k x } }
def Round.setGrid (r : Round) (k : Nat) (x : GridRow) : Round := { r with tt := { r.tt with grids := setKey GridRow.empty r.tt.grids k x } }
def Round.setUnit (r : Round) (k : Nat) (x : UnitRow) : Round := { r with tt := { r.tt with units := setKey UnitRow.empty r.tt.units k x } }
def Round.setRow (r : Round) (k : Nat) (x : ResRow) : Round := { r with tt := { r.tt with rows := insKey r.tt.rows k x } }
def Round.setCore (r : Round) (k : Nat) (x : CoreRow) : Round := { r with tt := { r.tt with cores := setKey CoreRow.empty r.tt.cores k x } }
def Round.setMember (r : Round) (k : Nat) (x : MemberRow) : Round :=
  { r with tt := { r.tt with members := setKey MemberRow.empty r.tt.members k x } }

/-! ### Rows (R212, R213) -/

/-- The resources of a row back to its core, the registers less credit(SHRUNK). -/
def giveCore (t : Timetable) (cores : List (Nat × CoreRow)) (row : ResRow) : List (Nat × CoreRow) :=
  if row.relocate then cores
  else
    let g := t.grid row.grid
    let key := row.pos * 256 + row.core
    let c := getKey CoreRow.empty cores key
    let need := g.need
    setKey CoreRow.empty cores key
      { c with slots := c.slots + need.slots, regKib := c.regKib + (need.regKib - g.credit row.shrunk), scrKib := c.scrKib + need.scrKib,
               obg := c.obg + need.obg, blocks := c.blocks - 1 }

/-- A core row less what one block takes. -/
def takeCore (cores : List (Nat × CoreRow)) (key : Nat) (need : CoreRow) : List (Nat × CoreRow) :=
  let c := getKey CoreRow.empty cores key
  setKey CoreRow.empty cores key
    { c with slots := c.slots - need.slots, regKib := c.regKib - need.regKib, scrKib := c.scrKib - need.scrKib,
             obg := c.obg - need.obg, blocks := c.blocks + 1 }

def Round.freeRow (r : Round) (k : Nat) : Round :=
  match findKey r.tt.rows k with
  | none => r
  | some row =>
    let tt := { r.tt with cores := giveCore r.tt r.tt.cores row, rows := delKey r.tt.rows k }
    { r with tt := tt }.act (.freed row.grid row.block row.pos)

def Round.freeRows (r : Round) (ks : List Nat) : Round := ks.foldl Round.freeRow r

def Round.dropUnit (r : Round) (u : Nat) : Round := { r with tt := { r.tt with units := delKey r.tt.units u } }

/-- A unit of a killed grid goes with its last row. -/
def Round.dropIfEmpty (r : Round) (u : Nat) : Round := if r.tt.rowsOf u = [] then r.dropUnit u else r

/-! ### Ends of grids and contexts (R189, R212) -/

/-- A grid row removed; its parent may retire in its turn. -/
def Round.retire : Nat → Round → Nat → Round
  | 0, r, _ => r
  | fuel + 1, r, g =>
    let row := r.tt.grid g
    let busy := r.tt.units.any (fun u => decide (u.2.grid = g)) || r.tt.rows.any (fun x => decide (x.2.grid = g))
    if row.state = 0 then r
    else if row.state = 3 ∧ busy = true then r
    else if row.state ≠ 3 ∧ row.ended < row.nranks * row.bpr then r
    else if row.children ≠ 0 then (if row.state = 1 then r.setGrid g { row with state := 2 } else r)
    else
      let tt := { r.tt with grids := delKey r.tt.grids g, rankMap := delKey r.tt.rankMap g }
      let r := { r with tt := tt }.act (.retired g row.origin row.ctx)
      if row.parent = 0xFFFF then r
      else
        let p := r.tt.grid row.parent
        Round.retire fuel (if p.state = 0 then r else r.setGrid row.parent { p with children := p.children - 1 }) row.parent

/-- DEPTH is at most 9 (R212). -/
def Round.retireGrid (r : Round) (g : Nat) : Round := Round.retire 16 r g

/-- What a kill leaves of one unit (R212, R220): nothing of one that is reserved or waits; of another, the rows that a chip has
still to report. -/
def Round.killUnit (r : Round) (u : Nat) : Round :=
  let x := r.tt.unit u
  let gone := (r.tt.rowsOf u).filter (fun p => decide (x.state = 1 ∨ x.state = 4) || p.2.relocate || x.told.contains p.2.pos)
  (r.freeRows (gone.map Prod.fst)).dropIfEmpty u

/-- A grid is killed with every descendant (R212). -/
def Round.kill : Nat → Nat → Round → Nat → Round
  | 0, _, r, _ => r
  | fuel + 1, reason, r, g =>
    let row := r.tt.grid g
    if row.state ≠ 1 ∧ row.state ≠ 2 then r
    else
      let r := (r.setGrid g { row with state := 3 }).act (.gridKilled g row.ctx reason)
      let units := (r.tt.units.filter (fun u => decide (u.2.grid = g))).map Prod.fst
      let r := units.foldl Round.killUnit r
      let sub := (r.tt.grids.filter (fun x => decide (x.2.parent = g ∧ x.2.state ≠ 0))).map Prod.fst
      (sub.foldl (Round.kill fuel reason) r).retireGrid g

def Round.killGrid (r : Round) (reason g : Nat) : Round := Round.kill 16 reason r g

/-- KILL_DONE (R135, R212). -/
def Round.contextDead (r : Round) (c : Nat) : Round := (r.setCtx c { r.tt.ctx c with state := 4, pend := 0 }).act (.killDone c)

/-- The grids of a context. -/
def Timetable.gridsOf (t : Timetable) (c : Nat) : List Nat := (t.grids.filter (fun g => decide (g.2.ctx = c ∧ g.2.state ≠ 0))).map Prod.fst

/-- A position's rows of a context freed (R212). -/
def Round.freeContext (r : Round) (c pos : Nat) : Round :=
  let ks := r.tt.rows.filter (fun x => decide (x.2.pos = pos ∧ (r.tt.grid x.2.grid).ctx = c))
  let us := ks.map (fun x => x.2.unit)
  us.foldl Round.dropIfEmpty (r.freeRows (ks.map Prod.fst))

/-- Whether a position holds rows of a context. -/
def Timetable.holds (t : Timetable) (c pos : Nat) : Bool := t.rows.any (fun x => decide (x.2.pos = pos ∧ (t.grid x.2.grid).ctx = c))

/-- One position less to wait for (R212). -/
def Round.contextLess (r : Round) (c : Nat) : Round :=
  let x := r.tt.ctx c
  let r := r.setCtx c { x with pend := x.pend - 1 }
  let r := if x.pend ≤ 1 then r.contextDead c else r
  (r.tt.gridsOf c).foldl Round.retireGrid r

/-! ### Units (R220) -/

/-- RESERVED rolls back to WAITING. -/
def Round.rollBack (r : Round) (u : Nat) : Round :=
  let r := r.freeRows ((r.tt.rowsOf u).map Prod.fst)
  r.setUnit u { r.tt.unit u with state := 4 }

/-- The unit ends: the grid's ENDED counts every member that it does not count yet, those discarded at a pre-emption among them (R193). -/
def Round.endUnit (r : Round) (u : Nat) : Round :=
  let x := r.tt.unit u
  let row := r.tt.grid x.grid
  ((r.setGrid x.grid { row with ended := row.ended + (row.unitSize - x.counted) }).dropUnit u).retireGrid x.grid

/-- PREEMPTING goes on once every member has been saved, has ended or waits for a core (R220); DEPARTED counts the held members that are then discarded
from here on (log 40). -/
def Round.savedCheck (r : Round) (u : Nat) : Round :=
  let x := r.tt.unit u
  let rows := r.tt.rowsOf u
  if x.state ≠ 3 || !rows.all (fun p => p.2.held || p.2.relocate || x.told.contains p.2.pos) then r
  else
    let held := (rows.filter (fun p => p.2.held)).map (fun p => p.2.block)
    let away := (rows.filter (fun p => p.2.relocate)).map (fun p => p.2.block)
    let gone := held.foldl addSorted x.gone
    let left := held.foldl addSorted x.left
    let again := away.foldl addSorted x.again
    let r := r.freeRows (rows.map Prod.fst)
    let size := (r.tt.grid x.grid).unitSize
    if size ≤ gone.length then r.endUnit u
    else
      r.setUnit u { x with state := 4, saved := true, told := [], gone := gone, left := left, departed := left.length,
                           again := again, restart := decide (again ≠ []) }

/-- A unit becomes PREEMPTING (R220, R221). -/
def Round.preempt (r : Round) (u : Nat) : Round :=
  let x := r.tt.unit u
  ((r.setUnit u { x with state := 3, saves := 0, told := [] }).act (.preempting x.grid x.index)).savedCheck u

/-- Once every member of a gang has departed, the held ones end together (R192, R220). -/
def Round.heldCheck (r : Round) (u : Nat) : Round :=
  let x := r.tt.unit u
  if x.left.length < (r.tt.grid x.grid).gsz then r
  else
    let held := (r.tt.rowsOf u).filter (fun p => p.2.held)
    let r := r.freeRows (held.map Prod.fst)
    if r.tt.rowsOf u = [] then r.endUnit u
    else
      let row := r.tt.grid x.grid
      let gone := (held.map (fun p => p.2.block)).foldl addSorted x.gone
      (r.setGrid x.grid { row with ended := row.ended + held.length }).setUnit u { x with gone := gone, counted := x.counted + held.length }

/-! ### Placement (R215 to R219) -/

/-- Blocks seated in order, each on the first core of its chip that fits (R216); none where one does not fit. -/
def seatBlocks (need : CoreRow) : List (Nat × Nat) → List (Nat × CoreRow) → Option (List (Nat × CoreRow) × List (Nat × Nat × Nat))
  | [], cores => some (cores, [])
  | (block, pos) :: rest, cores =>
    match (List.range 256).find? (fun c => (getKey CoreRow.empty cores (pos * 256 + c)).fits need) with
    | none => none
    | some c =>
      match seatBlocks need rest (takeCore cores (pos * 256 + c) need) with
      | none => none
      | some (cores, seats) => some (cores, (block, pos, c) :: seats)

/-- The seats of a unit, with some rows counted free: discarded members are not placed again (R193, R216). -/
def Round.seats (r : Round) (cores : List (Nat × CoreRow)) (g index : Nat) : Option (List (Nat × CoreRow) × List (Nat × Nat × Nat)) :=
  let row := r.tt.grid g
  let gone := ((r.tt.findUnit g index).map (fun u => u.2.gone)).getD []
  let blocks := (row.blocksOf index).filter (fun b => !gone.contains b)
  seatBlocks row.need (blocks.map (fun b => (b, r.tt.rankPos g (b / row.bpr)))) cores

/-- A residency row in the lowest free place; where the table is full, a place beyond its end (log 77). -/
def Round.addRow (r : Round) (x : ResRow) : Round := r.setRow (lowestFree r.tt.rows 1048576 0) x

/-- A unit reserved, all in one step (R216, R217, R220); none where it does not fit. A saved unit's blocks are restored where their ranks are
now, moved by a LOSS meanwhile or not (log 79). -/
def Round.reserve (r : Round) (g index : Nat) : Option Round :=
  match r.seats r.tt.cores g index with
  | none => none
  | some (cores, seats) =>
    let row := r.tt.grid g
    let old := r.tt.findUnit g index
    let u := (old.map Prod.fst).getD (lowestFree r.tt.units 262144 0)
    let x := (old.map Prod.snd).getD { UnitRow.empty with grid := g, index := index }
    let r := { r with tt := { r.tt with cores := cores } }.setUnit u { x with state := 1, commit := r.n }
    let r := r.setGrid g { row with next := if row.next ≤ index then index + 1 else row.next }
    some (seats.foldl (fun r seat =>
      (r.addRow { ResRow.empty with grid := g, block := seat.1, pos := seat.2.1, core := seat.2.2, unit := u }).act
        (.placed g seat.1 seat.2.1 seat.2.2 (x.saved && !x.again.contains seat.1) false)) r)

/-- A rank's new chip: the first in the order of R218 that holds no rank of the grid (R219). -/
def Round.moveRank (r : Round) (g rank : Nat) : Option (Nat × Round) :=
  let row := r.tt.grid g
  let ranks := getKey [] r.tt.rankMap g
  match (r.tt.order (r.tt.ctx row.ctx).part).find? (fun p => !ranks.contains p) with
  | none => none
  | some p => some (p, { r with tt := { r.tt with rankMap := insKey r.tt.rankMap g (ranks.set rank p) } })

/-! ### Lost chips and cores (R212, R219, R220) -/

/-- One row touched by LOSS or FAULT. A lost chip of a pre-empting unit counts as saved in that its rows are no longer waited for; DONE stays as it is
(log 95). The CORE byte of a relocate row is 0 until its block is placed again (log 40). -/
def Round.touchRow (r : Round) (k : Nat) : Round :=
  match findKey r.tt.rows k with
  | none => r
  | some row =>
    let r := r.act (.absent row.grid row.block)
    let g := r.tt.grid row.grid
    let x := r.tt.unit row.unit
    if g.state = 3 then r
    else if x.state = 1 then r.rollBack row.unit
    else if x.state = 3 then
      let x := if row.held then { x with gone := addSorted x.gone row.block, left := addSorted x.left row.block }
        else { x with again := addSorted x.again row.block, restart := true }
      ((r.setUnit row.unit x).freeRow k).savedCheck row.unit
    else if x.state = 2 ∧ g.restartable = true then
      let tt := { r.tt with cores := giveCore r.tt r.tt.cores row }
      let r := ({ r with tt := tt }.act (.freed row.grid row.block row.pos)).setRow k
        { row with relocate := true, held := false, shrunk := 0, core := 0 }
      r.setUnit row.unit { x with again := addSorted x.again row.block, restart := true }
    else r

/-- A grid with a rank on a lost chip (R212, R219). -/
def Round.loseRank (p : Nat) (r : Round) (g : Nat) : Round :=
  let row := r.tt.grid g
  let ranks := getKey [] r.tt.rankMap g
  if row.state ≠ 1 ∧ row.state ≠ 2 ∨ ranks.contains p = false then r
  else
    match (if row.restartable then r.moveRank g (ranks.idxOf p) else none) with
    | some (q, r) =>
      let moved := fun (x : Nat × ResRow) => if x.2.grid = g ∧ x.2.pos = p then (x.1, { x.2 with pos := q }) else x
      { r with tt := { r.tt with rows := r.tt.rows.map moved } }
    | none => r.killGrid 0 g

/-- What a killed grid still holds on a lost chip goes at once, since that chip reports nothing (R135). -/
def Round.dropLost (r : Round) (p : Nat) : Round :=
  let ks := r.tt.rows.filter (fun x => decide (x.2.pos = p ∧ (r.tt.grid x.2.grid).state = 3))
  let r := (ks.map (fun x => x.2.unit)).foldl Round.dropIfEmpty (r.freeRows (ks.map Prod.fst))
  (ks.map (fun x => x.2.grid)).foldl Round.retireGrid r

/-- A context being killed with rows on a lost chip (R135, R212). -/
def Round.loseContext (p : Nat) (r : Round) (c : Nat) : Round :=
  if (r.tt.ctx c).state = 3 ∧ r.tt.holds c p = true then (r.freeContext c p).contextLess c else r

/-- The reduction slots of other modules with a source on a chip that is lost, told before its ranks move (R171). -/
def Round.loseSources (r : Round) (p : Nat) : Round :=
  r.tt.slots.foldl (fun r x =>
    let ranks := x.2.ranks.filter (fun k => decide (r.tt.rankPos x.2.grid k = p))
    if x.2.held ∧ x.1 / 16 ≠ p then ranks.foldl (fun r k => r.act (.sourceLost (x.1 / 16) (x.1 % 16) k)) r else r) r

/-- LOSS (R212); the condition is that the position is a member. -/
def Round.loss (r : Round) (p : Nat) : Round :=
  if !r.tt.isMember p then r
  else
    let r := r.loseSources p
    let r := (r.setMember p { getKey MemberRow.empty r.tt.members p with member := false }).act (.lost p)
    let slots := r.tt.slots.filter (fun x => decide (x.1 / 16 ≠ p))
    let r := { r with tt := { r.tt with slots := slots } }
    let r := (List.range 256).foldl (fun r c => r.setCore (p * 256 + c) { r.tt.core p c with status := 2 }) r
    let r := (r.tt.ctxs.map Prod.fst).foldl (Round.loseContext p) r
    let r := ((r.tt.rows.filter (fun x => decide (x.2.pos = p))).map Prod.fst).foldl Round.touchRow r
    ((r.tt.grids.map Prod.fst).foldl (Round.loseRank p) r).dropLost p

/-- FAULT (R212): the cores of the mask go out of service, with the chip unchanged; a running or pre-empting unit of a grid that is not restartable is killed with its grid, as by LOSS. -/
def Round.fault (r : Round) (p : Nat) (mask : Nat) : Round :=
  if !r.tt.isMember p then r
  else
    let cs := (List.range 256).filter (fun c => mask / 2 ^ c % 2 = 1)
    let r := cs.foldl (fun r c => r.setCore (p * 256 + c) { r.tt.core p c with status := 1 }) r
    let hit := r.tt.rows.filter (fun x => decide (x.2.pos = p ∧ x.2.core ∈ cs ∧ x.2.relocate = false))
    let dead := (hit.filter (fun x => decide ((r.tt.unit x.2.unit).state = 2 ∨ (r.tt.unit x.2.unit).state = 3) && !(r.tt.grid x.2.grid).restartable)).map (fun x => x.2.grid)
    dead.foldl (Round.killGrid · 0 ·) ((hit.map Prod.fst).foldl Round.touchRow r)

/-! ### Events of the Timetable (R202, R205, R212) -/

/-- A field of an event's payload, at its offset in the record (R202). -/
def evField (e : EvRec) (o n : Nat) : Nat := recNat e.body (o - 16) n

/-- Whether every byte of a payload outside the listed ones is 0 (R205). -/
def evOnly (e : EvRec) (named : List Nat) : Bool :=
  (List.range 48).all (fun i => named.contains (i + 16) || decide (e.body.getD i 0 = 0))

/-- The REASON of the first condition that a SUBMIT fails (R462, orders 4 to 10). -/
def Round.submitReason (r : Round) (e : EvRec) (row : GridRow) : Option Nat :=
  let c := r.tt.ctx row.ctx
  let parent := r.tt.grid row.parent
  if c.state ≠ 1 ∧ c.state ≠ 2 then some 9
  else if row.groups < 1 ∨ 16 < row.groups ∨ row.regs < 1 ∨ 128 < row.regs ∨ row.bpr < 1 ∨ 65536 < row.bpr ∨ 192 < row.obg ∨
    512 < row.scrKib ∨ 32 ≤ evField e 20 1 then some 10
  else if 16384 ≤ lowestFree r.tt.grids 16384 0 then some 1
  else if row.parent ≠ 0xFFFF ∧ (parent.state ≠ 1 ∨ parent.ctx ≠ row.ctx ∨ 8 < parent.depth) then some 2
  else if row.nranks < 1 ∨ (r.tt.live c.part).length < row.nranks then some 4
  else if (if row.gang then row.gsz < 2 ∨ 8192 < row.gsz else row.gsz ≠ 1) ∨ row.nranks * row.bpr % row.gsz ≠ 0 then some 5
  else if !CoreRow.full.fits row.need then some 6
  else none

/-- The grid row that a SUBMIT asks for (R202, R212). -/
def submitRow (n origin : Nat) (t : Timetable) (e : EvRec) : GridRow :=
  let parent := evField e 18 2
  { state := 1, flags := evField e 20 1, ctx := evField e 16 2, parent := parent,
    depth := if parent = 0xFFFF then 0 else (t.grid parent).depth + 1, groups := evField e 21 1, nranks := evField e 26 2,
    gsz := evField e 28 2, bpr := evField e 32 4, regs := evField e 22 1, obg := evField e 23 1, scrKib := evField e 24 2,
    children := 0, next := 0, ended := 0, admitRound := n, desc := evField e 40 8, expLen := evField e 48 8, origin := origin }

/-- SUBMIT (R212, R218). -/
def Round.submit (r : Round) (origin : Nat) (e : EvRec) : Round :=
  let row := submitRow r.n origin r.tt e
  match r.submitReason e row with
  | some reason => r.act (.refused origin e.seq row.ctx (evField e 56 8) reason)
  | none =>
    let g := lowestFree r.tt.grids 16384 0
    let ranks := (r.tt.order (r.tt.ctx row.ctx).part).take row.nranks
    let r := { r.setGrid g row with tt := { (r.setGrid g row).tt with rankMap := insKey r.tt.rankMap g ranks } }
    let p := r.tt.grid row.parent
    let r := if row.parent = 0xFFFF then r else r.setGrid row.parent { p with children := p.children + 1 }
    r.act (.admitted origin e.seq g row.ctx (evField e 56 8))

/-- Whether the context of a grid is being killed: its rows then stay until their chip's FINISH killed, which lowers PEND, takes them (R135, log 40). -/
def Round.killing (r : Round) (g : Nat) : Bool := decide ((r.tt.ctx (r.tt.grid g).ctx).state = 3)

/-- FINISH end of a block whose row is found (R212, R220). One that comes after the KILL of its context only marks its row held; one that comes after
the kill of its grid alone frees the row and ends the unit, as its FINISH killed would (log 40). -/
def Round.finishEnd (r : Round) (k : Nat) (row : ResRow) : Round :=
  let r := r.setRow k { row with held := true }
  let x := r.tt.unit row.unit
  if r.killing row.grid then r
  else if x.state = 3 then r.savedCheck row.unit
  else if (r.tt.grid row.grid).gang then r.heldCheck row.unit
  else (r.freeRow k).endUnit row.unit

/-- FINISH depart (R212): each member counts once. -/
def Round.finishDepart (r : Round) (row : ResRow) : Round :=
  let x := r.tt.unit row.unit
  let left := addSorted x.left row.block
  let r := r.setUnit row.unit { x with left := left, departed := left.length }
  if (r.tt.grid row.grid).gang && !r.killing row.grid && decide (x.state ≠ 3) && (r.tt.rowsOf row.unit).all (fun p => p.2.held) then r.heldCheck row.unit else r

/-- FINISH shrink (R213). -/
def Round.finishShrink (r : Round) (k : Nat) (row : ResRow) (slices : Nat) : Round :=
  let g := r.tt.grid row.grid
  if g.shrinkable = true ∧ row.shrunk < slices ∧ slices ≤ g.groups * 4 then
    let c := r.tt.core row.pos row.core
    (r.setCore (row.pos * 256 + row.core) { c with regKib := c.regKib + g.credit slices - g.credit row.shrunk }).setRow k
      { row with shrunk := slices }
  else r

/-- FINISH killed (R135, R212). -/
def Round.finishKilled (r : Round) (origin : Nat) (e : EvRec) : Round :=
  let c := evField e 24 2
  if evField e 20 4 = 0xFFFFFFFF then
    (if (r.tt.ctx c).state = 3 ∧ r.tt.holds c origin = true then (r.freeContext c origin).contextLess c else r)
  else
    match r.tt.findRow (evField e 16 2) (evField e 20 4) with
    | none => r
    | some (k, row) =>
      if row.pos = origin ∧ (r.tt.grid row.grid).state = 3 then ((r.freeRow k).dropIfEmpty row.unit).retireGrid row.grid else r

/-- FINISH by its KIND; the row must name the origin's position and be no relocate row. -/
def Round.finish (r : Round) (origin : Nat) (e : EvRec) : Round :=
  if evField e 18 1 = 2 then r.finishKilled origin e
  else
    match r.tt.findRow (evField e 16 2) (evField e 20 4) with
    | none => r
    | some (k, row) =>
      if row.pos ≠ origin ∨ row.relocate = true then r
      else
        match evField e 18 1 with
        | 0 => r.finishEnd k row
        | 1 => if (r.tt.grid row.grid).gang then r.finishDepart row else r
        | 3 => r.finishShrink k row (evField e 26 2)
        | _ => r

/-- The reserved units of a context roll back (R220). -/
def Round.unreserve (r : Round) (c : Nat) : Round :=
  let us := (r.tt.units.filter (fun u => decide (u.2.state = 1 ∧ (r.tt.grid u.2.grid).ctx = c))).map Prod.fst
  us.foldl Round.rollBack r

def Round.block (r : Round) (e : EvRec) : Round :=
  let c := evField e 16 2
  if (r.tt.ctx c).state = 1 then (r.setCtx c { r.tt.ctx c with state := 2 }).unreserve c else r

def Round.unblock (r : Round) (e : EvRec) : Round :=
  let c := evField e 16 2
  if (r.tt.ctx c).state = 2 then r.setCtx c { r.tt.ctx c with state := 1 } else r

/-- KILL (R132, R212): what is only reserved or waits goes first, and PEND counts the members that still hold rows. -/
def Round.killContext (r : Round) (e : EvRec) : Round :=
  let c := evField e 16 2
  let x := r.tt.ctx c
  if x.state ≠ 1 ∧ x.state ≠ 2 then r
  else
    let r := (r.setCtx c { x with state := 3, cgen := (x.cgen + 1) % 256 }).act (.killed c)
    let r := (r.tt.gridsOf c).foldl (Round.killGrid · (evField e 18 1) ·) r
    let pend := (r.tt.memberList.filter (r.tt.holds c)).length
    let r := r.setCtx c { r.tt.ctx c with pend := pend }
    if pend = 0 then r.contextDead c else r

def Round.preemptEvent (r : Round) (origin : Nat) (e : EvRec) : Round :=
  let c := evField e 18 2
  match evField e 16 1 with
  | 0 => if (r.tt.ctx c).state = 1 then { r.unreserve c with named := addSorted r.named c } else r
  | 1 =>
    (match r.tt.findUnit c (evField e 20 4) with
    | none => r
    | some (u, x) =>
      let mine := (r.tt.rowsOf u).filter (fun p => decide (p.2.pos = origin))
      if x.state ≠ 3 ∨ mine = [] ∨ r.killing x.grid = true then r
      else if (r.tt.grid x.grid).state = 3 then ((r.freeRows (mine.map Prod.fst)).dropIfEmpty u).retireGrid x.grid
      else (r.setUnit u { x with saves := x.saves + 1, told := addSorted x.told origin }).savedCheck u)
  | _ => r

/-- CHARGE (R212, R223). VT has 8 bytes in its row (R199); the spec says neither that it wraps nor that it stops, and it wraps here (log 40). -/
def Round.charge (r : Round) (e : EvRec) : Round :=
  let c := evField e 16 2
  let x := r.tt.ctx c
  let acc := x.acc + evField e 20 4 * 65536
  if x.state = 0 then r else r.setCtx c { x with vt := (x.vt + acc / x.share) % 2 ^ 64, acc := acc % x.share }

/-- JOIN (R212, R225). -/
def Round.join (r : Round) (e : EvRec) : Round :=
  let p := evField e 16 2
  if r.tt.isMember p ∨ 1024 ≤ p then r
  else
    let r := r.setMember p { member := true, absent := 0 }
    ((List.range 256).foldl (fun r c => r.setCore (p * 256 + c) CoreRow.full) r).act (.joined p)

/-- The lowest free reduction slot of a module (R212). -/
def Timetable.freeSlotOf (t : Timetable) (p : Nat) : Option Nat := (List.range 16).find? (fun i => !(getKey SlotRow.empty t.slots (p * 16 + i)).held)

/-- SLOT (R212, R224): the answer is the module and the slot, or the denial. -/
def Round.slotEvent (r : Round) (origin : Nat) (e : EvRec) : Round :=
  let c := evField e 16 2
  let module := evField e 20 2
  let row : SlotRow :=
    { held := true, fmt := evField e 26 1, op := evField e 27 1, ctx := c, grid := evField e 18 2, dest := evField e 22 2,
      srcBase := evField e 24 2, srcMask := evField e 28 8 }
  let ps := if module = 0xFFFF then r.tt.live (r.tt.ctx c).part else [module]
  if (r.tt.ctx c).state ≠ 1 ∨ (module ≠ 0xFFFF ∧ r.tt.isMember module = false) ∨ 16384 ≤ row.grid ∨ (r.tt.grid row.grid).state = 0 then r
  else
    match ps.find? (fun p => (r.tt.freeSlotOf p).isSome) with
    | none => r.act (.slotAnswer origin c (evField e 40 8) 0xFFFFFFFF)
    | some p =>
      let i := (r.tt.freeSlotOf p).getD 0
      let tt := { r.tt with slots := setKey SlotRow.empty r.tt.slots (p * 16 + i) row }
      { r with tt := tt }.act (.slotAnswer origin c (evField e 40 8) (p + i * 65536))

def Round.slotRelease (r : Round) (e : EvRec) : Round :=
  let k := evField e 18 2 * 16 + evField e 20 1
  let row := getKey SlotRow.empty r.tt.slots k
  if row.held = true ∧ row.ctx = evField e 16 2 ∧ evField e 20 1 < 16 then
    { r with tt := { r.tt with slots := delKey r.tt.slots k } }.act (.slotFreed (evField e 18 2) (evField e 20 1))
  else r

/-- A power of two from `lo` to `hi`. -/
def powerIn (lo hi x : Nat) : Bool := (List.range 13).any (fun i => decide (x = 2 ^ i ∧ lo ≤ x ∧ x ≤ hi))

/-- The default SPAN of a formation set (R144). -/
def defaultSpan (formation : List Nat) : Nat :=
  let top := formation.foldl max 0
  ((List.range 11).map (fun i => 2 ^ i)).find? (fun x => decide (2 ≤ x ∧ top < x)) |>.getD 1024

/-- Whether fabric values lie in the ranges of R144. -/
def PodRow.valid (v : PodRow) : Bool :=
  decide (2000 ≤ v.slotLen ∧ v.slotLen ≤ 20000 ∧ v.slotLen % 250 = 0) &&
  decide (250 ≤ v.guard ∧ v.guard ≤ 2000 ∧ v.guard % 250 = 0 ∧ 2 * v.guard < v.slotLen) && powerIn 2 1024 v.span &&
  powerIn 1 64 v.active && powerIn 1 4096 v.rateDiv

/-- CONFIG 0 (R205): the values at once, in effect from CFGROUND. -/
def Round.configPod (r : Round) (e : EvRec) : Round :=
  let old := r.tt.pod
  let l := (old.span - 1 + (old.active - 1)) / old.active
  let slotLen := evField e 20 4
  let slice := if evField e 18 2 = 0 then (2000000 + slotLen - 1) / slotLen else evField e 18 2
  let span := if evField e 26 2 = 0 then defaultSpan r.formation else evField e 26 2
  let v : PodRow :=
    { slotLen := slotLen, guard := evField e 24 2, span := span, active := evField e 28 1, rateDiv := evField e 30 2, slice := slice,
      cfgRound := (r.n + 4 + l - 1) / l * l }
  if v.valid && decide (old.cfgRound ≤ r.n) && evOnly e [16, 18, 19, 20, 21, 22, 23, 24, 25, 26, 27, 28, 30, 31] then
    { r with tt := { r.tt with pod := v } }
  else r

/-- The least VT of the active contexts, or 0 (R212). -/
def Timetable.leastVt (t : Timetable) : Nat :=
  match (t.ctxs.filter (fun c => decide (c.2.state = 1))).map (fun c => c.2.vt) with
  | [] => 0
  | v :: rest => rest.foldl min v

/-- CONFIG 1, 2 and 3 (R205, R212). -/
def Round.configContext (r : Round) (e : EvRec) : Round :=
  let c := evField e 18 2
  let share := evField e 20 2
  let x := r.tt.ctx c
  match evField e 16 1 with
  | 1 =>
    if x.state = 0 ∧ c < 4096 ∧ share ≠ 0 ∧ evField e 22 1 < 64 ∧ evOnly e [16, 18, 19, 20, 21, 22] = true then
      r.setCtx c { CtxRow.empty with state := 1, part := evField e 22 1, share := share, vt := r.tt.leastVt }
    else r
  | 2 =>
    if (x.state = 4 ∨ (x.state = 1 ∧ r.tt.gridsOf c = [])) ∧ evOnly e [16, 18, 19] = true then r.setCtx c CtxRow.empty else r
  | _ => if x.state ≠ 0 ∧ share ≠ 0 ∧ evOnly e [16, 18, 19, 20, 21] = true then r.setCtx c { x with share := share } else r

/-- CONFIG 4 (R205): 24 mask bytes of a partition. -/
def Round.configPartition (r : Round) (e : EvRec) : Round :=
  let k := evField e 18 1
  let lo := 192 * evField e 19 1
  let mask := evField e 24 24
  let keep := (getKey [] r.tt.partition k).filter (fun p => decide (p < lo ∨ lo + 192 ≤ p))
  let new := ((List.range 192).filter (fun i => mask / 2 ^ i % 2 = 1)).map (fun i => lo + i)
  if 1 ≤ k ∧ k < 64 ∧ evField e 19 1 < 6 ∧ new.all (fun p => decide (p < 1024)) = true ∧
    evOnly e ([16, 18, 19] ++ (List.range 24).map (fun i => 24 + i)) = true then
    { r with tt := { r.tt with partition := setKey [] r.tt.partition k (new.foldl addSorted keep) } }
  else r

def Round.config (r : Round) (e : EvRec) : Round :=
  match evField e 16 1 with
  | 0 => r.configPod e
  | 1 => r.configContext e
  | 2 => r.configContext e
  | 3 => r.configContext e
  | 4 => r.configPartition e
  | _ => r

/-- One event applied (R202, R203): an unlisted TYPE and a contributed LOSS change nothing. -/
def Round.event (r : Round) (x : Nat × EvRec) : Round :=
  let origin := x.1
  let e := x.2
  match e.typ with
  | 0x0001 => r.submit origin e
  | 0x0002 => r.finish origin e
  | 0x0003 => r.block e
  | 0x0004 => r.unblock e
  | 0x0005 => r.fault origin (evField e 16 32)
  | 0x0006 => r.killContext e
  | 0x0007 => r.preemptEvent origin e
  | 0x0008 => r.charge e
  | 0x000A => r.join e
  | 0x000B => r.slotEvent origin e
  | 0x000C => r.slotRelease e
  | 0x000D => r.config e
  | _ => r

/-! ### The schedule step (R221) -/

/-- One relocate row placed by R216 alone, where it fits; a chip that had reported the save of a pre-empting unit has this block to save as well. -/
def Round.relocate (r : Round) (k : Nat) : Round :=
  match findKey r.tt.rows k with
  | none => r
  | some row =>
    let g := r.tt.grid row.grid
    if g.state ≠ 1 then r
    else
      match seatBlocks g.need [(row.block, row.pos)] r.tt.cores with
      | some (cores, (_, _, c) :: _) =>
        let r := ({ r with tt := { r.tt with cores := cores } }.setRow k { row with relocate := false, core := c }).act
          (.placed row.grid row.block row.pos c false true)
        let x := r.tt.unit row.unit
        let again := x.again.erase row.block
        r.setUnit row.unit { x with again := again, restart := decide (again ≠ []), told := x.told.erase row.pos }
      | _ => r

def Round.relocations (r : Round) : Round :=
  let rows := sortBy (fun x : Nat × ResRow => [x.2.grid, x.2.block]) (r.tt.rows.filter (fun x => x.2.relocate))
  (rows.map Prod.fst).foldl Round.relocate r

/-- RESERVED becomes RUNNING with the application of round COMMIT + 2 (R220). -/
def Round.promote (r : Round) : Round :=
  let up := fun (u : Nat × UnitRow) =>
    if u.2.state = 1 ∧ u.2.commit + 2 ≤ r.n then
      (u.1, { u.2 with state := 2, runFrom := u.2.commit + 4, saved := false, restart := false, again := [] })
    else u
  { r with tt := { r.tt with units := r.tt.units.map up } }

/-- The running units of blocked contexts and of those that PREEMPT KIND 0 named (R221), as the contexts stand after all events of the round: a
context blocked and unblocked in one round keeps its units (log 78). -/
def Round.preemptNamed (r : Round) : Round :=
  let hit := fun (u : Nat × UnitRow) =>
    let g := r.tt.grid u.2.grid
    decide (u.2.state = 2 ∧ g.state ≠ 3 ∧ ((r.tt.ctx g.ctx).state = 2 ∨ g.ctx ∈ r.named))
  ((r.tt.units.filter hit).map Prod.fst).foldl Round.preempt r

/-- Grids in the order of the run queue. -/
def Timetable.runQueue (t : Timetable) : List Nat :=
  let gs := t.grids.filter (fun g => decide (g.2.state = 1 ∧ (t.ctx g.2.ctx).state = 1))
  (sortBy (fun g : Nat × GridRow => [(t.ctx g.2.ctx).vt, g.2.ctx, g.2.admitRound, g.1]) gs).map Prod.fst

/-- Units reserved until one does not fit, which is the head. -/
def Round.reserveAll (g : Nat) : List Nat → Round → Round × Option (Nat × Nat)
  | [], r => (r, none)
  | i :: rest, r =>
    match r.reserve g i with
    | some r => Round.reserveAll g rest r
    | none => (r, some (g, i))

def Round.reserveNext (g : Nat) : Nat → Round → Round × Option (Nat × Nat)
  | 0, r => (r, none)
  | fuel + 1, r =>
    let row := r.tt.grid g
    if row.units ≤ row.next then (r, none)
    else
      match r.reserve g row.next with
      | some r => Round.reserveNext g fuel r
      | none => (r, some (g, row.next))

def Round.reserveGrids : List Nat → Round → Round × Option (Nat × Nat)
  | [], r => (r, none)
  | g :: rest, r =>
    let waiting := (r.tt.units.filter (fun u => decide (u.2.grid = g ∧ u.2.state = 4))).map (fun u => u.2.index)
    match Round.reserveAll g (sortBy (fun i => [i]) waiting) r with
    | (r, some h) => (r, some h)
    | (r, none) =>
      match Round.reserveNext g ((r.tt.grid g).units - (r.tt.grid g).next) r with
      | (r, some h) => (r, some h)
      | (r, none) => Round.reserveGrids rest r

/-- Victims are taken in order until the head fits with their rows counted free (R221); not enough pre-empts nothing. -/
def Round.takeVictims (head : Nat × Nat) : List Nat → List Nat → List (Nat × CoreRow) → Round → Round
  | [], _, _, r => r
  | v :: rest, taken, cores, r =>
    let cores := (r.tt.rowsOf v).foldl (fun cs p => giveCore r.tt cs p.2) cores
    if (r.seats cores head.1 head.2).isSome then (taken ++ [v]).foldl Round.preempt r
    else Round.takeVictims head rest (taken ++ [v]) cores r

def Round.preemptFor (r : Round) (head : Nat × Nat) : Round :=
  let vt := fun g => (r.tt.ctx (r.tt.grid g).ctx).vt
  let running := r.tt.units.filter (fun u => decide (u.2.state = 2 ∧ (r.tt.grid u.2.grid).state ≠ 3 ∧ vt head.1 < vt u.2.grid ∧
    r.tt.pod.slice ≤ r.n - u.2.runFrom))
  let ordered := (sortBy (fun u : Nat × UnitRow => [vt u.2.grid, (r.tt.grid u.2.grid).ctx, u.2.commit, u.2.grid, u.2.index]) running).reverse
  Round.takeVictims head (ordered.map Prod.fst) [] r.tt.cores r

/-- Step 5 of R210. -/
def Round.schedule (r : Round) : Round :=
  let r := r.promote.relocations.preemptNamed
  match Round.reserveGrids r.tt.runQueue r with
  | (r, none) => r
  | (r, some head) => r.preemptFor head

/-! ### The application of a round (R210) -/

/-- The positions that lose by their digest (R210 step 1). -/
def losers (cs : List Contribution) : List Nat :=
  let voting := cs.filter (fun c => decide (c.digest ≠ 0))
  let votes := fun (c : Contribution) => (voting.filter (fun x => decide (x.digest = c.digest))).length
  let lowest := fun (c : Contribution) => ((voting.filter (fun x => decide (x.digest = c.digest))).map Contribution.origin).foldl min c.origin
  match sortBy (fun c => [1024 - votes c, lowest c]) voting with
  | [] => []
  | w :: _ => (voting.filter (fun c => decide (c.digest ≠ w.digest))).map Contribution.origin

/-- The events of a final set in the order of R210, each with the position that contributed it. -/
def orderedEvents (cs : List Contribution) (lost : List Nat) : List (Nat × EvRec) :=
  let evs := (cs.filter (fun c => !lost.contains c.origin)).flatMap (fun c => c.events.map (fun e => (c.origin, e)))
  sortBy (fun x : Nat × EvRec => [x.1, x.2.seq]) evs

/-- ABSENT of one position of M(n) (R210 step 3). -/
def Round.absence (cs : List Contribution) (r : Round) (p : Nat) : Round :=
  let m := getKey MemberRow.empty r.tt.members p
  r.setMember p { m with absent := if cs.any (fun c => decide (c.origin = p)) then 0 else m.absent + 1 }

/-- R210, steps 1 to 5: `m` is M(n) and `set` is S(n). -/
def applyRound (t : Timetable) (n : Nat) (formation m : List Nat) (set : List Contribution) : Round :=
  let cs := set.filter (fun c => m.contains c.origin)
  let lost := losers cs
  let r : Round := { tt := t, n := n, acts := [], named := [], formation := formation }
  let r := (orderedEvents cs lost).foldl Round.event r
  let r := m.foldl (Round.absence cs) r
  let r := (sortBy (fun p => [p]) lost).foldl Round.loss r
  let away := (r.tt.members.filter (fun x => decide (x.2.member = true ∧ 3 ≤ x.2.absent))).map Prod.fst
  (away.foldl Round.loss r).schedule

end Sys2Proof.Machine
end

