-- ==== Sys2Proof/Machine/Image.lean ====
section
/-! DEFINITION. The canonical image of the Timetable both ways (R199), the digest, and the images and hashes of contributions
(R157, R206). -/

namespace Sys2Proof.Machine

/-- The bytes of a row that are not 0, as cells from an address on. -/
def rowCells (base : Nat) (bs : List Byte) : List Host.Cell :=
  bs.zipIdx.filterMap (fun b => if b.1 = 0 then none else some (base + b.2, b.1))

/-- The tables of R199 in order: where each starts and the bytes of its rows. -/
def podAt : Nat := 0
def partAt : Nat := 32
def ctxAt : Nat := partAt + 64 * 128
def gridAt : Nat := ctxAt + 4096 * 32
def rankAt : Nat := gridAt + 16384 * 64
def unitAt : Nat := rankAt + 16384 * 2048
def resAt : Nat := unitAt + 262144 * 32
def coreAt : Nat := resAt + 1048576 * 16
def memberAt : Nat := coreAt + 262144 * 8
def slotAt : Nat := memberAt + 1024 * 2
def imageSize : Nat := slotAt + 16384 * 32

def bit01 (a b : Bool) : Nat := (if a then 1 else 0) + (if b then 2 else 0)

/-- The fields of each row in canonical order. -/
def podBytes (v : PodRow) : List Byte :=
  bytesLE 4 v.slotLen ++ bytesLE 4 v.guard ++ bytesLE 2 v.span ++ bytesLE 1 v.active ++ bytesLE 1 0 ++ bytesLE 2 v.rateDiv ++
  bytesLE 2 v.slice ++ bytesLE 8 v.cfgRound ++ bytesLE 8 0
def ctxBytes (c : CtxRow) : List Byte :=
  bytesLE 1 c.state ++ bytesLE 1 c.part ++ bytesLE 2 c.share ++ bytesLE 2 c.pend ++ bytesLE 1 c.cgen ++ bytesLE 1 0 ++ bytesLE 8 c.vt ++
  bytesLE 8 c.acc ++ bytesLE 8 0
def gridBytes (g : GridRow) : List Byte :=
  bytesLE 1 g.state ++ bytesLE 1 g.flags ++ bytesLE 2 g.ctx ++ bytesLE 2 g.parent ++ bytesLE 1 g.depth ++ bytesLE 1 g.groups ++
  bytesLE 2 g.nranks ++ bytesLE 2 g.gsz ++ bytesLE 4 g.bpr ++ bytesLE 1 g.regs ++ bytesLE 1 g.obg ++ bytesLE 2 g.scrKib ++
  bytesLE 2 g.children ++ bytesLE 2 0 ++ bytesLE 4 g.next ++ bytesLE 4 g.ended ++ bytesLE 8 g.admitRound ++ bytesLE 8 g.desc ++
  bytesLE 8 g.expLen ++ bytesLE 2 g.origin ++ bytesLE 6 0
def rankBytes (ps : List Nat) : List Byte := (List.range 1024).flatMap (fun i => bytesLE 2 (ps.getD i 0xFFFF))
def unitBytes (u : UnitRow) : List Byte :=
  bytesLE 2 u.grid ++ bytesLE 1 u.state ++ bytesLE 1 (bit01 u.saved u.restart) ++ bytesLE 4 u.index ++ bytesLE 8 u.commit ++
  bytesLE 8 u.runFrom ++ bytesLE 2 u.departed ++ bytesLE 2 u.saves ++ bytesLE 4 0
def resBytes (x : ResRow) : List Byte :=
  bytesLE 2 x.grid ++ bytesLE 2 x.shrunk ++ bytesLE 4 x.block ++ bytesLE 2 x.pos ++ bytesLE 1 x.core ++
  bytesLE 1 (bit01 x.held x.relocate) ++ bytesLE 4 x.unit
def coreBytes (c : CoreRow) : List Byte :=
  bytesLE 1 c.status ++ bytesLE 1 c.slots ++ bytesLE 2 c.regKib ++ bytesLE 2 c.scrKib ++ bytesLE 1 c.obg ++ bytesLE 1 c.blocks
def memberBytes (m : MemberRow) : List Byte := bytesLE 1 (if m.member then 1 else 0) ++ bytesLE 1 m.absent
def slotBytes (r : SlotRow) : List Byte :=
  bytesLE 1 (if r.held then 1 else 0) ++ bytesLE 1 r.fmt ++ bytesLE 1 r.op ++ bytesLE 1 0 ++ bytesLE 2 r.ctx ++ bytesLE 2 r.grid ++
  bytesLE 2 r.dest ++ bytesLE 2 r.srcBase ++ bytesLE 4 0 ++ bytesLE 8 r.srcMask ++ bytesLE 8 0

/-- The canonical images of the tables in the order of R199; a byte that is not listed is 0. -/
def Timetable.image (t : Timetable) : List Host.Cell :=
  rowCells podAt (podBytes t.pod) ++ rowCells partAt (List.replicate 128 0xFF) ++
  t.partition.flatMap (fun p => rowCells (partAt + 128 * p.1) (bytesLE 128 (bitmapNat p.2))) ++
  t.ctxs.flatMap (fun p => rowCells (ctxAt + 32 * p.1) (ctxBytes p.2)) ++
  t.grids.flatMap (fun p => rowCells (gridAt + 64 * p.1) (gridBytes p.2)) ++
  t.rankMap.flatMap (fun p => rowCells (rankAt + 2048 * p.1) (rankBytes p.2)) ++
  t.units.flatMap (fun p => rowCells (unitAt + 32 * p.1) (unitBytes p.2)) ++
  t.rows.flatMap (fun p => rowCells (resAt + 16 * p.1) (resBytes p.2)) ++
  t.cores.flatMap (fun p => rowCells (coreAt + 8 * p.1) (coreBytes p.2)) ++
  t.members.flatMap (fun p => rowCells (memberAt + 2 * p.1) (memberBytes p.2)) ++
  t.slots.flatMap (fun p => rowCells (slotAt + 32 * p.1) (slotBytes p.2))

/-- What stands beside the unit rows (log 40) as entries of 16 bytes: the unit, what it is (1 a member that has ended, 2 a RESTART mark, 3 a
departed member, 4 a position that has reported its save, 5 how many members ENDED counts), and the number; 6 marks a residency row that is in use
though all its bytes are 0. -/
def Timetable.marks (t : Timetable) : List (Nat × Nat × Nat) :=
  t.units.flatMap (fun u =>
    u.2.gone.map (fun x => (u.1, 1, x)) ++ u.2.again.map (fun x => (u.1, 2, x)) ++ u.2.left.map (fun x => (u.1, 3, x)) ++
    u.2.told.map (fun x => (u.1, 4, x)) ++ (if u.2.counted = 0 then [] else [(u.1, 5, u.2.counted)])) ++
  (t.rows.filter (fun x => decide (x.2 = ResRow.empty))).map (fun x => (x.1, 6, 0))

/-- A snapshot (R225): the canonical images, and after them the number of the marks beside the unit rows and the marks, so that a chip that loads
it applies what follows as the others do (R198). -/
def Timetable.snapshot (t : Timetable) : List Host.Cell :=
  t.image ++ rowCells imageSize (bytesLE 8 t.marks.length) ++
  t.marks.zipIdx.flatMap (fun m => rowCells (imageSize + 8 + 16 * m.2) (bytesLE 4 m.1.1 ++ bytesLE 4 m.1.2.1 ++ bytesLE 8 m.1.2.2))

/-- The bytes of a snapshot, once the number of its marks has come. -/
def snapshotSize (m : List Host.Cell) : Nat := imageSize + 8 + 16 * natLE (readBytes m imageSize 8)

/-- The digest of a Timetable (R199). -/
def Timetable.digest (t : Timetable) : BitVec 256 := Config.sha512_256 t.image

/-! ### Reading an image (R225 step 4) -/

/-- The rows of a table that an image has bytes in, ascending. -/
def touchedRows (m : List Host.Cell) (base size n : Nat) : List Nat :=
  (m.filterMap (fun c => if base ≤ c.1 ∧ c.1 < base + size * n then some ((c.1 - base) / size) else none)).foldl addSorted []

/-- A table read row by row. -/
def readTable {α : Type} (m : List Host.Cell) (base size n : Nat) (f : List Byte → α) : List (Nat × α) :=
  (touchedRows m base size n).map (fun k => (k, f (readBytes m (base + size * k) size)))

def readCtx (b : List Byte) : CtxRow :=
  { state := recNat b 0 1, part := recNat b 1 1, share := recNat b 2 2, pend := recNat b 4 2, cgen := recNat b 6 1, vt := recNat b 8 8,
    acc := recNat b 16 8 }
def readGrid (b : List Byte) : GridRow :=
  { state := recNat b 0 1, flags := recNat b 1 1, ctx := recNat b 2 2, parent := recNat b 4 2, depth := recNat b 6 1,
    groups := recNat b 7 1, nranks := recNat b 8 2, gsz := recNat b 10 2, bpr := recNat b 12 4, regs := recNat b 16 1,
    obg := recNat b 17 1, scrKib := recNat b 18 2, children := recNat b 20 2, next := recNat b 24 4, ended := recNat b 28 4,
    admitRound := recNat b 32 8, desc := recNat b 40 8, expLen := recNat b 48 8, origin := recNat b 56 2 }
def readUnit (b : List Byte) : UnitRow :=
  { UnitRow.empty with grid := recNat b 0 2, state := recNat b 2 1, saved := decide (recNat b 3 1 % 2 = 1), restart := decide (recNat b 3 1 / 2 % 2 = 1), index := recNat b 4 4, commit := recNat b 8 8, runFrom := recNat b 16 8, departed := recNat b 24 2, saves := recNat b 26 2 }
/-- The marks of a snapshot. -/
def readMarks (m : List Host.Cell) : List (Nat × Nat × Nat) :=
  (List.range (natLE (readBytes m imageSize 8))).map (fun i =>
    let b := readBytes m (imageSize + 8 + 16 * i) 16
    (recNat b 0 4, recNat b 4 4, recNat b 8 8))

/-- A unit row with its marks. -/
def UnitRow.marked (marks : List (Nat × Nat × Nat)) (k : Nat) (u : UnitRow) : UnitRow :=
  let mine := fun (kind : Nat) => (marks.filter (fun x => decide (x.1 = k ∧ x.2.1 = kind))).map (fun x => x.2.2)
  { u with gone := mine 1, again := mine 2, left := mine 3, told := mine 4, counted := (mine 5).headD 0 }

def readRow (b : List Byte) : ResRow :=
  { grid := recNat b 0 2, shrunk := recNat b 2 2, block := recNat b 4 4, pos := recNat b 8 2, core := recNat b 10 1,
    held := recNat b 11 1 % 2 = 1, relocate := recNat b 11 1 / 2 % 2 = 1, unit := recNat b 12 4 }
def readCore (b : List Byte) : CoreRow :=
  { status := recNat b 0 1, slots := recNat b 1 1, regKib := recNat b 2 2, scrKib := recNat b 4 2, obg := recNat b 6 1,
    blocks := recNat b 7 1 }
def readMember (b : List Byte) : MemberRow := { member := recNat b 0 1 = 1, absent := recNat b 1 1 }
def readSlot (b : List Byte) : SlotRow :=
  { held := recNat b 0 1 = 1, fmt := recNat b 1 1, op := recNat b 2 1, ctx := recNat b 4 2, grid := recNat b 6 2, dest := recNat b 8 2,
    srcBase := recNat b 10 2, srcMask := recNat b 16 8 }
def readPod (b : List Byte) : PodRow :=
  { slotLen := recNat b 0 4, guard := recNat b 4 4, span := recNat b 8 2, active := recNat b 10 1, rateDiv := recNat b 12 2,
    slice := recNat b 14 2, cfgRound := recNat b 16 8 }

/-- The Timetable of a snapshot; the ranks of a grid are its first NRANKS. -/
def readImage (m : List Host.Cell) : Timetable :=
  let grids := readTable m gridAt 64 16384 readGrid
  let ranks := fun (k : Nat) (b : List Byte) => (List.range (getKey GridRow.empty grids k).nranks).map (fun i => recNat b (2 * i) 2)
  { pod := readPod (readBytes m podAt 32), partition := (readTable m partAt 128 64 (fun b => bitmapOf (natLE b))).filter (fun p => decide (p.1 ≠ 0)),
    ctxs := readTable m ctxAt 32 4096 readCtx, grids := grids,
    rankMap := (readTable m rankAt 2048 16384 id).map (fun p => (p.1, ranks p.1 p.2)),
    units := (readTable m unitAt 32 262144 readUnit).map (fun p => (p.1, p.2.marked (readMarks m) p.1)),
    rows := ((readMarks m).filter (fun x => decide (x.2.1 = 6))).foldl (fun l x => insKey l x.1 ResRow.empty) (readTable m resAt 16 1048576 readRow),
    cores := readTable m coreAt 8 262144 readCore, members := readTable m memberAt 2 1024 readMember,
    slots := readTable m slotAt 32 16384 readSlot }

/-! ### Contributions (R157, R206) -/

/-- A contribution's image. -/
def Contribution.image (c : Contribution) : List Byte :=
  bytesLE 2 c.origin ++ bytesLE 8 c.round ++ bytesLE 1 c.events.length ++ bytesLE 32 c.digest.toNat ++ c.events.flatMap evBytes

/-- The hash of a set of contributions, in ascending origin. -/
def setHash (cs : List Contribution) : BitVec 256 :=
  Config.sha512_256 (((sortBy (fun c => [c.origin]) cs).flatMap Contribution.image).zipIdx.map (fun b => (b.2, b.1)))

/-- A round message, a fetch reply or a final-set contribution. -/
def Contribution.message (c : Contribution) (typ src : Nat) (observer : Bool) (acks : List AckRec) : CtlMsg :=
  { typ := typ, observer := observer, src := src, origin := c.origin, round := c.round, digest := c.digest, events := c.events,
    acks := acks, wanted := [], offset := 0, chunk := [] }

def contributionOf (m : CtlMsg) : Contribution := { origin := m.origin, round := m.round, digest := m.digest, events := m.events }

end Sys2Proof.Machine
end

