-- ==== Sys2Proof/Machine/Enact.lean ====
section
/-! DEFINITION. What this chip's control cores enact of a round (R210): placed and withdrawn blocks (R211, R217, R245), kills (R132,
R133, R135), the fencing of a chip (R163, R171, R19), completion records (R233), and this chip's own fencing (R214, R225). -/

namespace Sys2Proof.Machine

/-! ### Blocks placed and withdrawn -/

/-- The block of a grid that is resident here. -/
def State.findBlock (s : State) (grid block : Nat) : Option (Nat × Block) :=
  s.blocks.find? (fun p => decide (p.2.resident = true ∧ p.2.grid = grid ∧ p.2.blockId = block))

/-- A store of which a part is applied: it completes whatever becomes of its issuer (R132, R134). -/
def Entry.halfDone (e : Entry) : Bool := e.begun && decide (e.op = .store)

/-- Whether an entry was issued by one of some groups. -/
def Entry.from (e : Entry) (gs : List Nat) : Bool :=
  match e.issuer with
  | .group k => gs.contains k
  | .peer _ _ => false

/-- Operations given up: they retire from the handles that they hold (R37). -/
def State.dropOps (s : State) (gone : EngineOp → Bool) : State :=
  let s' := (s.ops.filter gone).foldl (fun s o => (s.trimWait o).retireOp o) s
  { s' with ops := s'.ops.filter (fun o => !gone o) }

/-- A block withdrawn with what its groups have in flight, but for a store of which a part is applied (R132); request slots in use change their
generation (R137, log 41). -/
def State.dropBlock (s : State) (bk : Nat) : State :=
  let gs := (s.block bk).groups
  let away := s.entries.filter (fun e => e.from gs && decide (e.stage = .flow))
  let s := away.foldl (fun s e => s.freeTag e.core e.tag true) s
  let s := gs.foldl State.dropHere s
  let s := s.dropOps (fun o => decide (o.block = bk ∧ o.kind ≠ .hostcopy))
  { s with entries := s.entries.filter (fun e => !e.from gs || e.halfDone), walks := s.walks.filter (fun w => w.peer || !gs.contains w.group) }.releaseBlock bk

/-- A row freed: the block that stood in it goes, if it is still here. -/
def State.enactFreed (s : State) (grid block : Nat) : State :=
  match s.findBlock grid block with
  | some (bk, _) => s.dropBlock bk
  | none => s

/-- The start time of what round n commits, the start of slot n + 4 (R211, R147): slots from a CFGROUND on that has still to come have the
new length (R205). -/
def State.startOf (s : State) (n : Nat) : Nat :=
  let f := s.fab
  let c := s.tt.pod.cfgRound
  if f.s0 < c ∧ c < n + 4 then f.t0 + (c - f.s0) * f.params.slotLen + (n + 4 - c) * s.tt.pod.slotLen
  else f.t0 + (n + 4 - f.s0) * f.params.slotLen

/-- The members of a gang as a block placed here first knows them (R190, R193, R194); what a resident peer knows, it knows. -/
def State.membersOf (s : State) (row : GridRow) (grid block lead alloc : Nat) : List (Nat × Member) :=
  let gang := block / row.gsz
  let peers := s.gangBlocks grid gang
  let sv := (findKey s.saved (savedKey grid block)).getD { handles := [], departed := false, gone := [] }
  let u := ((s.tt.findUnit grid gang).map Prod.snd).getD UnitRow.empty
  (List.range row.gsz).map (fun i =>
    let id := gang * row.gsz + i
    let here := peers.find? (fun p => decide (p.2.gangIdx = i))
    let known := decide (i ≠ block % row.gsz) && peers.any (fun p => (p.2.member i).present)
    let gone := sv.gone.contains i || u.left.contains id || u.gone.contains id
    (i, { pos := s.rankPos grid (id / row.bpr), block := if i = block % row.gsz then lead else (here.map Prod.fst).getD noBlock, alloc := alloc,
          present := known && !gone, departed := gone && decide (i ≠ block % row.gsz) }))

/-- A block placed on a core of this chip (R217): its groups take the lowest free slots; a restoring block gets its OB handles
back with their contents 0 (R245, R425). What was kept of it stays until its unit runs, since a roll-back frees the block again (R220). -/
def State.placeBlock (s : State) (n grid block core : Nat) (restore : Bool) : State :=
  let row := s.gridRow grid
  let free := ((List.range 32).map (fun i => core * 32 + i)).filter (fun k => !(s.group k).resident)
  match free.take row.groups with
  | [] => s
  | lead :: rest =>
    let alloc := (row.scrKib + 3) / 4 * 4096
    let gang := row.gang
    let members := if gang then s.membersOf row grid block lead alloc else []
    let idx := if gang then block % row.gsz else 0
    let sv := (findKey s.saved (savedKey grid block)).getD { handles := [], departed := false, gone := [] }
    let b : Block :=
      { Block.empty with resident := true, ctx := row.ctx, grid := grid, blockId := block, groups := lead :: rest, regs := row.regs8,
                         scr := alloc, obg := row.obg, gsz := if gang then row.gsz else 1, gangIdx := idx, members := members,
                         departed := restore && sv.departed, restoring := restore, fresh := true,
                         tStart := s.startOf n, handles := if restore then sv.handles else [] }
    let s := (lead :: rest).zipIdx.foldl (fun s k => s.setGroup k.1 { Group.empty with resident := true, block := lead, gid := k.2 }) s
    let mine := fun (m : Member) => { m with pos := s.fab.pos, block := lead, alloc := alloc }
    let s := (if gang then s.gangBlocks grid (block / row.gsz) else []).foldl (fun s p => s.setBlock p.1 ((s.block p.1).setPresence idx mine)) s
    s.setBlock lead b

/-- A member that restarts elsewhere waits for its peers: those attached here tell it that they are (R194, log 42). -/
def State.reannounce (s : State) (grid block pos : Nat) : State :=
  let gsz := (s.gridRow grid).gsz
  let peers := (s.gangBlocks grid (block / gsz)).filter (fun p => decide (p.2.blockId ≠ block) && (p.2.member p.2.gangIdx).present && !p.2.departed)
  peers.foldl (fun s p =>
    if pos ≠ s.fab.pos then s.enterFlow (noticeMsg s p.2 0xF6 pos)
    else
      match s.findBlock grid block with
      | some (bk, b) => s.setBlock bk (b.setPresence p.2.gangIdx (fun m => { m with present := true }))
      | none => s) s

/-- PREEMPT for every group of a unit on this chip (R196, R220). -/
def State.enactPreempt (s : State) (grid index : Nat) : State :=
  (s.unitBlocks grid index).foldl (fun s p =>
    let s := s.setBlock p.1 { s.block p.1 with preempting := true }
    p.2.groups.foldl (fun s k => if (s.group k).ended then s else s.setGroup k { s.group k with preempt := true }) s) s

/-- A block placed; one that joins a unit that is being pre-empted is pre-empted with it (R220, R221). -/
def State.enactPlaced (s : State) (n grid block pos core : Nat) (restore moved : Bool) : State :=
  let row := s.gridRow grid
  let index := block / row.unitSize
  let s := if pos = s.fab.pos then s.placeBlock n grid block core restore else s
  let s := if moved && row.gang then s.reannounce grid block pos else s
  let dying := (s.tt.findUnit grid index).any (fun u => decide (u.2.state = 3))
  if moved && dying && decide (pos = s.fab.pos) then s.enactPreempt grid index else s

/-- A member whose core or chip is lost is absent for its peers (R19); it answers no departure any more. -/
def State.enactAbsent (s : State) (grid block : Nat) : State :=
  let row := s.gridRow grid
  if !row.gang then s
  else
    let i := block % row.gsz
    let away := fun (m : Member) => { m with present := false, pos := s.rankPos grid (block / row.bpr) }
    (s.gangBlocks grid (block / row.gsz)).foldl (fun s p =>
      if p.2.blockId = block then s
      else
        let b := (s.block p.1).setPresence i away
        let waits := b.acks.contains i
        let s := s.setBlock p.1 { b with acks := b.acks.filter (fun x => decide (x ≠ i)) }
        if waits then s.departDone p.1 else s) s

/-! ### Kills (R132, R133, R135) -/

/-- Whether a message belongs to a context under an older generation. -/
def State.staleMsg (s : State) (c : Nat) (m : Msg) : Bool :=
  match msgCtx m with
  | some (k, gen) => decide (k = c ∧ gen ≠ s.cgen c)
  | none => false

/-- An entry of another chip given up: an ordered flow counts it as applied. -/
def State.passPeers (s : State) (es : List Entry) : State :=
  es.foldl (fun s e =>
    match e.issuer with
    | .peer _ m => s.flowApplied m
    | .group _ => s) s

/-- What a relay does with a message of a killed context: bulk and unordered messages go; an ordered flow keeps its number as a skip
(R108, log 43). Their credit returns. -/
def State.killRelay (s : State) (c : Nat) : State :=
  let dead := s.fab.relay.filter (fun r => s.staleMsg c r.msg)
  let skip := fun (m : Msg) => match m with
    | .ls l => if isOrdered l.flow then some (Msg.ls { l with op := 0xFA, data := 0 }) else none
    | _ => none
  let relay := s.fab.relay.filterMap (fun r => if s.staleMsg c r.msg then (skip r.msg).map (fun m => { r with msg := m }) else some r)
  let gone := dead.filter (fun r => (skip r.msg).isNone)
  let f := gone.foldl (fun (f : Fabric) r =>
    if r.bulk then { f with bulkOwed := setKey 0 f.bulkOwed r.src (getKey 0 f.bulkOwed r.src + r.flits) }
    else { f with lsOwed := setKey 0 f.lsOwed r.src (getKey 0 f.lsOwed r.src + r.flits) }) { s.fab with relay := relay }
  { s with fab := f }

/-- What is left of a store whose application has begun is applied (R132). -/
def State.finishStore (s : State) (e : Entry) : State :=
  match e.target with
  | .memory pa => s.storeMem pa (bytesLE e.size e.data) false
  | .bank bk off => if (s.block bk).resident then s.storeBank bk off (bytesLE e.size e.data) false else s
  | _ => s

/-- KILL_APPLY (R132, R133, R135): the context's groups stop and leave, its stale entries and operations are discarded, and the chip
reports its part. CGEN has advanced with the Timetable. A store whose application has begun completes before the report, after which nothing of the
context performs. -/
def State.killApply (s : State) (c : Nat) : State :=
  let bks := (s.blocks.filter (fun p => decide (p.2.resident = true ∧ p.2.ctx = c))).map Prod.fst
  let old := fun (e : Entry) => decide (e.ctx = c ∧ e.cgen ≠ s.cgen c)
  let s := (s.entries.filter (fun e => old e && e.halfDone)).foldl State.finishStore s
  let s := { s.passPeers (s.entries.filter old) with entries := s.entries.filter (fun e => !old e) }
  let s := s.dropOps (fun o => decide (o.ctx = c ∧ o.cgen ≠ s.cgen c))
  let s := (s.fab.bulkIn.filter (fun b => decide (b.ctx = c))).foldl (fun s b => s.retire (bulkUser b.src b.opnum)) s
  let s := (s.fab.slotOps.filter (fun o => decide (o.ctx = c))).foldl (fun s o => s.retire o.user) s
  let s := (s.fab.slotWaits.filter (fun w => decide (w.ctx = c))).foldl (fun s w => s.retire w.user) s
  let f := { s.fab with bulkOut := s.fab.bulkOut.filter (fun m => !s.staleMsg c m.msg),
                        bulkOps := s.fab.bulkOps.filter (fun b => decide (b.ctx ≠ c)), bulkIn := s.fab.bulkIn.filter (fun b => decide (b.ctx ≠ c)),
                        slotParts := s.fab.slotParts.filter (fun p => decide (p.ctx ≠ c)), slotOps := s.fab.slotOps.filter (fun p => decide (p.ctx ≠ c)),
                        slotWaits := s.fab.slotWaits.filter (fun w => decide (w.ctx ≠ c)), bulkWaits := s.fab.bulkWaits.filter (fun m => !s.staleMsg c m) }
  let s := bks.foldl State.dropBlock ({ s with fab := f }.killRelay c)
  if s.tt.holds c s.fab.pos then s.contribute 0x0002 [(16, 2, 0xFFFF), (18, 1, 2), (20, 4, 0xFFFFFFFF), (24, 2, c)] else s

/-- A killed grid (R212): its groups here stop. -/
def State.stopGrid (s : State) (grid : Nat) : State :=
  let bks := s.blocks.filter (fun p => decide (p.2.resident = true ∧ p.2.grid = grid))
  bks.foldl (fun s p => p.2.groups.foldl (fun s k => s.setGroup k { s.group k with stopped := true }) s) s

/-! ### The fencing of a chip (R163, R171) -/

/-- Whether a request of this chip is addressed to a chip or went by it. -/
def State.lostRequest (s : State) (x : Nat) (e : Entry) : Bool :=
  match e.issuer, e.target with
  | .group _, .remote p _ _ => decide (e.stage = .flow) && (decide (p = x) || ((s.core e.core).slot (e.tag / 16)).vias.contains x)
  | _, _ => false

/-- Such a request completes with PEER_FENCED; its number is skipped where its flow goes on (R108). -/
def State.loseRequest (x : Nat) (s : State) (e : Entry) : State :=
  let mine := fun (o : OutMsg) => match o.msg with
    | .ls m => decide (m.src = s.fab.pos ∧ m.dst = e.dest ∧ m.flow = e.flow ∧ m.seq = e.fseq)
    | _ => false
  let s := { s with fab := { s.fab with lsOut := s.fab.lsOut.filter (fun o => !mine o) } }
  let s := if e.dest = x then s else s.sendLs (skipMsg s e)
  (s.freeTag e.core e.tag true).fencedEntry e

/-- A flush with a path to or by a fenced chip ends with PEER_FENCED. -/
def Flush.fence (x : Nat) (f : Flush) : Flush :=
  if f.paths.any (fun p => decide (p.1 = x ∨ p.2 = x)) then { f with awaited := [], fenced := true } else f

/-- A bulk operation for a fenced chip completes with PEER_FENCED. -/
def State.loseBulk (s : State) (b : BulkOp) : State :=
  { s with ops := s.ops.map (fun o => if o.id = b.engine then { o with status := Nat.lor o.status stFenced.toNat } else o) }

/-- An operation that reads from a fenced chip: nothing more comes. -/
def EngineOp.loseRead (x : Nat) (o : EngineOp) : EngineOp :=
  if o.stage = .remoteRead ∧ o.awaited.contains x = true then { o with status := Nat.lor o.status stFenced.toNat, awaited := [] } else o

/-- A monitor armed at a fenced chip is FIRED (R117). -/
def Group.loseMonitor (x : Nat) (g : Group) : Group :=
  if g.mon = .armed ∧ g.monPos = some x then { g with mon := .fired } else g

/-- The keys of flows to or from a chip, and of its hop numbers, are below 8 or 4 values of each position. -/
def dropKeys {α : Type} (m : List (Nat × α)) (per x : Nat) : List (Nat × α) := m.filter (fun p => decide (p.1 / per ≠ x))

/-- Whether a message that waits at the ports goes on when a chip is fenced (R163): it is not for it, nor relayed from it, nor a marker of a path by it. Data
placed on such a path goes by another one. -/
def OutMsg.outlives (pos x : Nat) (o : OutMsg) : Bool :=
  decide (o.dst ≠ x) && !(o.relayed && decide ((msgEnds pos o.msg).1 = x)) &&
  (match o.msg with
  | .marker _ => decide (o.via ≠ x)
  | _ => true)

/-- The fabric without a chip: its messages, its flows' numbers, its credit and what it began here are gone. -/
def Fabric.cut (f : Fabric) (x : Nat) : Fabric :=
  let keep := OutMsg.outlives f.pos x
  { f with fenced := addSorted f.fenced x, frb := f.frb.filter (fun m => decide (m.src ≠ x)), lsOut := f.lsOut.filter keep,
           bulkOut := f.bulkOut.filter keep, relay := f.relay.filter (fun r => decide (r.src ≠ x ∧ r.dst ≠ x)),
           flowSeq := dropKeys f.flowSeq 8 x, nextIn := dropKeys f.nextIn 8 x, delivered := dropKeys f.delivered 8 x,
           hopSeen := dropKeys f.hopSeen 4 x, linesBack := dropKeys f.linesBack 8 x, lsDebt := delKey f.lsDebt x, bulkDebt := delKey f.bulkDebt x,
           lsOwed := delKey f.lsOwed x, bulkOwed := delKey f.bulkOwed x,
           bulkOps := (f.bulkOps.filter (fun b => decide (b.dst ≠ x))).map (fun b => { b with lost := b.lost || (b.marked && b.paths.contains x) }),
           bulkIn := f.bulkIn.filter (fun b => decide (b.src ≠ x)), gathers := f.gathers.filter (fun g => decide (g.src ≠ x)),
           bulkWaits := f.bulkWaits.filter (fun m => decide ((msgEnds f.pos m).1 ≠ x)), slotWaits := f.slotWaits.filter (fun w => decide (w.pos ≠ x)), lsFree := f.lsFree.filter (fun y => decide (y ≠ x)),
           slotOps := f.slotOps.filter (fun o => decide (o.src ≠ x) || o.ended), objHold := f.objHold.filter (fun h => decide (h.key / 2 ^ 40 ≠ x)),
           winMerge := f.winMerge.filter (fun p => decide (p.1 / 2 ^ 33 ≠ x)) }

/-- Whether an entry is a request of a chip. -/
def Entry.ofPeer (x : Nat) (e : Entry) : Bool :=
  match e.issuer with
  | .peer p _ => decide (p = x)
  | .group _ => false

/-- CHIP_FENCE_APPLY (R163). A gather of end markers of the fenced chip itself awaits a path by it, and ends with PEER_FENCED in its completion. -/
def State.fenceChip (s : State) (x : Nat) : State :=
  if s.fab.fenced.contains x then s
  else
    let s := (s.entries.filter (s.lostRequest x)).foldl (State.loseRequest x) s
    let s := (s.fab.gathers.filter (fun g => decide (g.src = x ∧ g.typ = 1 ∧ g.got.length < g.paths))).foldl State.loseGather s
    let s := (s.fab.slotWaits.filter (fun w => decide (w.pos = x))).foldl (fun s w => s.retire w.user) s
    let s := (s.fab.bulkOps.filter (fun b => decide (b.dst = x))).foldl State.loseBulk s
    let s := (s.fab.bulkIn.filter (fun b => decide (b.src = x))).foldl (fun s b => s.retire (bulkUser b.src b.opnum)) s
    let s := (s.fab.slotOps.filter (fun o => decide (o.src = x) && !o.ended)).foldl (fun s o => s.retire o.user) s
    let ended := (s.fab.gathers.filter (fun g => decide (g.src ≠ x) && g.awaits x))
    let owed := s.fab.relay.filter (fun r => decide (r.dst = x ∧ r.src ≠ x))
    let far := fun (w : Watch) => decide (w.pos ≠ x)
    let blocks := s.blocks.map (fun p => (p.1, { p.2 with watches := p.2.watches.filter far }))
    let groups := s.groups.map (fun p => (p.1, { p.2.loseMonitor x with flush := p.2.flush.map (Flush.fence x) }))
    let queues := s.ctl.queues.map (fun q => (q.1, { q.2 with flush := q.2.flush.map (Flush.fence x) }))
    let asked := s.duc.asked.filter (fun a => decide (a.2.2 ≠ x))
    let s := { s with fab := s.fab.cut x, entries := s.entries.filter (fun e => !e.ofPeer x), ops := s.ops.map (EngineOp.loseRead x),
                      watches := s.watches.filter far, blocks := blocks, groups := groups, ctl := { s.ctl with queues := queues },
                      duc := { s.duc with asked := asked } }
    let f := owed.foldl (fun (f : Fabric) r =>
      if r.bulk then { f with bulkOwed := setKey 0 f.bulkOwed r.src (getKey 0 f.bulkOwed r.src + r.flits) }
      else { f with lsOwed := setKey 0 f.lsOwed r.src (getKey 0 f.lsOwed r.src + r.flits) }) s.fab
    ended.foldl State.loseGather { s with fab := f }

/-! ### Completion records (R233) and reduction slots (R212) -/

/-- The submission queue whose packet waits for an event of this chip. -/
def State.queueOf (s : State) (seq : Nat) : Option (Nat × SubQueue) :=
  s.ctl.queues.find? (fun q => decide (q.2.busy = true ∧ q.2.op = seq + 1 ∧ recNat q.2.packet 0 1 = 1))

def State.subq (s : State) (q : Nat) : SubQueue := getKey SubQueue.empty s.ctl.queues q

def State.setSubq (s : State) (q : Nat) (sq : SubQueue) : State :=
  { s with ctl := { s.ctl with queues := setKey SubQueue.empty s.ctl.queues q sq } }

/-- The packet at the head of a ring, once it is covered by TAIL (R234). -/
def State.headPacket (s : State) (sq : SubQueue) : List Byte := readBytes s.mem (sq.base + 64 * sq.head) 64

/-- Why a packet is skipped and logged (R235, R236): 1 its TYPE, 2 its CTX, 3 and 4 its ADDR2, 5 its length, 6 poison. -/
def skipReason (ctx : Nat) (p : List Byte) : Option Nat :=
  let typ := recNat p 0 1
  let wants := decide (recNat p 1 1 % 2 = 1)
  if typ = 0 ∨ 6 < typ then some 1
  else if recNat p 2 2 ≠ ctx then some 2
  else if wants = true ∧ recNat p 56 8 = 0 then some 3
  else if typ ≠ 1 ∧ wants = false ∧ recNat p 56 8 ≠ 0 then some 4
  else if typ = 6 ∧ (recNat p 40 8 = 0 ∨ 8 * 2 ^ 20 < recNat p 40 8) then some 5
  else none

/-- ctl0 goes on past the head of a ring and writes HEAD (R234). -/
def State.nextEntry (s : State) (q : Nat) : State :=
  let sq := s.subq q
  let head := if sq.size = 0 then 0 else (sq.head + 1) % sq.size
  let s := s.setSubq q { sq with head := head, busy := false, step := 0, op := 0, packet := [], paths := [], flush := none }
  if inHbm (sq.desc + 20) then s.storeMem (sq.desc + 20) (bytesLE 4 head) false else s

/-- Packets at the head of a ring that are skipped and logged (R235). -/
def State.skipBad (q : Nat) : Nat → State → State
  | 0, s => s
  | fuel + 1, s =>
    let sq := s.subq q
    if sq.busy ∨ sq.size = 0 ∨ sq.head = sq.tail then s
    else
      let why := if poisoned s.poison (sq.base + 64 * sq.head) 64 then some 6 else skipReason sq.ctx (s.headPacket sq)
      match why with
      | none => s
      | some w => State.skipBad q fuel ((s.logError (.packet q w)).nextEntry q)

/-- A packet is over: ctl0 goes on to the next entry of its ring (R234, R235). -/
def State.packetOver (s : State) (q : Nat) : State := s.nextEntry q

/-- The record of a SUBMIT that has been judged, on its origin chip; the packet that asked for it is over. -/
def State.enactSubmit (s : State) (seq ctx crec : Nat) (c : Completion) : State :=
  let q := s.queueOf seq
  let packet := (q.map (fun q => recNat q.2.packet 8 8)).getD 0
  let s := s.complete ctx crec { c with packet := some packet }
  match q with
  | some (q, _) => s.packetOver q
  | none => s

/-- STATUS 4 of a killed grid that this chip submitted; the REASON is kept for its retirement. -/
def State.enactKilled (s : State) (n grid ctx reason : Nat) : State :=
  let s := s.stopGrid grid
  match findKey s.ctl.crecs grid with
  | none => s
  | some (addr, admitRound, _) =>
    let s := { s with ctl := { s.ctl with crecs := insKey s.ctl.crecs grid (addr, admitRound, reason) } }
    s.complete ctx addr { status := 4, reason := reason, grid := none, round := some n, packet := none }

/-- A grid retires: its windows, its code's place and its saved blocks are given up here (R21), and its record is written. -/
def State.enactRetired (s : State) (n grid ctx : Nat) : State :=
  let s := { s with exports := dropKeys s.exports 1024 grid, grids := delKey s.grids grid, saved := dropKeys s.saved (2 ^ 32) grid }.takeUp
  match findKey s.ctl.crecs grid with
  | none => s
  | some (addr, _, reason) =>
    let s := { s with ctl := { s.ctl with crecs := delKey s.ctl.crecs grid } }
    s.complete ctx addr { status := 3, reason := reason, grid := none, round := some n, packet := none }

/-- KILL_DONE in the context record of every chip with a valid descriptor (R135, R233). -/
def State.enactKillDone (s : State) (n ctx : Nat) : State :=
  let d := s.ctxDesc ctx
  if d.state ≠ 1 then s else s.complete ctx d.crec { status := 5, reason := 0, grid := none, round := some n, packet := none }

/-- The answer to a SLOT request, in the region that it named (log 45). -/
def State.enactSlotAnswer (s : State) (ctx result answer : Nat) : State :=
  let index := result / 2 ^ 48
  let off := result % 2 ^ 48
  if handleStatus (s.handle ctx index) index (off + 4) true = 0 then s.locStore (.mem ctx index) off (bytesLE 4 answer) else s

/-- A slot freed on another module has nothing more to apply here (R37, log 80). -/
def State.enactSlotGone (s : State) (pos slot : Nat) : State :=
  let due := s.fab.slotWaits.filter (fun w => decide (w.pos = pos ∧ w.slot = slot))
  let s := due.foldl (fun s w => s.retire w.user) s
  { s with fab := { s.fab with slotWaits := s.fab.slotWaits.filter (fun w => decide (w ∉ due)) } }

/-- A slot freed on this module forgets what it held, and nothing of it holds a handle on (R37). -/
def State.enactSlotFreed (s : State) (slot : Nat) : State :=
  let s := (s.fab.slotOps.filter (fun o => decide (o.slot = slot))).foldl (fun s o => s.retire o.user) s
  { s with fab := { s.fab with slotParts := s.fab.slotParts.filter (fun p => decide (p.slot ≠ slot)),
                               slotOps := s.fab.slotOps.filter (fun p => decide (p.slot ≠ slot)),
                               slotLost := s.fab.slotLost.filter (fun x => decide (x.1 ≠ slot)) } }

/-! ### This chip fenced, and its return (R214, R225) -/

/-- The next member above a position, wrapping (R225). -/
def nextAbove (ps : List Nat) (pos : Nat) : Option Nat :=
  match (ps.filter (fun p => decide (pos < p))) with
  | p :: _ => some p
  | [] => (ps.filter (fun p => decide (p < pos))).head?

/-- A control-share message to a position. -/
def State.sendCtl (s : State) (m : CtlMsg) (dst : Nat) : State :=
  { s.fresh with fab := { s.fab with ctlOut := s.fab.ctlOut ++
      [{ id := s.nextId, msg := .ctl m, dst := dst, via := 0xFFFF, hop := none, sent := false, relayed := false, after := none }] } }

/-- A control-share message without contents. -/
def plainCtl (s : State) (typ round : Nat) : CtlMsg :=
  { typ := typ, observer := decide (s.duc.role = .observer), src := s.fab.pos, origin := s.fab.pos, round := round, digest := 0,
    events := [], acks := [], wanted := [], offset := 0, chunk := [] }

/-- M(n) (R207): the members after round n − 3, and the formation set for the first rounds; where a snapshot does not tell, the
latest membership known before (log 46). -/
def State.membersAt (s : State) (n : Nat) : List Nat :=
  if n < 3 then s.duc.formation
  else
    match (s.duc.mHist.filter (fun p => decide (p.1 + 3 ≤ n))).getLast? with
    | some p => p.2
    | none => (s.duc.mHist.head?.map Prod.snd).getD s.duc.formation

/-- M as it stands in the last round that this chip has applied (R225). -/
def State.lastMembers (s : State) : List Nat := s.membersAt (s.duc.lowest - 1)

/-- Step 1 and 2 of R225: a Timetable of zeros, observer mode, in which the sponsor's LS messages are not refused, and a snapshot asked of
it. The slot in which the way back began is kept over a change of sponsor. -/
def State.rejoin (s : State) (members : List Nat) : State :=
  let pod : PodRow := { slotLen := 0, guard := 0, span := 0, active := 0, rateDiv := 0, slice := 0, cfgRound := 0 }
  let sponsor := nextAbove (members.filter (fun p => decide (p ≠ s.fab.pos))) s.fab.pos
  let since := if s.duc.role = .observer then s.duc.start else s.fab.slot
  let duc : Ductus :=
    { role := .observer, formation := s.duc.formation, contribs := [], acks := [], attempt := 0, lowest := 0, pendEvents := [],
      nextEvSeq := 0, mine := [], msgAcks := [], digests := [], mHist := [], idleSlots := 0, told := [], snapshots := [], finalSets := [], snapRound := 0,
      snapIn := [], replaySet := [], peerDigests := [], sponsored := [], clients := [], asked := [], start := since, snapGot := 0,
      sponsor := sponsor }
  let s := { s with duc := duc, tt := { Timetable.reset with pod := pod }, fab := { s.fab with lsFree := sponsor.toList } }
  match sponsor with
  | some p => s.sendCtl (plainCtl s 3 0) p
  | none => s

/-- The module stops everything that it does for programs and refuses the fabric's traffic (R214, R163, R226). What becomes of the records of grids
that it submitted is open: it forgets them (log 96). What becomes of a packet in progress is open: it runs again from its first step after the rejoin
(log 97). -/
def State.stopAll (s : State) : State :=
  let others := (List.range 1024).filter (fun p => decide (p ≠ s.fab.pos))
  let fab := { s.fab with fenced := others, lsFree := [], frb := [], lsOut := [], bulkOut := [], relay := [], flowSeq := [], nextIn := [], delivered := [],
                          lsDebt := [], bulkDebt := [], lsOwed := [], bulkOwed := [], bulkOps := [], bulkIn := [], gathers := [],
                          slotParts := [], slotOps := [], winMerge := [], slotLost := [], objHold := [], slotWaits := [], bulkWaits := [], linesBack := [] }
  let handles := s.handles.map (fun p => (p.1, { p.2 with users := [] }))
  let cores := (s.cores.map (fun p => (p.1, { p.2 with slots := [] }))).filter (fun p => decide (p.2 ≠ Core.empty))
  let queues := s.ctl.queues.map (fun q => (q.1, { q.2 with busy := false, step := 0, op := 0, packet := [], paths := [], flush := none }))
  { s with groups := [], blocks := [], entries := [], ops := [], walks := [], watches := [], grids := [], exports := [], saved := [],
           handles := handles, cores := cores, fab := fab,
           ctl := { s.ctl with queues := queues, crecs := [], preemptNamed := [], overrun := [] } }

/-- R214: this chip loses, or fences itself; it goes on to rejoin. -/
def State.selfFence (s : State) : State :=
  let members := s.lastMembers
  s.stopAll.rejoin members

/-- JOIN of this chip, found in its own copy (R225 step 7). -/
def State.joined (s : State) (n : Nat) : State :=
  let away := (List.range 1024).filter (fun p => decide (p ≠ s.fab.pos) && !s.tt.isMember p)
  { s with fab := { s.fab with fenced := away, lsFree := [] },
           duc := { s.duc with role := .member, start := n + 3, idleSlots := 0, sponsor := none, nextEvSeq := 0, pendEvents := [] } }

/-! ### The acts of a round -/

/-- One act of round n; a chip that has fenced itself enacts nothing more. -/
def State.enact (n : Nat) (s : State) (a : Act) : State :=
  let here := fun (p : Nat) => decide (p = s.fab.pos)
  if s.duc.role ≠ .member then s
  else
    match a with
    | .admitted origin seq grid ctx crec =>
      if here origin then
        ({ s with ctl := { s.ctl with crecs := insKey s.ctl.crecs grid (crec, n, 0) } }).enactSubmit seq ctx crec
          { status := 1, reason := 0, grid := some grid, round := some n, packet := none }
      else s
    | .refused origin seq ctx crec reason =>
      if here origin then s.enactSubmit seq ctx crec { status := 2, reason := reason, grid := none, round := some n, packet := none } else s
    | .gridKilled grid ctx reason => s.enactKilled n grid ctx reason
    | .retired grid _ ctx => s.enactRetired n grid ctx
    | .killed c => s.killApply c
    | .killDone c => s.enactKillDone n c
    | .placed grid block pos core restore moved => s.enactPlaced n grid block pos core restore moved
    | .freed grid block pos => if here pos then s.enactFreed grid block else s
    | .preempting grid index => s.enactPreempt grid index
    | .absent grid block => s.enactAbsent grid block
    | .sourceLost pos slot rank => if here pos then s.loseSource slot rank else s
    | .lost p => if here p then s.selfFence else s.fenceChip p
    | .joined p =>
      { s with fab := { s.fab with fenced := s.fab.fenced.filter (fun x => decide (x ≠ p)), lsFree := s.fab.lsFree.filter (fun x => decide (x ≠ p)) },
               duc := { s.duc with clients := s.duc.clients.filter (fun x => decide (x ≠ p)),
                                   sponsored := s.duc.sponsored.filter (fun x => decide (x ≠ p)),
                                   peerDigests := s.duc.peerDigests.filter (fun x => decide (x.1 ≠ p)) } }
    | .slotAnswer origin ctx result answer => if here origin then s.enactSlotAnswer ctx result answer else s
    | .slotFreed pos slot => if here pos then s.enactSlotFreed slot else s.enactSlotGone pos slot

/-- An observer only finds itself a member, or its sponsor lost (R225). A JOIN of itself in a round up to the slot in which its way back began is of an
earlier one, and no step 7 (log 47). -/
def State.observe (n : Nat) (s : State) (a : Act) : State :=
  if s.duc.role ≠ .observer then s
  else
    match a with
    | .joined p => if p = s.fab.pos ∧ s.duc.start < n then s.joined n else s
    | .lost p => if s.duc.sponsor = some p then s.rejoin (s.lastMembers.filter (fun x => decide (x ≠ p))) else s
    | _ => s

end Sys2Proof.Machine
end

