-- ==== Sys2Proof/Machine/EvDuctus.lean ====
section
/-! DEFINITION. The Ductus and the Proctor as this module runs them (R146, R147, R206 to R211, R213, R223, R225, R238): slots and the
contributions closed in them, the agreement on each round and its application, what control-share messages bring, and the way
back of a fenced chip. -/

namespace Sys2Proof.Machine

/-! ### Membership and records (R206, R207, R209) -/

/-- The contribution of a position to a round, where this chip holds it. -/
def State.held (s : State) (n origin : Nat) : Option Contribution :=
  s.duc.contribs.find? (fun c => decide (c.round = n ∧ c.origin = origin))

/-- The contributions of a round that this chip holds, from members of M(n), in ascending origin. -/
def State.heldOf (s : State) (n : Nat) : List Contribution :=
  let m := s.membersAt n
  sortBy (fun c => [c.origin]) (s.duc.contribs.filter (fun c => decide (c.round = n) && m.contains c.origin))

/-- A contribution kept: of a round not applied yet, and once. -/
def State.keepContribution (s : State) (c : Contribution) : State :=
  if c.round < s.duc.lowest ∨ (s.held c.round c.origin).isSome = true then s
  else { s with duc := { s.duc with contribs := s.duc.contribs ++ [c] } }

/-- At most one record of a member for a round and attempt (R209); those of the last 64 rounds applied tell what a peer holds (R206). -/
def State.keepRecord (s : State) (pos : Nat) (a : AckRec) : State :=
  if a.round + 64 < s.duc.lowest ∨ s.duc.acks.any (fun x => decide (x.1 = pos ∧ x.2.round = a.round ∧ x.2.attempt = a.attempt)) = true then s
  else { s with duc := { s.duc with acks := s.duc.acks ++ [(pos, a)] } }

/-- What an observer's round message says it holds, of rounds not applied yet: it counts in no quorum, and only tells whom one may ask (R225 step 1). -/
def State.hearRecord (s : State) (pos : Nat) (a : AckRec) : State :=
  if a.round < s.duc.lowest ∨ (pos, a) ∈ s.duc.told then s else { s with duc := { s.duc with told := s.duc.told ++ [(pos, a)] } }

/-- This chip's record (n, a): every contribution of round n that it holds. -/
def State.makeRecord (s : State) (n a : Nat) : State :=
  let cs := s.heldOf n
  if n < s.duc.lowest then s
  else s.keepRecord s.fab.pos { round := n, attempt := a, named := cs.map Contribution.origin, hash := setHash cs }

/-- The records (n, a) held from members of M(n). -/
def State.records (s : State) (n a : Nat) : List (Nat × AckRec) :=
  let m := s.membersAt n
  s.duc.acks.filter (fun x => decide (x.2.round = n ∧ x.2.attempt = a) && m.contains x.1)

/-- What R209 asks of a member for its lowest round. -/
inductive Verdict where
  | apply (set : List Contribution)
  | fetch (names : List Nat)
  | again
  | wait
  deriving DecidableEq, Repr

/-- The contributions named, where this chip holds them all. -/
def State.allHeld (s : State) (n : Nat) : List Nat → Option (List Contribution)
  | [] => some []
  | o :: rest =>
    match s.held n o, s.allHeld n rest with
    | some c, some cs => some (c :: cs)
    | _, _ => none

/-- The contributions of a list that this chip lacks. -/
def State.lacking (s : State) (n : Nat) (names : List Nat) : List Nat := names.filter (fun o => (s.held n o).isNone)

/-- One pass of R209 for the lowest round not applied. -/
def State.verdict (s : State) : Verdict :=
  let n := s.duc.lowest
  let a := s.duc.attempt
  let recs := (s.records n a).map Prod.snd
  let count := fun (r : AckRec) => (recs.filter (fun x => decide (x.hash = r.hash))).length
  let m := (s.membersAt n).length
  let q := m / 2 + 1
  match recs.find? (fun r => decide (q ≤ count r)) with
  | some r =>
    (match s.allHeld n r.named with
    | some set => .apply set
    | none => .fetch (s.lacking n r.named))
  | none =>
    if (recs.map count).foldl max 0 + (m - recs.length) < q then
      let named := (recs.flatMap AckRec.named).foldl addSorted []
      if s.lacking n named = [] then .again else .fetch (s.lacking n named)
    else .wait

/-- Who can be asked for a contribution: a member whose record names it, or else an observer whose record does (R209, R225). -/
def State.holderOf (s : State) (n o : Nat) : Option (Nat × AckRec) :=
  let names := fun (r : Nat × AckRec) =>
    decide (r.2.round = n ∧ r.2.attempt = s.duc.attempt ∧ r.1 ≠ s.fab.pos) && r.2.named.contains o && !s.fab.shut r.1
  let m := s.membersAt n
  (s.duc.acks.find? (fun r => names r && m.contains r.1)).or (s.duc.told.find? names)

/-- Missing contributions asked of chips that name them, each once (R209, R157). -/
def State.fetchAll (s : State) (n : Nat) (names : List Nat) : State :=
  names.foldl (fun s o =>
    if s.duc.asked.any (fun a => decide (a.1 = n ∧ a.2.1 = o)) then s
    else
      match s.holderOf n o with
      | none => s
      | some r =>
        let s := s.sendCtl { plainCtl s 1 n with wanted := [o] } r.1
        { s with duc := { s.duc with asked := s.duc.asked ++ [(n, o, r.1)] } }) s

/-! ### The application of a final set (R208, R210, R225) -/

/-- The events of this chip that did not enter the final set come first again, in sequence order (R208). -/
def State.takeBack (s : State) (n : Nat) (set : List Contribution) : State :=
  let lost := if set.any (fun c => decide (c.origin = s.fab.pos)) then []
    else (s.duc.mine.filter (fun c => decide (c.round = n))).flatMap Contribution.events
  { s with duc := { s.duc with mine := s.duc.mine.filter (fun c => decide (n < c.round)),
                               pendEvents := sortBy (fun e => [e.seq]) (lost ++ s.duc.pendEvents) } }

/-- A final set as TYPE 5 messages to a chip that rejoins, and the message that closes it (R157). -/
def State.streamSet (s : State) (n : Nat) (set : List Contribution) (dst : Nat) : State :=
  let s := (sortBy (fun c => [c.origin]) set).foldl (fun s c => s.sendCtl (c.message 5 s.fab.pos false []) dst) s
  s.sendCtl { plainCtl s 5 n with origin := 0xFFFF } dst

/-- A snapshot after every round that is a multiple of 1,024: the two latest, and the final sets since the older (R225). -/
def Ductus.record (d : Ductus) (n : Nat) (image : List Host.Cell) (set : List Contribution) : Ductus :=
  let snaps := if n % 1024 = 0 then (d.snapshots ++ [(n, image)]).drop (d.snapshots.length - 1) else d.snapshots
  let sets := insKey d.finalSets n set
  let old := match snaps with
    | [a, _] => a.1
    | _ => 0
  { d with snapshots := snaps, finalSets := if 2 ≤ snaps.length then sets.filter (fun p => decide (old < p.1)) else sets }

/-- What an observer's round messages tell of a round: what it holds of it (R225 step 1). -/
def State.observed (s : State) (n : Nat) : List AckRec :=
  let cs := s.heldOf n
  if cs = [] then [] else [{ round := n, attempt := 0, named := cs.map Contribution.origin, hash := setHash cs }]

/-- Whether a rejoining chip applies sets as they are finalised: the next one has not come yet, and round n is one that a member would still be
applying (R209, log 47). -/
def State.caughtUp (s : State) (n : Nat) : Bool := (findKey s.duc.finalSets (n + 1)).isNone && decide (s.fab.slot < n + 64)

/-- The digest that a rejoining chip sends its sponsor after each round, once it applies sets as they are finalised, with a record of what it holds of
the next (R225 steps 1 and 5). -/
def State.tellSponsor (s : State) (n : Nat) (d : BitVec 256) : State :=
  match s.duc.sponsor with
  | some p =>
    if s.duc.role = .observer ∧ s.caughtUp n = true then s.sendCtl { plainCtl s 0 (n + 2) with digest := d, acks := s.observed (n + 1) } p else s
  | none => s

/-- The round messages of an observer go to every chip that it has a circuit to in the slot, and carry no contribution (R225 step 1). -/
def State.observerRound (s : State) (m : Nat) : State :=
  if s.duc.role ≠ .observer ∨ m = 0 then s
  else
    ((List.range s.fab.params.active).filterMap s.fab.partner).foldl (fun s j => s.sendCtl { plainCtl s 0 m with acks := s.observed (m - 1) } j) s

/-- Whether a peer is known to hold a contribution: its own, or one that a record of it names (R206). -/
def State.peerHas (s : State) (j : Nat) (c : Contribution) : Bool :=
  decide (j = c.origin) || (s.duc.acks ++ s.duc.told).any (fun a => decide (a.1 = j ∧ a.2.round = c.round) && a.2.named.contains c.origin)

/-- Whether a contribution of an applied round is still forwarded: some member is not known to hold it (R206), and has not been idle for so
long that it has fenced itself (R209). -/
def State.wanted (s : State) (n : Nat) (c : Contribution) : Bool :=
  decide (n < c.round) ||
  (decide (n < c.round + 64) && (s.membersAt c.round).any (fun j => decide (j ≠ s.fab.pos) && !s.fab.fenced.contains j && !s.peerHas j c))

/-- Whether this chip loses by its digest in a final set (R210 step 1). -/
def State.losing (s : State) (n : Nat) (set : List Contribution) : Bool :=
  decide (s.duc.role = .member) && (losers (set.filter (fun c => (s.membersAt n).contains c.origin))).contains s.fab.pos

/-- What is kept of saved blocks goes once their units run: until then a reservation may be rolled back, and a later one restores them (R217, R220). -/
def State.dropSaved (s : State) : State :=
  let runs := fun (grid block : Nat) => (s.tt.findUnit grid (block / (s.gridRow grid).unitSize)).any (fun u => decide (u.2.state = 2))
  { s with saved := s.saved.filter (fun p => !runs (p.1 / 2 ^ 32) (p.1 % 2 ^ 32)) }

/-- S(n) applied as one transition, and enacted (R210); a chip that loses by its digest enacts nothing of it, and fences itself (R214). ctl0 serves no context that PREEMPT KIND 0 has named until its units have
been saved (R237, log 48). -/
def State.applySet (s : State) (n : Nat) (set : List Contribution) : State :=
  let losing := s.losing n set
  let r := applyRound s.tt n s.duc.formation (s.membersAt n) set
  let digest := r.tt.digest
  let s := s.takeBack n set
  let d := s.duc.record n r.tt.snapshot set
  let d := { d with digests := insKey (d.digests.filter (fun p => decide (n < p.1 + 128))) n digest,
                    mHist := insKey (d.mHist.filter (fun p => decide (n < p.1 + 8))) n r.tt.memberList,
                    contribs := d.contribs.filter (s.wanted n), msgAcks := d.msgAcks.filter (fun a => decide (n < a.2.1 + 64)), acks := d.acks.filter (fun a => decide (n < a.2.round + 64)),
                    told := d.told.filter (fun a => decide (n < a.2.round)),
                    asked := d.asked.filter (fun a => decide (n < a.1)), attempt := 0, lowest := n + 1, idleSlots := 0 }
  let served := fun (c : Nat) => !r.tt.units.any (fun u => decide (u.2.state = 3 ∧ (r.tt.grid u.2.grid).ctx = c))
  let named := (r.named.foldl addSorted s.ctl.preemptNamed).filter (fun c => !served c)
  let s := { s with tt := r.tt, duc := d, ctl := { s.ctl with preemptNamed := named } }
  if losing then s.selfFence
  else if s.duc.role = .member then
    (r.acts.foldl (State.enact n) (s.duc.clients.foldl (fun s p => s.streamSet n set p) s)).dropSaved
  else (r.acts.foldl (State.observe n) s).tellSponsor n digest

/-- Whether a member has something to do for its lowest round. -/
def State.roundDue (s : State) : Bool :=
  decide (s.duc.role = .member) &&
  (match s.verdict with
  | .apply _ => true
  | .again => true
  | .fetch names => names.any (fun o => !s.duc.asked.any (fun a => decide (a.1 = s.duc.lowest ∧ a.2.1 = o)) && (s.holderOf s.duc.lowest o).isSome)
  | .wait => false)

/-- ROUND_FINALISE (R209). -/
def execRoundFinalise (s : State) : Out :=
  if s.duc.role ≠ .member then .next s
  else
    match s.verdict with
    | .apply set => .next (s.applySet s.duc.lowest set)
    | .fetch names => .next (s.fetchAll s.duc.lowest names)
    | .again =>
      let a := s.duc.attempt + 1
      .next ({ s with duc := { s.duc with attempt := a } }.makeRecord s.duc.lowest a)
    | .wait => .next s

/-! ### Slots (R144 to R147, R208) -/

/-- PODTIME goes on by some nanoseconds, and with it the residency count of every context (R238): each core that holds a group of
the context counts once. A group that has ended and whose block is still here is resident (log 73). -/
def State.passTime (s : State) (ns : Nat) : State :=
  let pairs := (s.groups.filter (fun p => p.2.resident)).foldl (fun l p =>
    addUnique l ((s.block p.2.block).ctx * 256 + coreOf p.1)) []
  let counts := pairs.foldl (fun m x => setKey 0 m (x / 256) (getKey 0 m (x / 256) + ns)) s.ctl.residency
  { s with fab := { s.fab with podtime := s.fab.podtime + ns }, ctl := { s.ctl with residency := counts } }

/-- The PODTIME at which the next slot starts (R147). -/
def Fabric.nextStart (f : Fabric) : Nat := f.t0 + (f.slot + 1 - f.s0) * f.params.slotLen

/-- The parameters of the Timetable take effect at CFGROUND, and (T0, S0) with them (R147, R205). -/
def State.retime (s : State) : State :=
  let f := s.fab
  let p := s.tt.pod
  let params : FabParams := { slotLen := p.slotLen, guard := p.guard, span := p.span, active := p.active, rateDiv := p.rateDiv }
  if p.slotLen ≠ 0 ∧ p.cfgRound ≤ f.slot ∧ f.s0 < p.cfgRound then
    { s with fab := { f with params := params, t0 := f.t0 + (p.cfgRound - f.s0) * f.params.slotLen, s0 := p.cfgRound } }
  else s

/-- Every link starts afresh in a slot; what was not acknowledged goes back to its queue (R160, R161), and some partners' ports may be dark (R142). At a rotation boundary ctl4
retrains dark ports (R142). -/
def State.newSlot (s : State) : State :=
  let s := (List.range 64).foldl State.handBack s
  let s := { s with fab := { s.fab with slot := s.fab.slot + 1, links := [] } }.retime
  let s := { s with fab := { s.fab with farDark := (List.range 64).filter (fun p => Config.farDark (s.fab.slot * 64 + p)) } }
  if s.fab.phase = 0 then
    { s with fab := { s.fab with dark := s.fab.dark.filter (fun p => !Config.retrains (s.fab.slot * 64 + p)) } }
  else s

/-- ctl3 reports the cores that it finds to have failed (R202, log 61). -/
def State.reportFaults (s : State) (m : Nat) : State :=
  let mask := Config.failedCores m
  if mask = 0 then s else s.contribute 0x0005 [(16, 32, mask.toNat)]

/-- What ctl1 has to report at a round boundary: returned slices (R213), and blocks of killed grids that have stopped (R212). -/
def State.reports (s : State) : State :=
  s.blocks.foldl (fun s p =>
    let b := p.2
    let quiet := !s.entries.any (fun e => e.from b.groups) && !s.ops.any (fun o => decide (o.block = p.1 ∧ o.kind ≠ .hostcopy))
    let s := if b.reported < b.shrunk ∧ (s.gridRow b.grid).shrinkable = true then
        (s.setBlock p.1 { b with reported := b.shrunk }).contribute 0x0002
          [(16, 2, b.grid), (18, 1, 3), (20, 4, b.blockId), (24, 2, b.ctx), (26, 2, b.shrunk)]
      else s
    if (s.gridRow b.grid).state = 3 ∧ b.killed = false ∧ quiet = true then
      (s.setBlock p.1 { s.block p.1 with killed := true }).contribute 0x0002 [(16, 2, b.grid), (18, 1, 2), (20, 4, b.blockId), (24, 2, b.ctx)]
    else s) s

/-- Whether this chip holds the round message of a position, and not only the contribution in it, which a fetch brings too (R206, R209). -/
def Ductus.holdsMessage (d : Ductus) (pos m : Nat) : Bool := d.msgAcks.any (fun a => decide (a.1 = pos ∧ a.2.1 = m))

/-- The records that a round message carried, as it was closed here or came (R206). -/
def Ductus.recordsOf (d : Ductus) (pos m : Nat) : List AckRec :=
  match d.msgAcks.find? (fun a => decide (a.1 = pos ∧ a.2.1 = m)) with
  | some a => a.2.2
  | none => []

/-- The records that this chip's next round message carries: up to four of those that none of its messages has carried, of the lowest rounds first. -/
def State.newRecords (s : State) : List AckRec :=
  let sent := (s.duc.msgAcks.filter (fun a => decide (a.1 = s.fab.pos))).flatMap (fun a => a.2.2)
  let mine := (s.duc.acks.filter (fun a => decide (a.1 = s.fab.pos ∧ a.2 ∉ sent))).map Prod.snd
  (sortBy (fun (a : AckRec) => [a.round, a.attempt]) mine).take 4

/-- A round message's records are kept with it, for those to whom it is forwarded. -/
def State.keepMessage (s : State) (pos m : Nat) (acks : List AckRec) : State :=
  if s.duc.holdsMessage pos m then s
  else { s with duc := { s.duc with msgAcks := s.duc.msgAcks ++ [(pos, m, acks)] } }

/-- The positions that this chip has circuits to in this slot for round messages: a chip that rejoins through this one included (R225). -/
def Fabric.partners (f : Fabric) : List Nat :=
  ((List.range f.params.active).filterMap f.partner).filter (fun j => !f.shut j)

/-- The round messages of a slot (R206): this chip's own, and every one that it holds, to every partner that lacks it. -/
def State.spread (s : State) (m : Nat) : State :=
  s.fab.partners.foldl (fun s j =>
    (s.duc.contribs.filter (fun c => s.duc.holdsMessage c.origin c.round)).foldl (fun s c =>
      if decide (c.origin = s.fab.pos ∧ c.round = m) || !s.peerHas j c then s.sendCtl (c.message 0 s.fab.pos false (s.duc.recordsOf c.origin c.round)) j
      else s) s) s

/-- ROUND_CLOSE (R208): C(m) takes up to 64 pending events, and the record of round m − 1 is made. -/
def State.closeRound (s : State) (m : Nat) : State :=
  if s.duc.role ≠ .member ∨ m < s.duc.start then s
  else
    let s := (s.reportFaults m).reports
    let evs := (s.duc.pendEvents.take 64).map (fun e => { e with round := m })
    let digest := if m < 2 then 0 else (findKey s.duc.digests (m - 2)).getD 0
    let c : Contribution := { origin := s.fab.pos, round := m, digest := digest, events := evs }
    let s := { s with duc := { s.duc with pendEvents := s.duc.pendEvents.drop 64, mine := s.duc.mine ++ [c] } }
    let s := s.keepContribution c
    let s := if m = 0 then s else s.makeRecord (m - 1) 0
    (s.keepMessage s.fab.pos m s.newRecords).spread m

/-- Round messages that no port has sent in their slot are made anew in the next. -/
def State.dropRounds (s : State) : State :=
  let old := fun (o : OutMsg) => match o.msg with
    | .ctl m => decide (m.typ = 0 ∧ (m.observer = false ∨ m.digest = 0))
    | _ => false
  { s with fab := { s.fab with ctlOut := s.fab.ctlOut.filter (fun o => !old o) } }

/-- Whether a slot counts as one in which nothing was heard or applied: for a chip that rejoins, one with a circuit to its sponsor, which as a member
sends a round message in every slot over every circuit (R206, log 47). -/
def State.idles (s : State) : Bool :=
  decide (s.duc.role ≠ .observer) || s.duc.sponsor.isNone ||
  (List.range s.fab.params.active).any (fun p => (s.fab.partner p).isSome && decide (s.fab.partner p = s.duc.sponsor))

/-- SLOT_START (R147, R208): rounds that can be finalised come first; PODTIME is slewed by at most 1 ns per µs. -/
def execSlotStart (slew : Nat) (s : State) : Out :=
  if s.ctl.phase ≠ .running ∨ s.duc.role = .off ∨ s.duc.role = .fencedOff ∨ s.fab.params.slotLen / 1000 < slew ∨
    s.fab.podtime + slew < s.fab.nextStart ∨ s.roundDue = true then .next s
  else
    let s := (s.passTime slew).newSlot.dropRounds
    let s := { s with duc := { s.duc with idleSlots := s.duc.idleSlots + (if s.idles then 1 else 0) }, ctl := { s.ctl with overflows := 0 } }
    .next ((s.closeRound s.fab.slot).observerRound s.fab.slot)

/-- SELF_FENCE (R209, R214): nothing has been applied for 64 slots. A chip that has heard nothing of its sponsor in 64 slots with a circuit to it begins
again with the next one (log 47). -/
def execSelfFence (s : State) : Out :=
  if s.duc.idleSlots < 64 then .next s
  else
    match s.duc.role with
    | .member => .next s.selfFence
    | .observer =>
      let known := if s.tt.memberList = [] then s.duc.formation else s.tt.memberList
      .next (s.rejoin (known.filter (fun p => decide (some p ≠ s.duc.sponsor))))
    | _ => .next s

/-! ### Charges (R223, R238) -/

/-- Core-microseconds of a residency count; the remainder below 1,000 ns and what exceeds 32 bits stay. -/
def chargeOf (ns : Nat) : Nat := if ns / 1000 < 2 ^ 32 then ns / 1000 else 2 ^ 32 - 1

/-- CHARGE_CONTRIBUTE: one event per context every 64 rounds; none for an amount of 0. -/
def execChargeContribute (s : State) : Out :=
  if s.duc.role ≠ .member ∨ s.fab.slot / 64 ≤ s.ctl.charged then .next s
  else
    let s' := s.ctl.residency.foldl (fun s p =>
      if chargeOf p.2 = 0 then s else s.contribute 0x0008 [(16, 2, p.1), (20, 4, chargeOf p.2)]) s
    let rest := (s.ctl.residency.map (fun p => (p.1, p.2 - 1000 * chargeOf p.2))).filter (fun p => decide (p.2 ≠ 0))
    .next { s' with ctl := { s'.ctl with residency := rest, charged := s.fab.slot / 64 } }

/-! ### Control-share messages (R157, R206, R209, R225) -/

/-- Whether a control-share message is heard: a fenced chip's only from its observer mode on, and to an observer every round
message and its sponsor's traffic (R214, R225). -/
def State.hears (s : State) (m : CtlMsg) : Bool :=
  match s.duc.role with
  | .member => !s.fab.fenced.contains m.src || m.observer
  | .observer => decide (m.typ = 0 ∨ s.duc.sponsor = some m.src)
  | _ => false

/-- A rejoining chip has heard of its sponsor. -/
def State.heardOf (s : State) (src : Nat) : State :=
  if s.duc.role = .observer ∧ s.duc.sponsor = some src then { s with duc := { s.duc with idleSlots := 0 } } else s

/-- ROUND_MESSAGE (R206): what is new is kept and forwarded to the partners of this slot that lack it, and so is a message whose contribution a fetch
has brought before it; an observer's brings its digest, and records that only tell whom to ask (R225). -/
def execRoundMessage (m : CtlMsg) (s : State) : Out :=
  if m.typ ≠ 0 ∨ s.hears m = false then .next s
  else if m.observer then
    let s := m.acks.foldl (fun s a => s.hearRecord m.src a) s
    (if s.duc.clients.contains m.src && decide (2 ≤ m.round ∧ m.digest ≠ 0) then
      .next { s with duc := { s.duc with peerDigests := s.duc.peerDigests ++ [(m.src, m.round - 2, m.digest)] } }
    else .next s)
  else
    let c := contributionOf m
    let fresh : Bool := match s.held c.round c.origin with
      | none => decide (s.duc.lowest ≤ c.round)
      | some _ => !s.duc.holdsMessage c.origin c.round
    let s := (m.acks.foldl (fun s a => s.keepRecord m.origin a) (s.keepContribution c)).heardOf m.src
    let s := if fresh then s.keepMessage c.origin c.round m.acks else s
    if fresh && decide (s.duc.role = .member) then
      .next ((s.fab.partners.filter (fun j => decide (j ≠ m.src))).foldl (fun s j =>
        if s.peerHas j c then s else s.sendCtl (c.message 0 s.fab.pos false m.acks) j) s)
    else .next s

/-- The contribution of a round, held or part of a final set that is kept. -/
def State.anyHeld (s : State) (n o : Nat) : Option Contribution :=
  match s.held n o with
  | some c => some c
  | none => (getKey [] s.duc.finalSets n).find? (fun c => decide (c.origin = o))

/-- CONTRIBUTION_FETCH_REQUEST (R157). -/
def execContributionFetchRequest (m : CtlMsg) (s : State) : Out :=
  if m.typ ≠ 1 ∨ s.hears m = false then .next s
  else .next ((m.wanted.filterMap (s.anyHeld m.round)).foldl (fun s c => s.sendCtl (c.message 2 s.fab.pos (decide (s.duc.role = .observer)) []) m.src) s)

/-- CONTRIBUTION_FETCH_REPLY (R157). -/
def execContributionFetchReply (m : CtlMsg) (s : State) : Out :=
  if m.typ ≠ 2 ∨ s.hears m = false then .next s else .next (s.keepContribution (contributionOf m))

/-- SNAPSHOT_REQUEST (R225): the latest snapshot in chunks, then every final set after it, and each new one as it is applied. -/
def execSnapshotRequest (m : CtlMsg) (s : State) : Out :=
  if m.typ ≠ 3 ∨ s.duc.role ≠ .member ∨ s.hears m = false then .next s
  else
    match s.duc.snapshots.getLast? with
    | none => .next s
    | some (n, image) =>
      let fresh := fun (x : Nat × Nat × BitVec 256) => decide (x.1 ≠ m.src)
      let s := { s with fab := { s.fab with lsFree := addSorted s.fab.lsFree m.src },
                        duc := { s.duc with clients := addSorted s.duc.clients m.src, sponsored := s.duc.sponsored.filter (fun p => decide (p ≠ m.src)), peerDigests := s.duc.peerDigests.filter fresh } }
      let whole := snapshotSize image
      let s := (List.range ((whole + 4095) / 4096)).foldl (fun s i =>
        let size := if 4096 * i + 4096 ≤ whole then 4096 else whole - 4096 * i
        s.sendCtl { plainCtl s 4 n with offset := 4096 * i, chunk := readBytes image (4096 * i) size } m.src) s
      .next ((s.duc.finalSets.filter (fun p => decide (n < p.1))).foldl (fun s p => s.streamSet p.1 p.2 m.src) s)

/-- Whether a snapshot has come as a whole. -/
def Ductus.snapWhole (d : Ductus) : Bool := decide (imageSize + 8 ≤ d.snapGot ∧ snapshotSize d.snapIn ≤ d.snapGot)

/-- Final sets that have come are applied in order, while this chip is an observer (R225 step 4). -/
def State.replay : Nat → State → State
  | 0, s => s
  | fuel + 1, s =>
    if s.duc.role ≠ .observer ∨ s.duc.snapWhole = false then s
    else
      match findKey s.duc.finalSets s.duc.lowest with
      | none => s
      | some set => State.replay fuel (s.applySet s.duc.lowest set)

/-- A whole snapshot is loaded: the state after its round, with the fabric parameters that have taken effect by this chip's (T0, S0) (R147). -/
def State.loadSnapshot (s : State) (n : Nat) : State :=
  let tt := readImage s.duc.snapIn
  let d := { s.duc with lowest := n + 1, mHist := [(n, tt.memberList)], digests := [(n, tt.digest)], idleSlots := 0 }
  let p := tt.pod
  let params : FabParams := { slotLen := p.slotLen, guard := p.guard, span := p.span, active := p.active, rateDiv := p.rateDiv }
  { s with tt := tt, duc := d, fab := { s.fab with params := if p.slotLen ≠ 0 ∧ p.cfgRound ≤ s.fab.s0 then params else s.fab.params } }

/-- SNAPSHOT_CHUNK (R225). -/
def execSnapshotChunk (m : CtlMsg) (s : State) : Out :=
  if m.typ ≠ 4 ∨ s.duc.role ≠ .observer ∨ s.duc.sponsor ≠ some m.src ∨ s.duc.snapWhole = true then .next s
  else
    let s := s.heardOf m.src
    let d := { s.duc with snapIn := writeBytes s.duc.snapIn m.offset m.chunk, snapGot := s.duc.snapGot + m.chunk.length, snapRound := m.round }
    let s := { s with duc := d }
    if s.duc.snapWhole = false then .next s else .next ((s.loadSnapshot m.round).replay s.duc.finalSets.length)

/-- FINAL_SET_CONTRIBUTION (R225): the closing message has ORIGIN 0xFFFF. -/
def execFinalSetContribution (m : CtlMsg) (s : State) : Out :=
  if m.typ ≠ 5 ∨ s.duc.role ≠ .observer ∨ s.duc.sponsor ≠ some m.src then .next s
  else if m.origin ≠ 0xFFFF then .next ({ s with duc := { s.duc with replaySet := s.duc.replaySet ++ [contributionOf m] } }.heardOf m.src)
  else
    let s := s.heardOf m.src
    let mine := fun (c : Contribution) => decide (c.round = m.round)
    let d := { s.duc with finalSets := insKey s.duc.finalSets m.round (s.duc.replaySet.filter mine),
                          replaySet := s.duc.replaySet.filter (fun c => !mine c) }
    .next ({ s with duc := d }.replay d.finalSets.length)

/-- JOIN_CONTRIBUTE (R225 step 6): two consecutive digests of the chip equal this sponsor's own. -/
def execJoinContribute (position : Nat) (s : State) : Out :=
  let same := fun (x : Nat × Nat × BitVec 256) => decide (x.1 = position ∧ findKey s.duc.digests x.2.1 = some x.2.2)
  let good := s.duc.peerDigests.filter same
  match good.find? (fun x => good.any (fun y => decide (y.2.1 + 1 = x.2.1))) with
  | none => .next s
  | some x =>
    if s.duc.role ≠ .member ∨ s.duc.clients.contains position = false ∨ s.duc.sponsored.contains position = true then .next s
    else
      .next ({ s with duc := { s.duc with sponsored := addSorted s.duc.sponsored position } }.contribute 0x000A
        [(16, 2, position), (24, 32, x.2.2.toNat)])

end Sys2Proof.Machine
end

