-- ==== Sys2Proof/Machine/EvFront.lean ====
section
/-! DEFINITION. What software asks of the control complex: mailboxes (R227, R228), submission queues and their packets (R234 to
R237), kill requests (R204), reduction slots (R224) and the gating of issue (R252). -/

namespace Sys2Proof.Machine

/-! ### Mailboxes (R227, R228) -/

/-- The ring of an ordered pair; 8 stands for the host cores. -/
def ringKey (sender receiver : Nat) : Nat := sender * 16 + receiver

def State.ring (s : State) (k : Nat) : List (List Byte) := getKey [] s.ctl.rings k

/-- A ring from which its receiver has taken some messages meanwhile. -/
def State.drainRing (s : State) (k : Nat) : State :=
  let left := (s.ring k).drop (Config.mailTaken s.free)
  { s with free := s.free + 1, ctl := { s.ctl with rings := setKey [] s.ctl.rings k left } }

def State.pushRing (s : State) (k : Nat) (m : List Byte) : State :=
  { s with ctl := { s.ctl with rings := setKey [] s.ctl.rings k (s.ring k ++ [m]) } }

/-- A reply to the host (R228): the request's code and number, and a status (log 48). -/
def replyBytes (msg : List Byte) (status : Nat) : List Byte := sliceBytes msg 0 4 ++ bytesLE 1 status ++ bytesLE 59 0

/-- A control core's replies enter its ring to the host as far as there is room; the others wait (R227). -/
def State.sendReplies (s : State) (core : Nat) : State :=
  let k := ringKey core 8
  let s := s.drainRing k
  let mine := s.ctl.replies.filter (fun r => decide (r.1 = core))
  let room := 16 - (s.ring k).length
  let s := (mine.take room).foldl (fun s r => s.pushRing k r.2) s
  { s with ctl := { s.ctl with replies := s.ctl.replies.filter (fun r => decide (r.1 ≠ core)) ++ mine.drop room } }

/-- A reply of a control core to the host. -/
def State.replyHost (s : State) (core : Nat) (msg : List Byte) (status : Nat) : State :=
  { s with ctl := { s.ctl with replies := s.ctl.replies ++ [(core, replyBytes msg status)] } }.sendReplies core

/-- The oldest request that a control core has still to answer; a core takes its ring's messages in order (R227, log 68). -/
def State.takeAsk (s : State) (core : Nat) : Option (List Byte) × State :=
  match s.ctl.asks.find? (fun r => decide (r.1 = core)) with
  | some r => (some r.2, { s with ctl := { s.ctl with asks := s.ctl.asks.erase r } })
  | none => (none, s)

/-- The answer to a request, where one was made: its number comes back (R228). -/
def State.answerTo (s : State) (core : Nat) (ask : Option (List Byte)) (status : Nat) : State :=
  match ask with
  | some m => s.replyHost core m status
  | none => s

/-- The answer to the request that a control core has at hand. -/
def State.answer (s : State) (core status : Nat) : State := (s.takeAsk core).2.answerTo core (s.takeAsk core).1 status

/-- A message to ctl3 that finds its ring full takes the place of the oldest (R227). -/
def State.mailCtl3 (s : State) (k : Nat) (m : List Byte) : State :=
  if (s.ring k).length < 16 then s.pushRing k m
  else
    let s := { s with ctl := { s.ctl with rings := setKey [] s.ctl.rings k ((s.ring k).drop 1) } }
    ({ s with ctl := { s.ctl with overflow := true, overflows := s.ctl.overflows + 1 } }.pushRing k m).logError .mailboxOverflow

/-- The events that ctl0 contributes for the operating system (R202, R239). -/
def osEvent (typ : Nat) (body : List Byte) : Bool := decide (typ = 3 ∨ typ = 4 ∨ (typ = 7 ∧ recNat body 0 1 = 0) ∨ typ = 8 ∨ typ = 0xD)

/-- A submission queue registered with the address of its descriptor (R234): one that has a packet in progress, or that no module has, is
refused. -/
def State.registerQueue (s : State) (msg : List Byte) (q desc : Nat) : State :=
  if 256 ≤ q ∨ (s.subq q).busy = true then s.replyHost 0 msg 0xFF
  else (s.setSubq q { SubQueue.empty with desc := desc }).replyHost 0 msg 0

/-- A host request with a code that its receiver knows: a queue's registration, or what ctl0 is to contribute, at once; a request that an event
of its own serves is answered there. -/
def State.hostRequest (s : State) (receiver : Nat) (msg : List Byte) : State :=
  let later := { s with ctl := { s.ctl with asks := s.ctl.asks ++ [(receiver, sliceBytes msg 0 4)] } }
  if receiver = 6 then s.replyHost 6 msg 0
  else if receiver ≠ 0 then later
  else
    match Config.requestQueue msg, Config.requestEvent msg with
    | some (q, desc), _ => s.registerQueue msg q desc
    | none, some (typ, body) =>
      if osEvent typ body then
        let e : EvRec := { typ := typ, origin := s.fab.pos, seq := s.duc.nextEvSeq, round := 0, body := sliceBytes body 0 48 }
        { s with duc := { s.duc with pendEvents := s.duc.pendEvents ++ [e], nextEvSeq := s.duc.nextEvSeq + 1 } }.replyHost 0 msg 0
      else later
    | none, none => later

/-- MAILBOX_MESSAGE: a full ring makes the sender wait, and a control core's message to the host stands behind the replies that wait. In
recovery and after a fatal error nothing but the management port is served (R247, R249). -/
def execMailboxMessage (sender receiver : Nat) (msg : List Byte) (s : State) : Out :=
  let k := ringKey sender receiver
  if s.ctl.phase ≠ .running ∨ 8 < sender ∨ 8 < receiver ∨ (sender = 8 ∧ receiver ∉ [0, 2, 6, 7]) then .next s
  else
    let s := if receiver = 8 then s.sendReplies sender else s.drainRing k
    let m := sliceBytes msg 0 64
    if receiver = 3 then .next (s.mailCtl3 k m)
    else if 16 ≤ (s.ring k).length ∨ (receiver = 8 ∧ s.ctl.replies.any (fun r => decide (r.1 = sender)) = true) then .next s
    else if sender ≠ 8 then .next (s.pushRing k m)
    else if Config.knownRequest receiver (m.headD 0) then .next ((s.pushRing k m).hostRequest receiver m)
    else .next ((s.pushRing k m).replyHost receiver m 0xFF)

/-! ### DOORBELL (R234) -/

/-- Whether a queue descriptor's fields are what R234 asks for. -/
def queueOk (base size : Nat) : Bool :=
  decide (base % 64 = 0) && (List.range 17).any (fun i => decide (4 ≤ i ∧ size = 2 ^ i)) && inHbm base && inHbm (base + 64 * size - 1)

/-- DOORBELL: TAIL and, between packets, the rest of the descriptor are read. A TAIL is taken modulo SIZE, and a descriptor whose SIZE or BASE
is invalid makes the queue empty: the model's choice (log 74). A queue registered with descriptor address 0 counts as not registered: the model's
choice too (log 98). -/
def execDoorbell (queue : Nat) (s : State) : Out :=
  let sq := s.subq queue
  if sq.desc = 0 ∨ !inHbm sq.desc ∨ s.ctl.phase ≠ .running then .next s
  else
    let n := readNat s.mem
    let base := n sq.desc 8
    let size := n (sq.desc + 8) 4
    let fresh := if sq.busy then sq else { sq with base := base, size := if queueOk base size then size else 0, ctx := n (sq.desc + 12) 2 }
    let tail := if fresh.size = 0 then 0 else n (sq.desc + 16) 4 % fresh.size
    .next ((s.setSubq queue { fresh with tail := tail }).answer 0 0)

/-! ### ctl0's accesses for a packet (R236) -/

/-- The bytes of an access up to the end of its 64 KiB. -/
def firstPart (va n : Nat) : Nat := if n ≤ 65536 - va % 65536 then n else 65536 - va % 65536

/-- A read of a context's memory that may cross a page. -/
def State.ctlLoad (s : State) (ctx va n : Nat) : Option Nat :=
  let k := firstPart va n
  match s.ctlRead ctx va k, (if k = n then some [] else s.ctlRead ctx (va + k) (n - k)) with
  | some a, some b => some (natLE (a ++ b))
  | _, _ => none

/-- A store in a context's memory that may cross a page: nothing is stored where a part of it faults. -/
def State.ctlStore (s : State) (ctx va : Nat) (bytes : List Byte) : Option State :=
  let k := firstPart va bytes.length
  if k = bytes.length then s.ctlWrite ctx va bytes
  else if (s.ctlAddr ctx (va + k) (bytes.length - k) true).isNone then none
  else (s.ctlWrite ctx va (bytes.take k)).bind (fun s => s.ctlWrite ctx (va + k) (bytes.drop k))

/-- The release store of a WRITE; none for a fault or another width (R236). -/
def State.packetWrite (s : State) (ctx : Nat) (p : List Byte) : Option State :=
  match recNat p 32 1 with
  | 2 => s.ctlStore ctx (recNat p 16 8) (bytesLE 4 (recNat p 24 8))
  | 3 => s.ctlStore ctx (recNat p 16 8) (bytesLE 8 (recNat p 24 8))
  | _ => none

/-- The atomic add of a SIGNAL; none for a fault (R9, R76, R236). -/
def State.packetSignal (s : State) (ctx va : Nat) : Option State :=
  if va % 8 ≠ 0 then none
  else
    match s.ctlRead ctx va 8 with
    | some old => s.ctlWrite ctx va (bytesLE 8 ((natLE old + 1) % 2 ^ 64))
    | none => none

/-! ### Packets and turns (R235, R237) -/

/-- Whether ctl0 serves a context (R237): one that is active and that no PREEMPT KIND 0 names. Without a valid descriptor its packets fault, and its
LAUNCH_GRID is refused (R229, R462). -/
def State.served (s : State) (ctx : Nat) : Bool :=
  decide ((getKey CtxRow.empty s.tt.ctxs ctx).state = 1) && !s.ctl.preemptNamed.contains ctx

/-- Whether the context of a packet in progress has been killed (R237). -/
def State.dying (s : State) (ctx : Nat) : Bool := let st := (getKey CtxRow.empty s.tt.ctxs ctx).state; decide (st = 3 ∨ st = 4)

/-- Whether a packet stands between two of its steps: a WRITE_SIGNAL after its store, a HOSTCOPY before its flush (R237). -/
def SubQueue.midway (q : SubQueue) : Bool :=
  q.busy && (match recNat q.packet 0 1 with
  | 5 => true
  | 6 => q.flush.isNone
  | _ => false)

/-- Whether ctl0 has something to do for a queue now: a packet to start, or a step of one that waits for nothing. -/
def SubQueue.canStep (q : SubQueue) : Bool :=
  if q.desc = 0 ∨ q.size = 0 then false
  else if q.busy then
    (match recNat q.packet 0 1 with
    | 1 => decide (q.op = 0)
    | 4 => decide (q.step = 0)
    | 6 => (match q.flush with
      | some f => decide (f.awaited = [])
      | none => true)
    | _ => true)
  else decide (q.head ≠ q.tail)

/-- Whether a queue of a lower number of the context whose turn it is comes first (R237, log 69). -/
def State.lowerFirst (s : State) (q : Nat) : Bool :=
  let c := (s.subq q).ctx
  decide (c = s.ctl.turnCtx) && s.served c && s.ctl.queues.any (fun x => decide (x.1 < q ∧ x.2.ctx = c) && x.2.canStep)

/-- Whether ctl0 may turn to a queue now: it has a packet in progress or, in its context's turn, one to start, and no packet of another queue stands
between two of its steps; a packet that does so itself comes before those of lower queues (R237). -/
def State.turnOf (s : State) (q : Nat) : Bool :=
  let sq := s.subq q
  let other := s.ctl.queues.any (fun x => decide (x.1 ≠ q) && x.2.midway) || (!sq.midway && s.lowerFirst q)
  let may := sq.busy || (s.served sq.ctx && decide (sq.ctx = s.ctl.turnCtx ∧ sq.head ≠ sq.tail))
  decide (s.ctl.phase = .running ∧ sq.desc ≠ 0 ∧ sq.size ≠ 0) && may && !other

/-- The packets that ctl0 skips when it turns to a queue (R235). -/
def State.parse (s : State) (q : Nat) : State := if s.turnOf q then s.skipBad q (s.subq q).size else s

/-- The packet of a TYPE that a queue has in progress, or may start in this turn. -/
def State.packetOf (s : State) (q typ : Nat) : Option (List Byte) :=
  let sq := s.subq q
  let p := if sq.busy then sq.packet else s.headPacket sq
  if s.turnOf q = true ∧ recNat p 0 1 = typ ∧ (skipReason sq.ctx p).isNone = true then some p else none

/-- A packet ends with its record (R235, R236): STATUS 6, or 7 after a fault, which is logged. -/
def State.endPacket (s : State) (q : Nat) (p : List Byte) (good : Bool) : State :=
  let s := if good then s else s.logError (.packet q 7)
  let c : Completion := { status := if good then 6 else 7, reason := 0, grid := none, round := none, packet := some (recNat p 8 8) }
  let s := if recNat p 1 1 % 2 = 1 then s.complete (s.subq q).ctx (recNat p 56 8) c else s
  s.packetOver q

/-- A packet event: what is to be skipped is, and then one step of the packet, or the end of one whose context has been killed, which writes no
completion record (log 72). -/
def onPacket (q typ : Nat) (step : List Byte → SubQueue → State → State) (s : State) : Out :=
  let s := s.parse q
  match s.packetOf q typ with
  | none => .next s
  | some p =>
    let sq := s.subq q
    if sq.busy && s.dying sq.ctx then .next (s.packetOver q) else .next (step p { sq with busy := true, packet := p } s)

/-- The SUBMIT payload of a LAUNCH_GRID packet: it names the queue's context, and no parent, so that the grid has DEPTH 0 (R187), whatever CTX and
PARENT the packet gives (log 71). -/
def packetPayload (ctx : Nat) (p : List Byte) : List Byte := bytesLE 2 ctx ++ bytesLE 2 0xFFFF ++ (sliceBytes p 16 48).drop 4

/-- LAUNCH_GRID: the packet is over when its SUBMIT is applied or its refusal is written (R231, R236). -/
def execLaunchGrid (queue : Nat) (s : State) : Out :=
  onPacket queue 1 (fun p sq s =>
    if sq.op ≠ 0 then s
    else
      let payload := packetPayload sq.ctx p
      let t := s.submit payload (recNat p 8 8)
      if (submitRefusal s payload).isSome then t.packetOver queue
      else t.setSubq queue { sq with op := s.duc.nextEvSeq + 1 }) s

/-- WRITE (R236). -/
def execWrite (queue : Nat) (s : State) : Out :=
  onPacket queue 2 (fun p sq s =>
    match s.packetWrite sq.ctx p with
    | some t => t.endPacket queue p true
    | none => s.endPacket queue p false) s

/-- SIGNAL (R236). -/
def execSignal (queue : Nat) (s : State) : Out :=
  onPacket queue 3 (fun p sq s =>
    match s.packetSignal sq.ctx (recNat p 16 8) with
    | some t => t.endPacket queue p true
    | none => s.endPacket queue p false) s

/-- WAIT (R236): looked at once in each of the context's turns; `step` 1 once it has been in this one. -/
def execWait (queue : Nat) (s : State) : Out :=
  onPacket queue 4 (fun p sq s =>
    if sq.step = 1 ∨ s.served sq.ctx = false ∨ sq.ctx ≠ s.ctl.turnCtx then s
    else
      match s.ctlLoad sq.ctx (recNat p 16 8) 8 with
      | none => s.endPacket queue p false
      | some v => if recNat p 24 8 ≤ v then s.endPacket queue p true else s.setSubq queue { sq with step := 1 }) s

/-- WRITE_SIGNAL (R236): one event per step. -/
def execWriteSignal (queue : Nat) (s : State) : Out :=
  onPacket queue 5 (fun p sq s =>
    if sq.step = 0 then
      (match s.packetWrite sq.ctx p with
      | some t => t.setSubq queue { sq with step := 1 }
      | none => s.endPacket queue p false)
    else
      match s.packetSignal sq.ctx (recNat p 40 8) with
      | some t => t.endPacket queue p true
      | none => s.endPacket queue p false) s

/-! ### HOSTCOPY (R236) -/

/-- The tile record of a run of bytes in a region. -/
def byteTile (handle off n : Nat) : TileRec :=
  { readTile [] with base := handle / 2 ^ 48 * 2 ^ 48 + (handle + off) % 2 ^ 48, fmt := 10, d0 := n, d1 := 1, d2 := 1, rank := 0xFFFF,
                     flagOff := 0xFFFFFFFF }

/-- The position that a HOSTCOPY names. -/
def copyPos (s : State) (p : List Byte) : Nat := if recNat p 32 2 = 0xFFFF then s.fab.pos else recNat p 32 2

/-- A queue's copy of one MiB or part, as an engine takes it. -/
def copyOp (s : State) (q ctx : Nat) (p : List Byte) (step : Nat) : EngineOp :=
  let off := step * 2 ^ 20
  let rest := recNat p 40 8 - off
  let n := if rest ≤ 2 ^ 20 then rest else 2 ^ 20
  { id := s.nextId, kind := .hostcopy, cls := 0, group := 0, block := 2 ^ 32, core := q, ctx := ctx, cgen := s.cgen ctx,
    src := byteTile (recNat p 16 8) off n, dst := byteTile (recNat p 24 8) off n, handle := 16, list := [], elems := [], summary := [],
    amx := 0, qsk := 0, typ := 0, stage := .left, status := 0, targets := [copyPos s p], awaited := [], opnum := 0, image := [],
    imageBad := [], cargo := [], given := [], dead := false }

/-- The copies of a queue's packet. -/
def State.copies (s : State) (q : Nat) : List EngineOp := s.ops.filter (fun o => decide (o.kind = .hostcopy ∧ o.core = q))

/-- The packet's copies given up when it ends. -/
def State.endCopies (s : State) (q : Nat) (p : List Byte) (good : Bool) : State :=
  let keep := fun (o : EngineOp) => !decide (o.kind = .hostcopy ∧ o.core = q)
  { s with ops := s.ops.filter keep }.endPacket q p good

/-- A status that ends a copy as a fault does (R35, R163, R164, R236). -/
def EngineOp.faulted (o : EngineOp) : Bool := decide (Nat.land o.status 0x186 ≠ 0)

/-- The flush after the last step (R112, R236): one marker on each path that the copies took. -/
def State.startQueueFlush (s : State) (q : Nat) (sq : SubQueue) (pos : Nat) : State :=
  let paths := ((s.copies q).flatMap EngineOp.awaited).foldl addUnique []
  let number := getKey 0 s.fab.flushNos (8192 + q)
  let mark := fun (via : Nat) =>
    ({ src := s.fab.pos, dst := pos, ctx := sq.ctx, cgen := s.cgen sq.ctx, typ := 0, via := via, core := q, gslot := 32, number := number,
       paths := paths.length, status := 0, flag := 2 ^ 64 - 1 } : MarkerMsg)
  let lost := decide (paths ≠ []) && (s.fab.fenced.contains pos || paths.any s.fab.fenced.contains)
  let fl : Flush := { number := number, paths := paths.map (fun via => (pos, via)), awaited := if lost ∨ paths = [] then [] else [pos], fenced := lost }
  let s := paths.foldl (fun s via => s.sendBulk (.marker (mark via)) pos via) s
  { s with fab := { s.fab with flushNos := setKey 0 s.fab.flushNos (8192 + q) ((number + 1) % 2 ^ 32) } }.setSubq q { sq with flush := some fl }

/-- HOSTCOPY: each MiB a copy on the fabric dies, and then the flush. -/
def execHostcopy (queue : Nat) (s : State) : Out :=
  onPacket queue 6 (fun p sq s =>
    let ops := s.copies queue
    match sq.flush with
    | some f =>
      if f.awaited ≠ [] then s else s.endCopies queue p (!f.fenced && !ops.any EngineOp.faulted)
    | none =>
      if ops.any (fun o => decide (o.stage ≠ .finished)) then s
      else if ops.any EngineOp.faulted ∨ ops.length ≠ sq.step then s.endCopies queue p false
      else if recNat p 40 8 ≤ sq.step * 2 ^ 20 then s.startQueueFlush queue sq (copyPos s p)
      else
        { s.fresh with ops := s.ops ++ [copyOp s queue sq.ctx p sq.step] }.setSubq queue { sq with step := sq.step + 1 }) s

/-! ### TURN_END (R237) -/

/-- The contexts whose queues ctl0 serves, ascending. -/
def State.servedList (s : State) : List Nat :=
  (((s.ctl.queues.filter (fun q => decide (q.2.size ≠ 0))).map (fun q => q.2.ctx)).foldl addSorted []).filter s.served

/-- TURN_END, `used` nanoseconds after the turn's start: the overrun of a turn shortens the context's next one; a turn does not end between two steps
of a packet. -/
def execTurnEnd (used : Nat) (s : State) : Out :=
  let c := s.ctl.turnCtx
  let before := getKey 0 s.ctl.overrun c
  if used + before < 20000 ∨ s.ctl.queues.any (fun q => q.2.midway) then .next s
  else
    let next := match s.servedList.find? (fun x => decide (c < x)) with
      | some x => x
      | none => s.servedList.headD c
    let look := fun (q : SubQueue) => if q.busy ∧ q.ctx = next ∧ recNat q.packet 0 1 = 4 then { q with step := 0 } else q
    .next { s with ctl := { s.ctl with turnCtx := next, turnStart := s.clock, overrun := setKey 0 s.ctl.overrun c (used + before - 20000),
                                       queues := s.ctl.queues.map (fun q => (q.1, look q.2)) } }

/-! ### Other requests -/

/-- KILL_REQUEST (R204). -/
def execKillRequest (ctx reason : Nat) (s : State) : Out :=
  if s.ctl.phase ≠ .running then .next s
  else if 0x80 ≤ reason ∧ reason ≤ 0xFF then .next ((s.contributeKill ctx reason).answer 0 0)
  else .next (s.answer 0 0xFF)

/-- SLOT_REQUEST (R202, R224). -/
def execSlotRequest (r : SlotReq) (s : State) : Out :=
  if s.ctl.phase ≠ .running then .next s
  else if r.release then .next (s.contribute 0x000C [(16, 2, r.ctx), (18, 2, r.module), (20, 1, r.slotno)])
  else
    .next (s.contribute 0x000B [(16, 2, r.ctx), (18, 2, r.grid), (20, 2, r.module), (22, 2, r.dest), (24, 2, r.srcBase), (26, 1, r.fmt),
      (27, 1, r.op), (28, 8, r.srcMask), (40, 8, r.result)])

/-- ISSUE_GATING (R252): it changes timing only. -/
def execIssueGating (on : Bool) (s : State) : Out := .next { s with ctl := { s.ctl with gating := on } }

end Sys2Proof.Machine
end

