-- ==== Sys2Proof/Machine/EvPages.lean ====
section
/-! DEFINITION. What ctl2 does for the operating system: changes of page tables and their invalidation (R44 to R47, R21, R34, R72),
region handles (R33, R34, R37), and context descriptors (R229). -/

namespace Sys2Proof.Machine

/-! ### Pinned pages (R21, R34) -/

/-- The context and address of every page that is pinned: those of live and draining handles and of export windows. -/
def State.pinnedPages (s : State) : List (Nat × Nat) :=
  (s.handles.filter (fun h => decide (h.2.st ≠ .free))).flatMap (fun h => h.2.pins.map (fun p => (h.1 / 4096, p.va))) ++
  s.exports.flatMap (fun x =>
    let row := s.gridRow (x.1 / 1024)
    (List.range ((row.expLen + 65535) / 65536)).map (fun i => (row.ctx, x.2 + 65536 * i)))

/-- A change that ctl2 refuses (R21, R34, R72): outside HBM or not aligned, mapping a page of a reservation at whatever level, or of a pinned page's
entry. -/
def State.refusesChange (s : State) (c : PteChange) : Bool :=
  let after := { s with mem := writeNat s.mem c.entry.pa 8 c.entry.val.toNat }
  decide (c.entry.pa % 8 ≠ 0) || !inHbm c.entry.pa || namesReserve c.entry.val.toNat || (s.newPages s.mem after.mem).any pageReserved ||
  s.pinnedPages.any (fun p => decide (after.walkVa p.1 p.2 ≠ s.walkVa p.1 p.2))

/-! ### PAGE_TABLE_CHANGE and INVALIDATION_COMPLETE (R44 to R46) -/

/-- Whether a TLB entry stays after an invalidation (R46). -/
def invKeeps (form : InvForm) (ctx : Nat) (e : TlbEnt) : Bool :=
  match form with
  | .page va => !tlbCovers ctx va e
  | .context => decide (e.ctx ≠ ctx)
  | .die => false

/-- Every die's epoch advances, and the matching entries of every TLB go (R44 steps 2 and 3): those that the form names, and every other whose
translation the change has altered, so that none stays behind a form that names another page or context (R47). -/
def State.invalidate (s : State) (old : State) (form : InvForm) (ctx : Nat) : State :=
  let keep := fun (l : List TlbEnt) => l.filter (fun e => invKeeps form ctx e && decide (s.walkVa e.ctx e.va = old.walkVa e.ctx e.va))
  let l2 := (s.l2tlb.map (fun p => (p.1, keep p.2))).filter (fun p => decide (p.2 ≠ []))
  let cores := (s.cores.map (fun p => (p.1, { p.2 with tlb := keep p.2.tlb }))).filter (fun p => decide (p.2 ≠ Core.empty))
  let epochs := (List.range 4).foldl (fun m d => setKey 0 m d (getKey 0 m d + 1)) s.epochs
  { s with l2tlb := l2, cores := cores, epochs := epochs }

/-- What is pending until a change's invalidation completes (R44): the pages that no table maps any longer are freed then. -/
def State.freedBy (s : State) (c : PteChange) : Inval :=
  { req := (s.takeAsk 2).1, before := s.nextId, freed := s.newPages (writeNat s.mem c.entry.pa 8 c.entry.val.toNat) s.mem }

/-- PAGE_TABLE_CHANGE: one change at a time; its end is INVALIDATION_COMPLETE. -/
def execPageTableChange (change : PteChange) (s : State) : Out :=
  if s.inval.isSome ∨ s.ctl.phase ≠ .running then .next s
  else if s.refusesChange change then .next (s.answer 2 0xFF)
  else
    let t := (s.takeAsk 2).2.storeMem change.entry.pa (bytesLE 8 change.entry.val.toNat) false
    .next { t.invalidate s change.form change.ctx with inval := some (s.freedBy change) }

/-- Whether an entry was translated before a change and has still to perform (R44 step 4). -/
def Entry.stale (n : Nat) (e : Entry) : Bool :=
  decide (e.id < n) && (decide (e.stage = .net) ||
  (match e.target with
  | .memory _ => true
  | _ => false))

def execInvalidationComplete (s : State) : Out :=
  match s.inval with
  | none => .next s
  | some i => if s.ctl.phase = .fatalHeld ∨ s.entries.any (Entry.stale i.before) = true then .next s else .next ({ s with inval := none }.answerTo 2 i.req 0)

/-! ### Region handles (R33, R34, R37) -/

/-- The pages of a region from `va` to `stop`, pinned; none where one is not mapped, or lacks W where writes are asked for. -/
def State.pinPages (s : State) (ctx : Nat) (wr : Bool) : Nat → Nat → Nat → Option (List Pin)
  | 0, va, stop => if stop ≤ va then some [] else none
  | fuel + 1, va, stop =>
    if stop ≤ va then some []
    else
      match s.walkVa ctx va with
      | .inr _ => none
      | .inl l =>
        let first := va / 2 ^ l.bits * 2 ^ l.bits
        if wr && !l.w then none
        else (s.pinPages ctx wr fuel (first + 2 ^ l.bits) stop).map
          (fun ps => { va := first, bits := l.bits, pa := l.pa, kind := l.kind, nc := l.nc } :: ps)

/-- Whether a request names a free entry and a region that an entry can hold (R33). -/
def State.handleAsked (s : State) (r : HandleReq) : Bool :=
  decide (1 ≤ r.index ∧ r.index < 4096 ∧ r.base % 64 = 0 ∧ 64 ≤ r.length ∧ r.length % 64 = 0 ∧ r.length < 2 ^ 48 ∧ r.base + r.length ≤ 2 ^ 56) &&
  decide ((s.handle r.ctx r.index).st = .free ∧ (s.ctxDesc r.ctx).state = 1)

/-- HANDLE_CREATE: the region's pages are faulted in, translated and pinned, and then the entry is live. -/
def execHandleCreate (req : HandleReq) (s : State) : Out :=
  if s.ctl.phase ≠ .running then .next s
  else if !s.handleAsked req || !s.ptesGood req.tables then .next (s.answer 2 0xFF)
  else
    let s := s.writePtes req.tables
    match s.pinPages req.ctx req.wr (req.length / 65536 + 2) req.base (req.base + req.length) with
    | none => .next (s.answer 2 0xFF)
    | some pins =>
      let h : HandleEnt := { base := req.base, length := req.length, rd := req.rd, wr := req.wr, st := .live, pins := pins, users := [] }
      .next ((s.setHandle req.ctx req.index h).takeUp.answer 2 0)

/-- The request that a handle's retirement will answer (R37, R228). -/
def State.keepAsk (s : State) (key : Nat) : State :=
  match s.takeAsk 2 with
  | (some m, t) => { t with ctl := { t.ctl with handleAsks := insKey t.ctl.handleAsks key m } }
  | (none, _) => s

/-- HANDLE_DESTROY: a live entry drains. -/
def execHandleDestroy (ctx index : Nat) (s : State) : Out :=
  let h := s.handle ctx index
  if s.ctl.phase ≠ .running then .next s
  else if h.st = .live then .next ((s.setHandle ctx index { h with st := .draining }).keepAsk (ctx * 4096 + index))
  else .next (s.answer 2 0xFF)

/-- HANDLE_FREE: once every command accepted before has retired. -/
def execHandleFree (ctx index : Nat) (s : State) : Out :=
  let h := s.handle ctx index
  let key := ctx * 4096 + index
  if s.ctl.phase ≠ .fatalHeld ∧ h.st = .draining ∧ h.users = [] then
    let t := s.setHandle ctx index HandleEnt.empty
    .next ({ t with ctl := { t.ctl with handleAsks := delKey t.ctl.handleAsks key } }.answerTo 2 (findKey s.ctl.handleAsks key) 0)
  else .next s

/-! ### Context descriptors (R229) -/

def readCtxDesc (b : List Byte) : CtxDesc :=
  { state := recNat b 2 1, tmo := recNat b 4 4, root := recNat b 8 8, traph := recNat b 16 4, saveh := recNat b 20 4, resth := recNat b 24 4,
    crec := recNat b 32 8, htab := recNat b 40 8 }

/-- Whether a descriptor of STATE 1 would be valid (R229, R136). -/
def descriptorValid (b : List Byte) : Bool :=
  let d := readCtxDesc b
  decide (d.state = 1) && decide (d.tmo = 0 ∨ (50 ≤ d.tmo ∧ d.tmo ≤ 1000000)) && decide (d.root % 65536 = 0) && inHbm d.root &&
  !inReserve d.root && decide (d.traph % 4 = 0 ∧ d.saveh % 4 = 0 ∧ d.resth % 4 = 0 ∧ d.saveh ≠ 0 ∧ d.resth ≠ 0) &&
  decide (recNat b 3 1 = 0) && zeroBytes b 28 4 && zeroBytes b 48 80

/-- The state with a context's descriptor written. -/
def State.withDescriptor (s : State) (ctx : Nat) (bytes : List Byte) : State :=
  { s with ctxs := setKey CtxDesc.empty s.ctxs ctx (readCtxDesc bytes) }

/-- Whether a page that a descriptor's tables map for the first time is in a die reservation or has just been freed: ctl2 refuses such a mapping however
it comes about (R72, R44, log 106). -/
def State.mapsBad (s : State) (ctx : Nat) (bytes : List Byte) : Bool :=
  (((s.withDescriptor ctx bytes).pagesIn s.mem).filter (fun p => !(s.pagesIn s.mem).contains p)).any (fun p => pageReserved p || s.pageFreed p)

/-- CONTEXT_DESCRIPTOR_WRITE: a descriptor with STATE 1 that would be invalid is refused; under one of STATE 0 no group of the context issues. -/
def execContextDescriptorWrite (ctx : Nat) (bytes : List Byte) (s : State) : Out :=
  if s.ctl.phase ≠ .running then .next s
  else if 4096 ≤ ctx ∨ recNat bytes 0 2 ≠ ctx ∨ (recNat bytes 2 1 = 1 ∧ (descriptorValid bytes = false ∨ s.mapsBad ctx bytes = true)) then
    .next (s.answer 2 0xFF)
  else .next ((s.withDescriptor ctx bytes).answer 2 0)

end Sys2Proof.Machine
end

