-- ==== Sys2Proof/Machine/EvBoot.lean ====
section
/-! DEFINITION. Boot, attestation and reset (R248 to R251), fatal errors and their dump (R247, R248), soft errors (R79), and the host
cores' accesses (R139, R140). -/

namespace Sys2Proof.Machine

/-! ### Joining the pod (R251) -/

/-- The Timetable at formation: its members, with the fabric's defaults; the core rows of a member as JOIN leaves them (log 48). -/
def Timetable.formed (formation : List Nat) : Timetable :=
  let cores := formation.foldl (fun m p => (List.range 256).foldl (fun m c => insKey m (p * 256 + c) CoreRow.full) m) []
  { Timetable.reset with
    pod := { Timetable.reset.pod with span := defaultSpan formation },
    members := formation.foldl (fun m p => insKey m p { member := true, absent := 0 }) [], cores := cores }

/-- A pod that has formed already has gone on: where its PODTIME stands, its slot, and the rotation of its last CONFIG (R147). -/
def State.podClock (s : State) : State :=
  let t0 := Config.podAge s.free
  let s0 := Config.podAge (s.free + 1)
  let since := Config.podAge (s.free + 2)
  { s with free := s.free + 3, fab := { s.fab with t0 := t0, s0 := s0, podtime := t0 + since, slot := s0 + since / s.fab.params.slotLen } }

/-- A module whose position is in the formation set is a member from round 0 on; any other takes the pod's PODTIME and slot, and rejoins. Nothing while
a dump waits for its acknowledgement (R248). -/
def State.joinPod (s : State) : State :=
  let waits := match s.ctl.dump with
    | some d => d.finished && !d.acknowledged
    | none => false
  if s.ctl.phase ≠ .running ∨ s.duc.role ≠ .off ∨ waits = true then s
  else
    let others := (List.range 1024).filter (fun p => decide (p ≠ s.fab.pos))
    let form := s.duc.formation
    if form.contains s.fab.pos then
      { s with tt := Timetable.formed form, duc := { s.duc with role := .member },
               fab := { s.fab with fenced := others.filter (fun p => !form.contains p) } }.closeRound 0
    else ({ s with fab := { s.fab with fenced := others } }.podClock).rejoin form

/-! ### POWER_ON (R249 to R251) -/

/-- The digest of an image that verifies: copy A's, or else copy B's (R249). -/
def verifyImage (i : BootImage) : Option (BitVec 512) :=
  let a := Config.sha512 i.copyA
  let b := Config.sha512 i.copyB
  if Config.rsaVerify a i.sigA then some a else if Config.rsaVerify b i.sigB then some b else none

/-- A measurement register extended (R250). -/
def extendReg (m : List (Nat × BitVec 512)) (i : Nat) (d : BitVec 512) : List (Nat × BitVec 512) :=
  setKey 0 m i (Config.sha512 (bytesLE 64 (getKey 0 m i).toNat ++ bytesLE 64 d.toNat))

/-- The four images in order: the registers as the verified ones leave them, and whether all verified (R249, R250). -/
def measureAll : List BootImage → Nat → List (Nat × BitVec 512) → List (Nat × BitVec 512) × Bool
  | [], i, m => (m, decide (i = 4))
  | x :: rest, i, m =>
    match verifyImage x with
    | some d => measureAll rest (i + 1) (extendReg m i d)
    | none => (m, false)

/-- What verified firmware finds and sets up (R251): ports, of which ctl6 reports the dark ones, and the far ends that are dark (R142), position, default parameters (R144), queues (R234), and the pod. -/
def State.start (s : State) (b : BootInput) : State :=
  let params : FabParams := { s.fab.params with span := defaultSpan b.formation }
  let fab := { s.fab with pos := b.position, dark := (List.range 64).filter (fun p => !b.lit.contains p), occupied := b.occupied, params := params,
                          farDark := (List.range 64).filter (fun p => Config.farDark (s.fab.slot * 64 + p)) }
  let queues := (b.queues.filter (fun q => decide (q.1 < 256))).foldl (fun m q => setKey SubQueue.empty m q.1 { SubQueue.empty with desc := q.2 }) []
  let s := { s with fab := fab, duc := { s.duc with formation := b.formation }, ctl := { s.ctl with phase := .running, queues := queues, turnStart := s.clock } }
  (fab.dark.foldl State.count s).joinPod

/-- POWER_ON: where both copies of an image fail, the module stays in recovery mode. A pod has 1,024 positions (R4). -/
def execPowerOn (boot : BootInput) (s : State) : Out :=
  if s.ctl.phase ≠ .off ∨ 1024 ≤ boot.position ∨ boot.formation.any (fun p => decide (1024 ≤ p)) = true then .next s
  else
    let (m, good) := measureAll boot.images 0 s.ctl.measure
    let s := { s with ctl := { s.ctl with measure := m } }
    if good then .next (s.start boot) else .next { s with ctl := { s.ctl with phase := .recovery } }

/-- ATTESTATION_REQUEST (R250). -/
def execAttestationRequest (nonce : BitVec 256) (s : State) : Out :=
  if s.ctl.phase ≠ .running then .next s
  else
    let regs := (List.range 16).map (getKey 0 s.ctl.measure)
    .next ({ s with ctl := { s.ctl with attested := some (regs, nonce, Config.deviceSign regs nonce) } }.answer 7 0)

/-! ### Fatal errors and the dump (R247, R248) -/

/-- Sets cut from the oldest end to at most 512 MiB. -/
def cutSets : List (Nat × List Contribution) → List (Nat × List Contribution)
  | [] => []
  | p :: rest =>
    let size := (((p :: rest).flatMap Prod.snd).map (fun c => (Contribution.image c).length)).sum
    if size ≤ 512 * 2 ^ 20 then p :: rest else cutSets rest

/-- The dump of this chip (R248); one that has not been acknowledged stays as it is. -/
def State.dumpOf (s : State) (cause : FatalCause) : Dump :=
  let last := s.duc.lowest - 1
  { cause := cause, round := last, digest := (findKey s.duc.digests last).getD 0, podtime := s.fab.podtime, timetable := s.tt.image,
    sets := cutSets (s.duc.finalSets.filter (fun p => decide (s.duc.lowest ≤ p.1 + 64))), groups := s.groups, blocks := s.blocks,
    frb := s.fab.frb, flowSeq := s.fab.flowSeq, slots := s.cores.map (fun c => (c.1, c.2.slots)), paths := s.fab.bulkOut,
    logs := s.ctl.log, counts := s.ctl.counts, finished := true, acknowledged := false }

/-- How the device lays out the state of its cores, its flows and its logs in the dump, which R248 does not say (log 50). -/
opaque dumpCores : List (Nat × Group) → List (Nat × Block) → List Byte
opaque dumpFlows : List LsMsg → List (Nat × Nat) → List (Nat × List (Nat × ReqSlot)) → List OutMsg → List Byte
opaque dumpLogs : List LogItem → List (Nat × Nat) → List Byte

/-- The cause of a fatal error in the header of a dump, in the order of R247 (log 50). -/
def causeCode : FatalCause → Nat
  | .watchdog core => core * 256
  | .firmware => 1
  | .mailbox => 2
  | .thermal site => 3 + site * 256
  | .dump => 4

/-- The sections of a die's part of the dump: the Timetable, the events, its own cores, the flows and the logs (R248). -/
def Dump.sections (d : Dump) (die : Nat) : List (List Byte) :=
  let mine := fun (k : Nat) => decide (dieOf (coreOf k) = die)
  [if die = 0 then readBytes d.timetable 0 imageSize else [],
   if die = 1 then (d.sets.flatMap (fun x => (sortBy (fun c => [c.origin]) x.2).flatMap Contribution.image)) else [],
   dumpCores (d.groups.filter (fun g => mine g.1)) (d.blocks.filter (fun b => mine b.1)),
   if die = 2 then dumpFlows d.frb d.flowSeq d.slots d.paths else [],
   if die = 3 then dumpLogs d.logs d.counts else []]

/-- Where each section starts, each on a boundary of 1 MiB after the one before; one that the die has not takes no place. -/
def sectionsAt : Nat → List (List Byte) → List (Nat × List Byte)
  | _, [] => []
  | o, b :: rest => (if b = [] then 0 else o, b) :: sectionsAt (o + (b.length + 2 ^ 20 - 1) / 2 ^ 20 * 2 ^ 20) rest

/-- The dump area of a die (R72). -/
def dumpArea (die : Nat) : Nat := die * 0x008000000000 + 0x0058582F0000 + 0x90000000

/-- The header of a die's part but its DONE word, which is its last. -/
def Dump.header (d : Dump) (ps : List (Nat × List Byte)) : List Byte :=
  let h := bytesLE 8 (causeCode d.cause) ++ bytesLE 8 d.round ++ bytesLE 32 d.digest.toNat ++ bytesLE 8 d.podtime ++
    ps.flatMap (fun p => bytesLE 8 p.1 ++ bytesLE 8 p.2.length)
  h ++ bytesLE (4092 - h.length) 0

/-- A die's part of the dump written: the sections, the header, and last DONE (R248). -/
def State.writeDump (d : Dump) (s : State) (die : Nat) : State :=
  let ps := sectionsAt (2 ^ 20) (d.sections die)
  let s := ps.foldl (fun s p => s.storeMem (dumpArea die + p.1) p.2 false) s
  (s.storeMem (dumpArea die) (d.header ps) false).storeMem (dumpArea die + 4092) (bytesLE 4 1) false

/-- A fatal error: the chip is fenced as R214 does, everything stops, the dump is written, and the chip is held in reset. -/
def State.fatal (s : State) (cause : FatalCause) : State :=
  if s.ctl.phase ≠ .running then s
  else
    let kept := match s.ctl.dump with
      | some d => if d.finished && !d.acknowledged then some d else none
      | none => none
    let d := kept.getD (s.dumpOf cause)
    let s := s.stopAll
    let s := if kept.isSome then s else (List.range 4).foldl (State.writeDump d) s
    { s with duc := { s.duc with role := .fencedOff }, ctl := { s.ctl with phase := .fatalHeld, dump := some d } }

/-- WATCHDOG_EXPIRE (R247). -/
def execWatchdogExpire (core : Nat) (s : State) : Out := if core < 8 then .next (s.fatal (.watchdog core)) else .next s

/-- THERMAL_TRIP (R247, R252). -/
def execThermalTrip (site : Nat) (s : State) : Out := .next (s.fatal (.thermal site))

/-- DUMP_COMMAND (R247). -/
def execDumpCommand (s : State) : Out := .next (s.fatal .dump)

/-- FATAL_ERROR (R247): the mailbox to ctl3 is a cause once it has overflowed twice within one round. -/
def execFatalError (cause : FatalCause) (s : State) : Out :=
  if cause = .mailbox ∧ s.ctl.overflows < 2 then .next s else .next (s.fatal cause)

/-- DUMP_ACKNOWLEDGE (R248): a module that has waited for it joins its pod. -/
def execDumpAcknowledge (s : State) : Out :=
  match s.ctl.dump with
  | none => .next s
  | some d => .next { s with ctl := { s.ctl with dump := some { d with acknowledged := true } } }.joinPod

/-- WARM_RESET (R248): memory and the dump stay; the boot ROM runs next (log 50). -/
def execWarmReset (s : State) : Out :=
  if s.ctl.phase = .off then .next s
  else
    let r := State.reset
    .next { r with mem := s.mem, poison := s.poison, free := s.free, nextId := s.nextId, agenda := s.agenda,
                   ctl := { r.ctl with dump := s.ctl.dump } }

/-! ### SOFT_ERROR (R77, R79, R80, R62) -/

/-- A register or a unit of the matrix array with bad bits, until it is read. -/
def State.breakReg (s : State) (k : Nat) (b : BadReg) : State :=
  let g := s.group k
  if !g.resident || g.bad.contains b then s else s.setGroup k { g with bad := g.bad ++ [b] }

/-- Whether an address lies in a part of a die reservation (R72), by its first and last offset there. -/
def inReservePart (pa lo hi : Nat) : Bool :=
  let off := pa % 0x008000000000 - 0x0058582F0000
  inReserve pa && decide (lo ≤ off ∧ off < hi)

/-- An uncorrectable error in memory: firmware memory is fatal, Timetable state fences the chip, and any other sector is poisoned. -/
def State.breakMemory (s : State) (pa : Nat) : State :=
  if inReservePart pa 0x50000000 0x90000000 then s.fatal .firmware
  else if inReservePart pa 0x40000000 0x50000000 && decide (s.duc.role = .member) then s.selfFence
  else if inHbm pa then { s with poison := addSorted s.poison (pa / 32) }
  else s

/-- A TLB entry discarded on its core and its die. -/
def State.breakTlb (s : State) (core ctx va : Nat) : State :=
  let c := s.core core
  let keep := fun (l : List TlbEnt) => l.filter (fun e => !tlbCovers ctx va e)
  let s := s.setCore core { c with tlb := keep c.tlb }
  { s with l2tlb := setKey [] s.l2tlb (dieOf core) (keep (getKey [] s.l2tlb (dieOf core))) }

def execSoftError (err : SoftErr) (s : State) : Out :=
  match err with
  | .corrected site => .next (s.count site)
  | .laneReg k l r => .next (s.breakReg k (.lane l r))
  | .uniformReg k r => .next (s.breakReg k (.uniform r))
  | .maskReg k r => .next (s.breakReg k (.mask r))
  | .accumulator k => .next (s.breakReg k .accumulator)
  | .array k => .next (s.breakReg k .array)
  | .obRead k => .next (s.breakReg k .obRead)
  | .scratchpad b off =>
    let x := s.block b
    if x.resident = true ∧ off < x.scr then .next (s.setBlock b { x with spadBad := addSorted x.spadBad (off / 32) }) else .next s
  | .operandBuffer b h off =>
    let x := s.block b
    (match x.handle h with
    | some r => if off < r.gran * 4096 then .next (s.setBlock b { x with obBad := addSorted x.obBad ((r.base + off) / 32) }) else .next s
    | none => .next s)
  | .l1 c pa => .next ((s.setCore c { s.core c with l1 := l1Drop (s.core c).l1 pa 1 }).count 0x2000)
  | .memory pa => .next (s.breakMemory pa)
  | .bank grid off =>
    (match findKey s.grids grid with
    | some p => if off < 65536 then .next { s with grids := insKey s.grids grid { p with bankBad := addSorted p.bankBad (off / 32) } } else .next s
    | none => .next s)
  | .tlb c ctx va => .next (s.breakTlb c ctx va)
  | .timetable => if s.duc.role = .member then .next s.selfFence else .next s
  | .firmware => .next (s.fatal .firmware)

/-! ### HOST_CORE_ACCESS (R139, R140) -/

/-- What a host core reads: a free value where memory is poisoned. -/
def State.hostRead (s : State) (a : HostAcc) : Nat :=
  if poisoned s.poison a.pa a.size then (Config.poisonedHost s.free).toNat % 2 ^ (8 * a.size) else readNat s.mem a.pa a.size

/-- A write of a host core at its home slice. -/
def State.hostWrite (s : State) (a : HostAcc) (v : Nat) : State := s.storeMem a.pa (bytesLE a.size v) false

/-- The core's answer. -/
def State.hostGets (s : State) (v : Nat) : State :=
  { s with free := s.free + 1, ctl := { s.ctl with hostData := some (BitVec.ofNat 64 v) } }


/-- What an AMO writes, by the value that stood there and its operand (R140). -/
def amoResult (op : HostOp) (n old new : Nat) : Nat :=
  let less := decide (signedOf (8 * n) old ≤ signedOf (8 * n) new)
  match op with
  | .amoAdd => old + new
  | .amoAnd => Nat.land old new
  | .amoOr => Nat.lor old new
  | .amoXor => Nat.xor old new
  | .amoMin => if less then old else new
  | .amoMax => if less then new else old
  | .amoMinu => if old ≤ new then old else new
  | .amoMaxu => if old ≤ new then new else old
  | _ => new

/-- One access, applied as one step: whatever its alignment it is one indivisible access, and the accesses of a core perform in their order, so
that .aq, .rl and the fences ask for nothing more (log 70). How much LR reserves is open: the aligned 8 bytes of its address (log 99). -/
def State.hostDo (s : State) (a : HostAcc) : State :=
  let old := s.hostRead a
  let amo := (s.hostWrite a (amoResult a.op a.size old (a.data.toNat % 2 ^ (8 * a.size)))).hostGets old
  match a.op with
  | .load => s.hostGets old
  | .store => s.hostWrite a a.data.toNat
  | .amoAdd => amo
  | .amoSwap => amo
  | .amoAnd => amo
  | .amoOr => amo
  | .amoXor => amo
  | .amoMin => amo
  | .amoMax => amo
  | .amoMinu => amo
  | .amoMaxu => amo
  | .fence => s
  | .lr => { s with ctl := { s.ctl with hostResv := insKey s.ctl.hostResv a.core (a.pa / 8 * 8) } }.hostGets old
  | .sc =>
    let held := decide (findKey s.ctl.hostResv a.core = some (a.pa / 8 * 8))
    let s := { s with ctl := { s.ctl with hostResv := delKey s.ctl.hostResv a.core } }
    if held then (s.hostWrite a a.data.toNat).hostGets 0 else s.hostGets 1

/-- Whether a host core can make an access: AMO, LR and SC are of 4 or 8 aligned bytes. -/
def hostAsks (a : HostAcc) : Bool :=
  match a.op with
  | .fence => true
  | .load => decide (a.size ∈ [1, 2, 4, 8])
  | .store => decide (a.size ∈ [1, 2, 4, 8])
  | _ => decide (a.size ∈ [4, 8] ∧ a.pa % a.size = 0)

def execHostCoreAccess (a : HostAcc) (s : State) : Out :=
  if s.ctl.phase ≠ .running ∨ 32 ≤ a.core ∨ hostAsks a = false then .next s
  else if a.op = .fence then .next s
  else if inHbm a.pa = false ∨ inHbm (a.pa + a.size - 1) = false then .fault (.outsideHbm a.pa)
  else .next (s.hostDo a)

end Sys2Proof.Machine
end

