-- ==== Sys2Proof/Machine/LaneAtomic.lean ====
section
/-! DEFINITION. Lane atomics and reductions at memory (R369 to R373). -/

namespace Sys2Proof.Machine

/-- A word that takes space, scope and order from its prefix: an atomic (R313, R369). -/
def accAtomic : Accept := { accPlain with space := true, order := 2 }

/-- A reduction at memory (R313, R373). -/
def accReduce : Accept := { accStore with space := true, order := 1 }

/-- The memory word that an atomic's prefix makes (R369): grid global at .chp, relaxed, without one; scope code 0 is
.chp (R313). -/
def prefixWord (s : State) (w opc : Nat) : MemWord :=
  match s.iss.pfx with
  | none => { space := .global, w := w, scope := 3, acq := false, rel := false, opc := opc }
  | some p =>
    { space := spaceOf p.space, w := w, scope := if p.scope = 0 then 3 else p.scope, acq := decide (p.order % 2 = 1),
      rel := decide (2 ≤ p.order), opc := opc }

/-- Whether a base operand may stand for a space (R8, R365). -/
def baseOk (sp : Space) (a : Src) : Bool := !sp.wide || (pairBaseDefect a).isNone

/-- The register that ACAS and ABADD read as their third operand (R369). -/
def limitSrcs (op : AtomOp) (d : Dst) : List Src :=
  match op, d with
  | .badd, .reg r => [.reg r]
  | .cas, .reg r => [.reg r]
  | _, _ => []

/-- A returning atomic (R369, R370): address, operand, then the limit; one entry for each lane of act. -/
def atomicWord (op : AtomOp) (w opc : Nat) (d : Dst) (a b : Src) (s : State) : Out :=
  let m := prefixWord s w opc
  if !baseOk m.space a then illegal s
  else
    let bs := baseSrcs m.space.wide a
    let vs := dataSrcs w b
    let srcs := bs ++ vs ++ limitSrcs op d
    laneGate accAtomic (loadUses d w srcs) (fun act s =>
      if act = [] then .next ((zeroGroup d w [] s).advance)
      else
        let (xs, s') := readSrcs 0 srcs s
        let u := m.use true true
        let as := accessesOf m.space.wide 0 (fun l => (atLane xs l).take bs.length) act
        memGate false u true as (fun _ =>
          let data := fun l => wordsNat (((atLane xs l).drop bs.length).take vs.length)
          let data2 := fun l => wordsNat ((atLane xs l).drop (bs.length + vs.length))
          let s' := placeReads m u d (act.headD 0) (fun _ => .atom op) data data2 as s'
          .next ((zeroGroup d w act s'.endInstr).advance)) s) s

/-- A reduction (R373): no value returns and no lane parks. -/
def reduceWord (op : RedOp) (opc : Nat) (a b : Src) (s : State) : Out :=
  let m := prefixWord s 2 opc
  if !baseOk m.space a then illegal s
  else
    let bs := baseSrcs m.space.wide a
    let srcs := bs ++ [b]
    laneGate accReduce (storeUses srcs) (fun act s =>
      if act = [] then .next s.advance
      else
        let (xs, s') := readSrcs 0 srcs s
        let u := m.use true true
        let as := accessesOf m.space.wide 0 (fun l => (atLane xs l).take bs.length) act
        memGate false u false as (fun _ =>
          let data := fun l => wordsNat ((atLane xs l).drop bs.length)
          .next ((placeStores m u (.red op) [] data as s').endInstr.advance)) s) s

def execAadd (d : Dst) (a b : Src) (s : State) : Out := atomicWord .add 2 0x55 d a b s

def execAincw (d : Dst) (a b : Src) (s : State) : Out := atomicWord .incw 2 0x56 d a b s

def execAdecw (d : Dst) (a b : Src) (s : State) : Out := atomicWord .decw 2 0x57 d a b s

def execAbadd (d : Dst) (a b : Src) (s : State) : Out := atomicWord .badd 2 0x58 d a b s

def execAmin (d : Dst) (a b : Src) (s : State) : Out := atomicWord .min 2 0x59 d a b s

def execAmax (d : Dst) (a b : Src) (s : State) : Out := atomicWord .max 2 0x5A d a b s

def execAnmin (d : Dst) (a b : Src) (s : State) : Out := atomicWord .nmin 2 0x5B d a b s

def execAnmax (d : Dst) (a b : Src) (s : State) : Out := atomicWord .nmax 2 0x5C d a b s

def execAand (d : Dst) (a b : Src) (s : State) : Out := atomicWord .and 2 0x5D d a b s

def execAor (d : Dst) (a b : Src) (s : State) : Out := atomicWord .or 2 0x5E d a b s

def execAxor (d : Dst) (a b : Src) (s : State) : Out := atomicWord .xor 2 0x5F d a b s

def execAxchg (d : Dst) (a b : Src) (s : State) : Out := atomicWord .xchg 2 0x60 d a b s

def execAcas (d : Dst) (a b : Src) (s : State) : Out := atomicWord .cas 2 0x61 d a b s

def execAfadd (d : Dst) (a b : Src) (s : State) : Out := atomicWord .fadd 2 0x62 d a b s

def execAfmax (d : Dst) (a b : Src) (s : State) : Out := atomicWord .fmax 2 0x63 d a b s

/-- AADD64 (R370): 8 bytes, the operand in an even pair. -/
def execAadd64 (d : Dst) (a b : Src) (s : State) : Out := atomicWord .add 3 0x64 d a b s

def execRadd (a b : Src) (s : State) : Out := reduceWord .add 0x65 a b s

def execRfadd (a b : Src) (s : State) : Out := reduceWord .fadd 0x66 a b s

def execRfmax (a b : Src) (s : State) : Out := reduceWord .fmax 0x67 a b s

def execRmax (a b : Src) (s : State) : Out := reduceWord .max 0x68 a b s

def execRmin (a b : Src) (s : State) : Out := reduceWord .min 0x69 a b s

def execRor (a b : Src) (s : State) : Out := reduceWord .or 0x6A a b s

end Sys2Proof.Machine
end

