-- ==== Sys2Proof/Machine/LaneInt.lean ====
section
/-! DEFINITION. Integer, logic, bit-field, move, immediate and compare lane words (R339 to R343). -/

namespace Sys2Proof.Machine

/-! ### The functions (R339 to R341) -/

/-- The signed clamp of R339. -/
def clamp32 (x : Int) : Word := if x < -2 ^ 31 then 0x80000000 else if 2 ^ 31 ≤ x then 0x7FFFFFFF else BitVec.ofInt 32 x

/-- A signed result that wraps, or saturates with SAT (R339). -/
def wrapOrClamp (sat : Bool) (x : Int) : Word := if sat then clamp32 x else BitVec.ofInt 32 x

/-- Bits [63:32] of the signed product (R340). -/
def mulHigh (a b : Word) : Word := BitVec.ofInt 32 (a.toInt * b.toInt / 2 ^ 32)

/-- Bits [63:32] of the unsigned product (R340). -/
def mulHighU (a b : Word) : Word := BitVec.ofNat 32 (a.toNat * b.toNat / 2 ^ 32)

def shl32 (a b : Word) : Word := if 32 ≤ b.toNat then 0 else a <<< b.toNat
def shr32 (a b : Word) : Word := if 32 ≤ b.toNat then 0 else a >>> b.toNat
def sar32 (a b : Word) : Word := a.sshiftRight (if 31 ≤ b.toNat then 31 else b.toNat)
def rol32 (a b : Word) : Word := a.rotateLeft (b.toNat % 32)

/-- The number of ones among the low `n` bits. -/
def onesIn (x : DWord) : Nat → Nat
  | 0 => 0
  | n + 1 => (if x.getLsbD n then 1 else 0) + onesIn x n

/-- The zeros above the highest one among the low `n` bits. -/
def zerosAbove (x : Word) : Nat → Nat
  | 0 => 0
  | n + 1 => if x.getLsbD n then 0 else 1 + zerosAbove x n

def popc32 (a : Word) : Word := BitVec.ofNat 32 (onesIn (a.zeroExtend 64) 32)
def clz32 (a : Word) : Word := BitVec.ofNat 32 (zerosAbove a 32)

/-- Bit i of the result is bit 31 − i (R340). -/
def brev32 (a : Word) : Word := a.reverse

/-- The field length of a control word (R341). -/
def fieldLen (b : Word) : Nat := if 32 < (b >>> 8).toNat % 64 then 32 else (b >>> 8).toNat % 64

/-- Field extract (R341). -/
def bfx32 (a b : Word) : Word :=
  let len := fieldLen b
  let f := (a >>> (b.toNat % 32)).toNat % 2 ^ len
  if b.getLsbD 15 && decide (0 < len) && decide (2 ^ (len - 1) ≤ f) then BitVec.ofInt 32 ((f : Int) - 2 ^ len)
  else BitVec.ofNat 32 f

/-- Field insert (R341). -/
def bfi32 (a b c : Word) : Word :=
  let m := BitVec.ofNat 32 ((2 ^ fieldLen b - 1) * 2 ^ (b.toNat % 32))
  (c &&& ~~~m) ||| ((a <<< (b.toNat % 32)) &&& m)

def absd32 (a b : Word) : Word := BitVec.ofNat 32 (a.toInt - b.toInt).natAbs

/-! ### Prefix fields accepted (R313) -/

/-- A computing word that accepts SAT. -/
def accSat : Accept := { accPlain with sat := true }

/-! ### Register-to-register words (R340) -/

def execIadd (d : Dst) (a b : Src) (s : State) : Out :=
  laneWord accSat 3 d [a, b] (fun s _ => bin (fun x y => wrapOrClamp (pfxSat s) (x.toInt + y.toInt))) s

def execIsub (d : Dst) (a b : Src) (s : State) : Out :=
  laneWord accSat 3 d [a, b] (fun s _ => bin (fun x y => wrapOrClamp (pfxSat s) (x.toInt - y.toInt))) s

def execImul (d : Dst) (a b : Src) (s : State) : Out :=
  laneWord accSat 3 d [a, b] (fun s _ => bin (fun x y => wrapOrClamp (pfxSat s) (x.toInt * y.toInt))) s

def execImulh (d : Dst) (a b : Src) (s : State) : Out := laneWord accPlain 3 d [a, b] (fun _ _ => bin mulHigh) s

def execImulhn (d : Dst) (a b : Src) (s : State) : Out := laneWord accPlain 3 d [a, b] (fun _ _ => bin mulHighU) s

def execImac (d : Dst) (a b : Src) (s : State) : Out :=
  laneWord3 accSat 3 d a b (fun s _ => tern (fun x y z => wrapOrClamp (pfxSat s) (x.toInt * y.toInt + z.toInt))) s

def execImin (d : Dst) (a b : Src) (s : State) : Out :=
  laneWord accPlain 3 d [a, b] (fun _ _ => bin (fun x y => if y.slt x then y else x)) s

def execImax (d : Dst) (a b : Src) (s : State) : Out :=
  laneWord accPlain 3 d [a, b] (fun _ _ => bin (fun x y => if x.slt y then y else x)) s

def execNmin (d : Dst) (a b : Src) (s : State) : Out :=
  laneWord accPlain 3 d [a, b] (fun _ _ => bin (fun x y => if y.ult x then y else x)) s

def execNmax (d : Dst) (a b : Src) (s : State) : Out :=
  laneWord accPlain 3 d [a, b] (fun _ _ => bin (fun x y => if x.ult y then y else x)) s

def execAnd (d : Dst) (a b : Src) (s : State) : Out := laneWord accPlain 3 d [a, b] (fun _ _ => bin (· &&& ·)) s

def execOr (d : Dst) (a b : Src) (s : State) : Out := laneWord accPlain 3 d [a, b] (fun _ _ => bin (· ||| ·)) s

def execXor (d : Dst) (a b : Src) (s : State) : Out := laneWord accPlain 3 d [a, b] (fun _ _ => bin (· ^^^ ·)) s

def execAndn (d : Dst) (a b : Src) (s : State) : Out :=
  laneWord accPlain 3 d [a, b] (fun _ _ => bin (fun x y => x &&& ~~~y)) s

def execShl (d : Dst) (a b : Src) (s : State) : Out := laneWord accPlain 3 d [a, b] (fun _ _ => bin shl32) s

def execShr (d : Dst) (a b : Src) (s : State) : Out := laneWord accPlain 3 d [a, b] (fun _ _ => bin shr32) s

def execSar (d : Dst) (a b : Src) (s : State) : Out := laneWord accPlain 3 d [a, b] (fun _ _ => bin sar32) s

def execRol (d : Dst) (a b : Src) (s : State) : Out := laneWord accPlain 3 d [a, b] (fun _ _ => bin rol32) s

def execPopc (d : Dst) (a : Src) (s : State) : Out := laneWord accPlain 3 d [a] (fun _ _ => un popc32) s

def execClz (d : Dst) (a : Src) (s : State) : Out := laneWord accPlain 3 d [a] (fun _ _ => un clz32) s

def execBrev (d : Dst) (a : Src) (s : State) : Out := laneWord accPlain 3 d [a] (fun _ _ => un brev32) s

def execBfx (d : Dst) (a b : Src) (s : State) : Out := laneWord accPlain 3 d [a, b] (fun _ _ => bin bfx32) s

def execBfi (d : Dst) (a b : Src) (s : State) : Out := laneWord3 accPlain 3 d a b (fun _ _ => tern bfi32) s

def execAbsd (d : Dst) (a b : Src) (s : State) : Out := laneWord accPlain 3 d [a, b] (fun _ _ => bin absd32) s

def execSel (d : Dst) (a b : Src) (s : State) : Out :=
  laneWord3 accPlain 3 d a b (fun _ _ => tern (fun x y z => if z ≠ 0 then x else y)) s

def execMov (d : Dst) (a : Src) (s : State) : Out := laneWord accPlain 3 d [a] (fun _ _ => un id) s

/-! ### Immediates (R342) -/

def execIaddi (d : Dst) (a : Src) (imm : BitVec 8) (s : State) : Out :=
  laneWord accSat 3 d [a] (fun s _ => un (fun x => wrapOrClamp (pfxSat s) (x.toInt + imm.toInt))) s

def execAndi (d : Dst) (a : Src) (imm : BitVec 8) (s : State) : Out :=
  laneWord accPlain 3 d [a] (fun _ _ => un (fun x => x &&& imm.zeroExtend 32)) s

def execOri (d : Dst) (a : Src) (imm : BitVec 8) (s : State) : Out :=
  laneWord accPlain 3 d [a] (fun _ _ => un (fun x => x ||| imm.zeroExtend 32)) s

def execXori (d : Dst) (a : Src) (imm : BitVec 8) (s : State) : Out :=
  laneWord accPlain 3 d [a] (fun _ _ => un (fun x => x ^^^ imm.zeroExtend 32)) s

def execShli (d : Dst) (a : Src) (n : Nat) (s : State) : Out :=
  laneWord accPlain 3 d [a] (fun _ _ => un (fun x => shl32 x (BitVec.ofNat 32 n))) s

def execShri (d : Dst) (a : Src) (n : Nat) (s : State) : Out :=
  laneWord accPlain 3 d [a] (fun _ _ => un (fun x => shr32 x (BitVec.ofNat 32 n))) s

def execSari (d : Dst) (a : Src) (n : Nat) (s : State) : Out :=
  laneWord accPlain 3 d [a] (fun _ _ => un (fun x => sar32 x (BitVec.ofNat 32 n))) s

def execImuli (d : Dst) (a : Src) (imm : BitVec 8) (s : State) : Out :=
  laneWord accSat 3 d [a] (fun s _ => un (fun x => wrapOrClamp (pfxSat s) (x.toInt * imm.toInt))) s

def execMovi (d : Dst) (imm : BitVec 16) (s : State) : Out :=
  laneWord accPlain 3 d [] (fun _ _ _ => imm.signExtend 32) s

/-- MOVHI reads vd (R342); a channel there is refused by the decoder. -/
def execMovhi (d : Dst) (imm : BitVec 16) (s : State) : Out :=
  match d with
  | .reg n => laneWord accPlain 3 d [.reg n] (fun _ _ => un (fun x => (imm.zeroExtend 32 <<< 16) ||| (x &&& 0xFFFF))) s
  | .push _ => illegal s

/-! ### Compares (R343) -/

/-- What a compare reads and writes. -/
def compareUses (a b : Src) (act : List Nat) : Uses :=
  { readV := srcRegs a act ++ srcRegs b act, writeV := [], readM := [], readS := [], writeS := [],
    chans := srcUse a ++ srcUse b }

/-- Mask bits written in each lane of a list. -/
def putBits (clock lat r : Nat) (f : Nat → Bool) : List Nat → Group → Group
  | [], g => g
  | l :: rest, g => putBits clock lat r f rest (g.putMBit clock lat r l (f l))

/-- An error that waited in a mask is gone once every bit of it is written (R79). -/
def Group.cleanMask (g : Group) (r n : Nat) : Group :=
  if n = laneCount then { g with bad := g.bad.filter (fun x => decide (x ≠ BadReg.mask r)) } else g

/-- The bits that a zeroing guard clears (R343): not results of a producer's act, so there at once. -/
def clearBits (r : Nat) (lanes : List Nat) (g : Group) : Group :=
  { g.setMreg r (getKey 0 g.m r &&& ~~~(maskOf lanes)) with
    hazards := g.hazards.filter (fun h => !(decide (h.isMask = true ∧ h.reg = r) && lanes.contains h.lane)) }

/-- The common frame of the compares (R343). -/
def compareWord (md : Nat) (a b : Src) (cond : Word → Word → Bool) (s : State) : Out :=
  laneGate accPlain (compareUses a b) (fun act s =>
    if act = [] then .next ((s.setGroup s.iss.group (clearBits md (zeroLanes s act) s.issuing)).advance)
    else
      let (xs, s') := readSrcs 0 [a, b] s
      let f := fun l => match xs with
        | x :: y :: _ => cond (x l) (y l)
        | _ => false
      let g := putBits s'.clock 3 md f act (clearBits md (zeroLanes s act) s'.issuing)
      .next ((s'.setGroup s'.iss.group (g.cleanMask md (act ++ zeroLanes s act).length)).advance)) s

def execIcmp (md cond : Nat) (a b : Src) (s : State) : Out := compareWord md a b (condSigned cond) s

def execNcmp (md cond : Nat) (a b : Src) (s : State) : Out := compareWord md a b (condUnsigned cond) s

def execFcmp (md cond : Nat) (a b : Src) (s : State) : Out := compareWord md a b (condFloat cond) s

end Sys2Proof.Machine
end

