-- ==== Sys2Proof/Machine/LaneFp.lean ====
section
/-! DEFINITION. FP32, packed half, conversions and special functions (R344 to R352), and the fused softmax sequence
(R360, R361). -/

namespace Sys2Proof.Machine

/-! ### Rounding words -/

/-- What a rounding lane word takes from its prefix and from MODE (R260, R265): the mode, SAT, and the coin of the
lane's n-th element. -/
structure RCtx where
  mode : Nat
  sat : Bool
  coin : Nat → Nat

/-- The rounding mode of the word being issued: DYN takes MODE.RM (R260). -/
def roundMode (s : State) : Nat :=
  match s.iss.pfx with
  | none => 0
  | some p => if p.rnd = 5 then s.issuing.mode.toNat % 8 else p.rnd

/-- The rounding context of a lane (R265). -/
def rctx (s : State) (l : Nat) : RCtx :=
  { mode := roundMode s, sat := pfxSat s,
    coin := fun n => srCoin s.issuing.mode s.iss.pc l ((s.issuing.lane l).sr + BitVec.ofNat 32 n) }

/-- The SR counts after a word that produced `n` elements in each lane of act (R265). -/
def Group.bumpSr (g : Group) (mode n : Nat) (act : List Nat) : Group :=
  if mode = 4 then g.mapLanes (fun _ x => { x with sr := x.sr + BitVec.ofNat 32 n }) act else g

/-- A word that accepts rounding and SAT (R313). -/
def accRound : Accept := { accPlain with rnd := true, sat := true }

/-- The common frame of the rounding words: R337 with the lane's rounding context, and `n` elements a lane. With a channel as the destination, every lane of
act has produced its elements and counts them, though only the lowest lane's are pushed (log 110). -/
def roundWord (acc : Accept) (n : Nat) (d : Dst) (srcs : List Src) (f : RCtx → List Word → Word) (s : State) : Out :=
  laneGate acc (laneUses d srcs) (fun act s =>
    if act = [] then .next ((putDst 5 d [] (fun _ => 0) s).advance)
    else
      let (xs, s') := readSrcs 0 srcs s
      let s' := putDst 5 d act (fun l => f (rctx s l) (xs.map (fun x => x l))) s'
      .next ((s'.setGroup s'.iss.group (s'.issuing.bumpSr (roundMode s) n act)).advance)) s

/-- A three-source rounding word (R311). -/
def roundWord3 (n : Nat) (d : Dst) (a b : Src) (f : RCtx → List Word → Word) (s : State) : Out :=
  match thirdSrc s d with
  | none => illegal s
  | some c => roundWord { accRound with vc := true } n d [a, b, c] f s

/-! ### FP32 (R344 to R347) -/

/-- An exact f32 result rounded in the lane's context. -/
def RCtx.f32 (c : RCtx) (x : FVal) : Word := BitVec.ofNat 32 (layF32.round c.mode c.sat (c.coin 0) x)

/-- Whether a zero sum of opposite signs is −0 (R268). -/
def RCtx.down (c : RCtx) : Bool := c.mode = 2

def execFadd (d : Dst) (a b : Src) (s : State) : Out :=
  roundWord accRound 1 d [a, b] (fun c => bin (fun x y => c.f32 (fAdd c.down (fv x) (fv y)))) s

def execFsub (d : Dst) (a b : Src) (s : State) : Out :=
  roundWord accRound 1 d [a, b] (fun c => bin (fun x y => c.f32 (fAdd c.down (fv x) (fNegate (fv y))))) s

def execFmul (d : Dst) (a b : Src) (s : State) : Out :=
  roundWord accRound 1 d [a, b] (fun c => bin (fun x y => c.f32 (fMul (fv x) (fv y)))) s

def execFfma (d : Dst) (a b : Src) (s : State) : Out :=
  roundWord3 1 d a b (fun c => tern (fun x y z => c.f32 (fAdd c.down (fMul (fv x) (fv y)) (fv z)))) s

def execFmin (d : Dst) (a b : Src) (s : State) : Out := laneWord accPlain 5 d [a, b] (fun _ _ => bin fmin32) s

def execFmax (d : Dst) (a b : Src) (s : State) : Out := laneWord accPlain 5 d [a, b] (fun _ _ => bin fmax32) s

def execFabs (d : Dst) (a : Src) (s : State) : Out :=
  laneWord accPlain 5 d [a] (fun _ _ => un (fun x => if isNan32 x then nan32 else x &&& 0x7FFFFFFF)) s

def execFneg (d : Dst) (a : Src) (s : State) : Out :=
  laneWord accPlain 5 d [a] (fun _ _ => un (fun x => if isNan32 x then nan32 else x ^^^ 0x80000000)) s

def execFclass (d : Dst) (a : Src) (s : State) : Out := laneWord accPlain 5 d [a] (fun _ _ => un fclass32) s

/-! ### Packed half (R348) -/

/-- Element i of a register of 16-bit elements, as a value. -/
def halfOf (l : Layout) (x : Word) (i : Nat) : FVal := l.value (x.toNat / 2 ^ (16 * i) % 2 ^ 16)

/-- Two elements, each rounded in its own right, element 0 first (R348). -/
def packHalves (l : Layout) (c : RCtx) (f : Nat → FVal) : Word :=
  BitVec.ofNat 32 (l.round c.mode c.sat (c.coin 0) (f 0) + l.round c.mode c.sat (c.coin 1) (f 1) * 2 ^ 16)

def halfAdd (l : Layout) (c : RCtx) (x y : Word) : Word := packHalves l c (fun i => fAdd c.down (halfOf l x i) (halfOf l y i))

def halfMul (l : Layout) (c : RCtx) (x y : Word) : Word := packHalves l c (fun i => fMul (halfOf l x i) (halfOf l y i))

def halfFma (l : Layout) (c : RCtx) (x y z : Word) : Word :=
  packHalves l c (fun i => fAdd c.down (fMul (halfOf l x i) (halfOf l y i)) (halfOf l z i))

def execHadd2 (d : Dst) (a b : Src) (s : State) : Out := roundWord accRound 2 d [a, b] (fun c => bin (halfAdd layF16 c)) s

def execHmul2 (d : Dst) (a b : Src) (s : State) : Out := roundWord accRound 2 d [a, b] (fun c => bin (halfMul layF16 c)) s

def execHfma2 (d : Dst) (a b : Src) (s : State) : Out := roundWord3 2 d a b (fun c => tern (halfFma layF16 c)) s

def execBadd2 (d : Dst) (a b : Src) (s : State) : Out := roundWord accRound 2 d [a, b] (fun c => bin (halfAdd layBf16 c)) s

def execBmul2 (d : Dst) (a b : Src) (s : State) : Out := roundWord accRound 2 d [a, b] (fun c => bin (halfMul layBf16 c)) s

def execBfma2 (d : Dst) (a b : Src) (s : State) : Out := roundWord3 2 d a b (fun c => tern (halfFma layBf16 c)) s

/-! ### Conversions (R349 to R351) -/

def execCvt (d : Dst) (a : Src) (dstFmt srcFmt : Nat) (s : State) : Out :=
  roundWord accRound 1 d [a] (fun c => un (fun x =>
    fillReg dstFmt (roundTo dstFmt c.mode c.sat (c.coin 0) (valueOf srcFmt x.toNat)))) s

/-- Elements packed from the lowest up, each `w` bits. -/
def packElems (w : Nat) : List Nat → Nat
  | [] => 0
  | x :: rest => x % 2 ^ w + 2 ^ w * packElems w rest

/-- CVTPK's result: the elements of a register group converted in ascending order (R350). -/
def cvtpk (dst src : Nat) (c : RCtx) (xs : List Word) : Word :=
  BitVec.ofNat 32 (packElems (fmtBits dst)
    (xs.zipIdx.map (fun p => roundTo dst c.mode c.sat (c.coin p.2) (valueOf src p.1.toNat))))

/-- A register group as sources. -/
def groupSrcs (r n : Nat) : List Src := (List.range n).map (fun i => .reg (r + i))

def execCvtpk (d : Dst) (a : Src) (dstFmt srcFmt : Nat) (s : State) : Out :=
  match a with
  | .reg r =>
    let n := 32 / fmtBits dstFmt
    roundWord accRound n d (groupSrcs r n) (cvtpk dstFmt srcFmt) s
  | .ch _ _ => illegal s

/-- The largest finite value of a CVTN destination (R351). -/
def cvtnMax (f : Nat) : Nat := if f = 3 then 448 else if f = 4 then 57344 else 6

/-- The smallest e from −127 on with m × 2^x ≤ M × 2^e (R351), searching upwards. -/
def scaleExp (big m : Nat) (x : Int) : Nat → Int → Int
  | 0, e => e
  | fuel + 1, e =>
    let lo := if x ≤ e then x else e
    if alignTo m x lo ≤ alignTo big e lo then e else scaleExp big m x fuel (e + 1)

/-- The larger magnitude of two values that are not NaN. -/
def absMax : FVal → FVal → FVal
  | .inf _, _ => .inf false
  | _, .inf _ => .inf false
  | .num _ m e, .num _ n f => if fLt (.num false m e) (.num false n f) then .num false n f else .num false m e
  | x, _ => x

/-- The shared block exponent of R351 and R166 for magnitudes up to `amax`. -/
def blockExp (f : Nat) (amax : FVal) : Int :=
  match amax with
  | .inf _ => 127
  | .num _ m e => if m = 0 then 0 else scaleExp (cvtnMax f) m e 255 (-127)
  | .nan => 0

/-- One element under a block exponent (R351). -/
def blockElem (f mode : Nat) (sat : Bool) (u : Nat) (se : Int) : FVal → Nat
  | .inf neg => roundTo f 0 true 0 (.num neg (cvtnMax f) 0)
  | .num neg m e => roundTo f mode sat u (.num neg m (e - se))
  | .nan => 0

/-- CVTN's two registers for sources x0 to x3 and the block bound (R351). -/
def cvtn (f : Nat) (c : RCtx) (xs : List Word) (bound : Word) : Word × Word :=
  let vs := xs.map fv
  if vs.any fIsNan || isNan32 bound then (0, 0xFF)
  else
    let se := blockExp f (vs.foldl absMax (absMax (fv bound) (fv bound)))
    (BitVec.ofNat 32 (packElems (fmtBits f) (vs.zipIdx.map (fun p => blockElem f c.mode c.sat (c.coin p.2) se p.1))),
      BitVec.ofInt 32 (se + 127))

def execCvtn (d : Dst) (a : Src) (dstFmt srcFmt : Nat) (s : State) : Out :=
  match d, a, thirdSrc s d with
  | .reg r, .reg n, some bound =>
    if srcFmt ≠ 0 then illegal s
    else
      let srcs := groupSrcs n 4 ++ [bound]
      laneGate { accRound with vc := true } (fun act =>
          { laneUses d srcs act with writeV := act.flatMap (fun l => [(r, l), (r + 1, l)]) }) (fun act s =>
        if act = [] then .next ((putDst 5 (.reg (r + 1)) [] (fun _ => 0) (putDst 5 d [] (fun _ => 0) s)).advance)
        else
          let (xs, s') := readSrcs 0 srcs s
          let res := fun l => cvtn dstFmt (rctx s l) ((xs.map (fun x => x l)).take 4) ((xs.map (fun x => x l)).getD 4 0)
          let s' := putDst 5 d act (fun l => (res l).1) s'
          let s' := putDst 5 (.reg (r + 1)) act (fun l => (res l).2) s'
          .next ((s'.setGroup s'.iss.group (s'.issuing.bumpSr (roundMode s) 4 act)).advance)) s
  | _, _, _ => illegal s

/-! ### Special functions (R352) -/

def execExp2 (d : Dst) (a : Src) (s : State) : Out := laneWord accPlain 0 d [a] (fun _ _ => un (sfu 0)) s

def execLog2 (d : Dst) (a : Src) (s : State) : Out := laneWord accPlain 0 d [a] (fun _ _ => un (sfu 1)) s

def execRcp (d : Dst) (a : Src) (s : State) : Out := laneWord accPlain 0 d [a] (fun _ _ => un (sfu 2)) s

def execRsq (d : Dst) (a : Src) (s : State) : Out := laneWord accPlain 0 d [a] (fun _ _ => un (sfu 3)) s

def execSqrt (d : Dst) (a : Src) (s : State) : Out := laneWord accPlain 0 d [a] (fun _ _ => un (sfu 4)) s

def execSin (d : Dst) (a : Src) (s : State) : Out := laneWord accPlain 0 d [a] (fun _ _ => un (sfu 5)) s

def execCos (d : Dst) (a : Src) (s : State) : Out := laneWord accPlain 0 d [a] (fun _ _ => un (sfu 6)) s

def execTanh (d : Dst) (a : Src) (s : State) : Out := laneWord accPlain 0 d [a] (fun _ _ => un (sfu 7)) s

/-! ### The fused sequence (R360, R361) -/

/-- One lane's registers through the four words, with each wait met: FMAX d1, FSUB d2, EXP2 d3, FADD d4 (R361). -/
def fusedLane (d1 a1 b1 d2 a2 d3 d4 a4 b4 : Nat) (read : Nat → Word) : List (Nat × Word) :=
  let rd := fun (w : List (Nat × Word)) r => (w.reverse.lookup r).getD (read r)
  let w := [(d1, fmax32 (read a1) (read b1))]
  let w := w ++ [(d2, rne32 (fAdd false (fv (rd w a2)) (fNegate (fv (rd w d1)))))]
  let w := w ++ [(d3, sfu 0 (rd w d2))]
  w ++ [(d4, fadd32 (rd w a4) (rd w b4))]

/-- The sources that the fused sequence reads from outside itself (R360). -/
def fusedReads (d1 a1 b1 d2 a2 d3 a4 b4 : Nat) : List Nat :=
  [a1, b1] ++ (if a2 = d1 then [] else [a2]) ++ ([a4, b4].filter (fun r => r != d1 && r != d2 && r != d3))

/-- The fused sequence: its results are held by the scoreboard and written together, and the PCs advance by 16 (R361). Its four words stand
for four cycles, since any word stands for one at least (R325). -/
def execFusedSoftmax (d1 a1 b1 d2 a2 d3 d4 a4 b4 : Nat) (s : State) : Out :=
  let at1 := fun (act rs : List Nat) => act.flatMap (fun l => rs.map (fun r => (r, l)))
  let uses := fun (act : List Nat) =>
    { noUses with readV := at1 act (fusedReads d1 a1 b1 d2 a2 d3 a4 b4), writeV := at1 act [d1, d2, d3, d4] }
  laneGate accPlain uses (fun act s =>
    let g := act.foldl (fun g l =>
      (fusedLane d1 a1 b1 d2 a2 d3 d4 a4 b4 (fun r => s.issuing.vreg r l)).foldl (fun g p => g.putV s.clock 0 p.1 l p.2) g)
      s.issuing
    let t := (s.setGroup s.iss.group g).moveSel (s.iss.pc + 16)
    .next (t.setGroup t.iss.group { t.issuing with dlyUntil := max t.issuing.dlyUntil (s.clock + 4) })) s

end Sys2Proof.Machine
end

