-- ==== Sys2Proof/Machine/LaneCross.lean ====
section
/-! DEFINITION. Cross-lane words: shuffles, ballot, reductions, scans and lane status (R353 to R359). -/

namespace Sys2Proof.Machine

/-! ### Shuffles (R354) -/

/-- The registers of other lanes that a shuffle reads: only those of its source lanes (R353). -/
def shuffleReads (s : State) (a : Src) (act : List Nat) (index : Nat → Int) : List (Nat × Nat) :=
  match a with
  | .ch _ _ => []
  | .reg r => act.filterMap (fun l =>
      let j := index l
      if j < 0 ∨ (laneCount : Int) ≤ j then some (r, l)
      else if s.issuing.live j.toNat then some (r, j.toNat) else none)

/-- The value that a shuffle writes to a lane (R354). -/
def shuffleVal (s : State) (av : Nat → Word) (l : Nat) (j : Int) : Word :=
  if j < 0 ∨ (laneCount : Int) ≤ j then av l else if s.issuing.live j.toNat then av j.toNat else 0

/-- What a shuffle reads; its index sources are read as its body will read them. -/
def shuffleUses (d : Dst) (a : Src) (bs : List Src) (index : (Nat → List Word) → Nat → Int) (s : State) (act : List Nat) : Uses :=
  let s := { s with free := s.free + 1 }
  let u := laneUses d (a :: bs) act
  let (xs, _) := readSrcs 0 (a :: bs) s
  let ix := index (fun l => (xs.drop 1).map (fun x => x l))
  if chanReady s.issuing s.issuingBlock [] u.chans then
    { u with readV := bs.flatMap (fun b => srcRegs b act) ++ shuffleReads s a act ix }
  else { u with readV := bs.flatMap (fun b => srcRegs b act) }

/-- The common frame of the shuffles (R354). -/
def shuffle (d : Dst) (a : Src) (bs : List Src) (index : (Nat → List Word) → Nat → Int) (s : State) : Out :=
  laneGate accPlain (shuffleUses d a bs index s) (fun act s =>
    if act = [] then .next ((putDst 0 d [] (fun _ => 0) s).advance)
    else
      let (xs, s') := readSrcs 0 (a :: bs) s
      let ix := index (fun l => (xs.drop 1).map (fun x => x l))
      let av := xs.headD (fun _ => 0)
      .next ((putDst 0 d act (fun l => shuffleVal s av l (ix l)) s').advance)) s

/-- The operand b of a shuffle, read as n32. -/
def idxB (bs : Nat → List Word) (l : Nat) : Nat := ((bs l).headD 0).toNat

def execShflx (d : Dst) (a b : Src) (s : State) : Out :=
  shuffle d a [b] (fun bs l => ((l ^^^ idxB bs l : Nat) : Int)) s

def execShflu (d : Dst) (a b : Src) (s : State) : Out :=
  shuffle d a [b] (fun bs l => (l : Int) - idxB bs l) s

def execShfld (d : Dst) (a b : Src) (s : State) : Out :=
  shuffle d a [b] (fun bs l => ((l + idxB bs l : Nat) : Int)) s

def execShfli (d : Dst) (a : Src) (lane : Nat) (s : State) : Out := shuffle d a [] (fun _ _ => (lane : Int)) s

def execShflw (d : Dst) (a : Src) (k : Nat) (s : State) : Out :=
  shuffle d a [] (fun _ l => ((l ^^^ (laneCount / 2 ^ k) : Nat) : Int)) s

/-! ### Words over the lanes of act (R355 to R357) -/

/-- The frame of the words that read A in every lane of act and combine it: the result of lane l from the values of all
sources by lane. -/
def collective (acc : Accept) (extra : State → List (Nat × Nat)) (d : Dst) (srcs : List Src)
    (f : State → List Nat → (Nat → List Word) → Nat → Word) (s : State) : Out :=
  laneGate acc (fun act => { laneUses d srcs act with readM := extra s }) (fun act s =>
    if act = [] then .next ((putDst 0 d [] (fun _ => 0) s).advance)
    else
      let (xs, s') := readSrcs 0 srcs s
      .next ((putDst 0 d act (f s act (fun l => xs.map (fun x => x l))) s').advance)) s

/-- The ballot over act (R355). -/
def ballot (act : List Nat) (v : Nat → List Word) : DWord := maskOf (act.filter (fun j => (v j).headD 0 ≠ 0))

def execVoteb (d : Dst) (a b : Src) (s : State) : Out :=
  collective accPlain (fun _ => []) d [a, b]
    (fun _ act v l => (ballot act v >>> (32 * (((v l).getD 1 0).toNat % 4))).truncate 32) s

/-- The operator of LRED and SCAN (R356). -/
def redOp (op : Nat) (x y : Word) : Word :=
  match op with
  | 0 => x + y
  | 1 => if y.slt x then y else x
  | 2 => if x.slt y then y else x
  | 3 => if y.ult x then y else x
  | 4 => if x.ult y then y else x
  | 5 => fadd32 x y
  | 6 => fmax32 x y
  | _ => fmin32 x y

/-- Its identity (R356). -/
def redIdentity (op : Nat) : Word :=
  match op with
  | 0 => 0
  | 1 => 0x7FFFFFFF
  | 2 => 0x80000000
  | 3 => 0xFFFFFFFF
  | 4 => 0
  | 5 => 0x80000000
  | 6 => 0xFF800000
  | _ => 0x7F800000

/-- One level of the tree (R356): every lane combines the two lanes that differ in bit t. -/
def treeLevel (op t : Nat) (v : List Word) : List Word :=
  (List.range laneCount).map (fun l =>
    let lo := if l / 2 ^ t % 2 = 1 then l - 2 ^ t else l
    redOp op (v.getD lo 0) (v.getD (lo + 2 ^ t) 0))

/-- The levels from t on, `n` of them. -/
def treeLevels (op : Nat) : Nat → Nat → List Word → List Word
  | 0, _, v => v
  | n + 1, t, v => treeLevels op n (t + 1) (treeLevel op t v)

/-- The number of levels for a segment code: 64 lanes for s = 0, and a segment of 128 takes in identities (R356). -/
def segLevels (seg : Nat) : Nat := if seg = 0 then 6 else seg

/-- LRED's values (R356); a seventh level combines with the identities of lanes beyond WIDTH. -/
def lredVals (op seg : Nat) (v : List Word) : List Word :=
  let w := treeLevels op (if 6 < segLevels seg then 6 else segLevels seg) 0 v
  if segLevels seg = 7 then
    let ids := treeLevels op 6 0 (List.replicate laneCount (redIdentity op))
    (List.range laneCount).map (fun l => redOp op (w.getD l 0) (ids.getD l 0))
  else w

/-- LRED (R356): a lane outside act, an exited one included, gives the identity (log 76). -/
def execLred (d : Dst) (a : Src) (seg op : Nat) (s : State) : Out :=
  collective accPlain (fun _ => []) d [a] (fun _ act v =>
    let vals := lredVals op seg ((List.range laneCount).map (fun l => if act.contains l then (v l).headD 0 else redIdentity op))
    fun l => vals.getD l 0) s

/-- SCAN over the lanes from l on, with the accumulator reached (R357). -/
def scanFrom (op : Nat) (ex : Bool) (heads : DWord) (x : Nat → Word) : List Nat → Word → List (Nat × Word)
  | [], _ => []
  | l :: rest, acc =>
    let acc := if heads.getLsbD l then redIdentity op else acc
    let acc' := redOp op acc (x l)
    (l, if ex then acc else acc') :: scanFrom op ex heads x rest acc'

/-- SCAN (R357): a lane outside act, an exited one included, gives the identity (log 76). -/
def execScan (d : Dst) (a : Src) (head : Nat) (ex : Bool) (op : Nat) (s : State) : Out :=
  collective accPlain (fun _ => if head = 0 then [] else (List.range laneCount).map (fun l => (head, l))) d [a]
    (fun s act v =>
      let heads := if head = 0 then 0 else readM s s.issuing 14 head
      let out := scanFrom op ex heads (fun l => if act.contains l then (v l).headD 0 else redIdentity op)
        (List.range laneCount) (redIdentity op)
      fun l => (out.lookup l).getD 0) s

/-! ### Lane status (R358) -/

def execLsrLaneid (d : Dst) (s : State) : Out := collective accPlain (fun _ => []) d [] (fun _ _ _ l => BitVec.ofNat 32 l) s

/-- LPC reports the PCs as they stand at issue (R358). -/
def execLsrLpc (d : Dst) (a : Src) (s : State) : Out :=
  collective accPlain (fun _ => []) d [a] (fun s _ v l =>
    let j := ((v l).headD 0).toNat
    if laneCount ≤ j ∨ s.issuing.live j = false then 0xFFFFFFFF else (s.issuing.lane j).pc) s

def execLsrSlice (d : Dst) (s : State) : Out :=
  collective accPlain (fun _ => []) d [] (fun _ _ _ l => BitVec.ofNat 32 (l / 16)) s

def execLsrLive (d : Dst) (a : Src) (s : State) : Out :=
  collective accPlain (fun _ => []) d [a] (fun s _ v l =>
    (maskOf s.issuing.liveLanes >>> (32 * (((v l).headD 0).toNat % 4))).truncate 32) s

end Sys2Proof.Machine
end

