-- ==== Sys2Proof/Machine/Dispatch.lean ====
section
/-! DEFINITION. The one dispatch: an arm per constructor of `Instr`, each a direct call of its meaning. -/

namespace Sys2Proof.Machine

def exec (i : Instr) (s : State) : Host.Outcome State Fault Refusal :=
  match i with
  | .pfx p => Sys2Proof.Machine.execPfx p s
  | .iadd d a b => Sys2Proof.Machine.execIadd d a b s
  | .isub d a b => Sys2Proof.Machine.execIsub d a b s
  | .imul d a b => Sys2Proof.Machine.execImul d a b s
  | .imulh d a b => Sys2Proof.Machine.execImulh d a b s
  | .imulhn d a b => Sys2Proof.Machine.execImulhn d a b s
  | .imac d a b => Sys2Proof.Machine.execImac d a b s
  | .imin d a b => Sys2Proof.Machine.execImin d a b s
  | .imax d a b => Sys2Proof.Machine.execImax d a b s
  | .nmin d a b => Sys2Proof.Machine.execNmin d a b s
  | .nmax d a b => Sys2Proof.Machine.execNmax d a b s
  | .and d a b => Sys2Proof.Machine.execAnd d a b s
  | .or d a b => Sys2Proof.Machine.execOr d a b s
  | .xor d a b => Sys2Proof.Machine.execXor d a b s
  | .andn d a b => Sys2Proof.Machine.execAndn d a b s
  | .shl d a b => Sys2Proof.Machine.execShl d a b s
  | .shr d a b => Sys2Proof.Machine.execShr d a b s
  | .sar d a b => Sys2Proof.Machine.execSar d a b s
  | .rol d a b => Sys2Proof.Machine.execRol d a b s
  | .popc d a => Sys2Proof.Machine.execPopc d a s
  | .clz d a => Sys2Proof.Machine.execClz d a s
  | .brev d a => Sys2Proof.Machine.execBrev d a s
  | .bfx d a b => Sys2Proof.Machine.execBfx d a b s
  | .bfi d a b => Sys2Proof.Machine.execBfi d a b s
  | .absd d a b => Sys2Proof.Machine.execAbsd d a b s
  | .sel d a b => Sys2Proof.Machine.execSel d a b s
  | .mov d a => Sys2Proof.Machine.execMov d a s
  | .iaddi d a imm => Sys2Proof.Machine.execIaddi d a imm s
  | .andi d a imm => Sys2Proof.Machine.execAndi d a imm s
  | .ori d a imm => Sys2Proof.Machine.execOri d a imm s
  | .xori d a imm => Sys2Proof.Machine.execXori d a imm s
  | .shli d a n => Sys2Proof.Machine.execShli d a n s
  | .shri d a n => Sys2Proof.Machine.execShri d a n s
  | .sari d a n => Sys2Proof.Machine.execSari d a n s
  | .imuli d a imm => Sys2Proof.Machine.execImuli d a imm s
  | .movi d imm => Sys2Proof.Machine.execMovi d imm s
  | .movhi d imm => Sys2Proof.Machine.execMovhi d imm s
  | .icmp md cond a b => Sys2Proof.Machine.execIcmp md cond a b s
  | .ncmp md cond a b => Sys2Proof.Machine.execNcmp md cond a b s
  | .fcmp md cond a b => Sys2Proof.Machine.execFcmp md cond a b s
  | .fadd d a b => Sys2Proof.Machine.execFadd d a b s
  | .fsub d a b => Sys2Proof.Machine.execFsub d a b s
  | .fmul d a b => Sys2Proof.Machine.execFmul d a b s
  | .ffma d a b => Sys2Proof.Machine.execFfma d a b s
  | .fmin d a b => Sys2Proof.Machine.execFmin d a b s
  | .fmax d a b => Sys2Proof.Machine.execFmax d a b s
  | .fabs d a => Sys2Proof.Machine.execFabs d a s
  | .fneg d a => Sys2Proof.Machine.execFneg d a s
  | .fclass d a => Sys2Proof.Machine.execFclass d a s
  | .hadd2 d a b => Sys2Proof.Machine.execHadd2 d a b s
  | .hmul2 d a b => Sys2Proof.Machine.execHmul2 d a b s
  | .hfma2 d a b => Sys2Proof.Machine.execHfma2 d a b s
  | .badd2 d a b => Sys2Proof.Machine.execBadd2 d a b s
  | .bmul2 d a b => Sys2Proof.Machine.execBmul2 d a b s
  | .bfma2 d a b => Sys2Proof.Machine.execBfma2 d a b s
  | .cvt d a dstFmt srcFmt => Sys2Proof.Machine.execCvt d a dstFmt srcFmt s
  | .cvtpk d a dstFmt srcFmt => Sys2Proof.Machine.execCvtpk d a dstFmt srcFmt s
  | .cvtn d a dstFmt srcFmt => Sys2Proof.Machine.execCvtn d a dstFmt srcFmt s
  | .exp2 d a => Sys2Proof.Machine.execExp2 d a s
  | .log2 d a => Sys2Proof.Machine.execLog2 d a s
  | .rcp d a => Sys2Proof.Machine.execRcp d a s
  | .rsq d a => Sys2Proof.Machine.execRsq d a s
  | .sqrt d a => Sys2Proof.Machine.execSqrt d a s
  | .sin d a => Sys2Proof.Machine.execSin d a s
  | .cos d a => Sys2Proof.Machine.execCos d a s
  | .tanh d a => Sys2Proof.Machine.execTanh d a s
  | .shflx d a b => Sys2Proof.Machine.execShflx d a b s
  | .shflu d a b => Sys2Proof.Machine.execShflu d a b s
  | .shfld d a b => Sys2Proof.Machine.execShfld d a b s
  | .shfli d a lane => Sys2Proof.Machine.execShfli d a lane s
  | .shflw d a k => Sys2Proof.Machine.execShflw d a k s
  | .voteb d a b => Sys2Proof.Machine.execVoteb d a b s
  | .lred d a seg op => Sys2Proof.Machine.execLred d a seg op s
  | .scan d a head ex op => Sys2Proof.Machine.execScan d a head ex op s
  | .lsrLaneid d => Sys2Proof.Machine.execLsrLaneid d s
  | .lsrLpc d a => Sys2Proof.Machine.execLsrLpc d a s
  | .lsrSlice d => Sys2Proof.Machine.execLsrSlice d s
  | .lsrLive d a => Sys2Proof.Machine.execLsrLive d a s
  | .obld src a w h => Sys2Proof.Machine.execObld src a w h s
  | .obst d a w h => Sys2Proof.Machine.execObst d a w h s
  | .ldl d a w imm => Sys2Proof.Machine.execLdl d a w imm s
  | .stl src a w imm => Sys2Proof.Machine.execStl src a w imm s
  | .ldg d a w imm => Sys2Proof.Machine.execLdg d a w imm s
  | .stg src a w imm => Sys2Proof.Machine.execStg src a w imm s
  | .lds d a w imm => Sys2Proof.Machine.execLds d a w imm s
  | .sts src a w imm => Sys2Proof.Machine.execSts src a w imm s
  | .ldw d a w imm => Sys2Proof.Machine.execLdw d a w imm s
  | .stw src a w imm => Sys2Proof.Machine.execStw src a w imm s
  | .ldp d a w imm => Sys2Proof.Machine.execLdp d a w imm s
  | .stp src a w imm => Sys2Proof.Machine.execStp src a w imm s
  | .ldc d a w imm => Sys2Proof.Machine.execLdc d a w imm s
  | .lda d a w space scope => Sys2Proof.Machine.execLda d a w space scope s
  | .str src a w space scope => Sys2Proof.Machine.execStr src a w space scope s
  | .aadd d a b => Sys2Proof.Machine.execAadd d a b s
  | .aincw d a b => Sys2Proof.Machine.execAincw d a b s
  | .adecw d a b => Sys2Proof.Machine.execAdecw d a b s
  | .abadd d a b => Sys2Proof.Machine.execAbadd d a b s
  | .amin d a b => Sys2Proof.Machine.execAmin d a b s
  | .amax d a b => Sys2Proof.Machine.execAmax d a b s
  | .anmin d a b => Sys2Proof.Machine.execAnmin d a b s
  | .anmax d a b => Sys2Proof.Machine.execAnmax d a b s
  | .aand d a b => Sys2Proof.Machine.execAand d a b s
  | .aor d a b => Sys2Proof.Machine.execAor d a b s
  | .axor d a b => Sys2Proof.Machine.execAxor d a b s
  | .axchg d a b => Sys2Proof.Machine.execAxchg d a b s
  | .acas d a b => Sys2Proof.Machine.execAcas d a b s
  | .afadd d a b => Sys2Proof.Machine.execAfadd d a b s
  | .afmax d a b => Sys2Proof.Machine.execAfmax d a b s
  | .aadd64 d a b => Sys2Proof.Machine.execAadd64 d a b s
  | .radd a b => Sys2Proof.Machine.execRadd a b s
  | .rfadd a b => Sys2Proof.Machine.execRfadd a b s
  | .rfmax a b => Sys2Proof.Machine.execRfmax a b s
  | .rmax a b => Sys2Proof.Machine.execRmax a b s
  | .rmin a b => Sys2Proof.Machine.execRmin a b s
  | .ror a b => Sys2Proof.Machine.execRor a b s
  | .skq a b => Sys2Proof.Machine.execSkq a b s
  | .skh a b => Sys2Proof.Machine.execSkh a b s
  | .skd a b => Sys2Proof.Machine.execSkd a b s
  | .ska a b => Sys2Proof.Machine.execSka a b s
  | .bra m neg off => Sys2Proof.Machine.execBra m neg off s
  | .join => Sys2Proof.Machine.execJoin s
  | .exit => Sys2Proof.Machine.execExit s
  | .brx a => Sys2Proof.Machine.execBrx a s
  | .fusedSoftmax d1 a1 b1 d2 a2 d3 d4 a4 b4 => Sys2Proof.Machine.execFusedSoftmax d1 a1 b1 d2 a2 d3 d4 a4 b4 s
  | .nop => Sys2Proof.Machine.execNop s
  | .sadd d a b => Sys2Proof.Machine.execSadd d a b s
  | .ssub d a b => Sys2Proof.Machine.execSsub d a b s
  | .smul d a b => Sys2Proof.Machine.execSmul d a b s
  | .smulh d a b => Sys2Proof.Machine.execSmulh d a b s
  | .sand d a b => Sys2Proof.Machine.execSand d a b s
  | .sor d a b => Sys2Proof.Machine.execSor d a b s
  | .sxor d a b => Sys2Proof.Machine.execSxor d a b s
  | .sshl d a b => Sys2Proof.Machine.execSshl d a b s
  | .sshr d a b => Sys2Proof.Machine.execSshr d a b s
  | .ssar d a b => Sys2Proof.Machine.execSsar d a b s
  | .smin d a b => Sys2Proof.Machine.execSmin d a b s
  | .smax d a b => Sys2Proof.Machine.execSmax d a b s
  | .snmin d a b => Sys2Proof.Machine.execSnmin d a b s
  | .snmax d a b => Sys2Proof.Machine.execSnmax d a b s
  | .scmp d a b cond => Sys2Proof.Machine.execScmp d a b cond s
  | .saddi d a imm => Sys2Proof.Machine.execSaddi d a imm s
  | .sandi d a imm => Sys2Proof.Machine.execSandi d a imm s
  | .sshli d a n => Sys2Proof.Machine.execSshli d a n s
  | .sshri d a n => Sys2Proof.Machine.execSshri d a n s
  | .smovi d imm => Sys2Proof.Machine.execSmovi d imm s
  | .smovh d imm => Sys2Proof.Machine.execSmovh d imm s
  | .slea d a imm => Sys2Proof.Machine.execSlea d a imm s
  | .sldl d a w imm => Sys2Proof.Machine.execSldl d a w imm s
  | .sstl src a w imm => Sys2Proof.Machine.execSstl src a w imm s
  | .slds d a w imm => Sys2Proof.Machine.execSlds d a w imm s
  | .ssts src a w imm => Sys2Proof.Machine.execSsts src a w imm s
  | .sldc d a w imm => Sys2Proof.Machine.execSldc d a w imm s
  | .sldg d a w imm => Sys2Proof.Machine.execSldg d a w imm s
  | .sstg src a w imm => Sys2Proof.Machine.execSstg src a w imm s
  | .mand md ma mb => Sys2Proof.Machine.execMand md ma mb s
  | .mor md ma mb => Sys2Proof.Machine.execMor md ma mb s
  | .mxor md ma mb => Sys2Proof.Machine.execMxor md ma mb s
  | .mnot md ma => Sys2Proof.Machine.execMnot md ma s
  | .m2s d ma => Sys2Proof.Machine.execM2s d ma s
  | .s2m md a => Sys2Proof.Machine.execS2m md a s
  | .mpopc d ma => Sys2Proof.Machine.execMpopc d ma s
  | .v2s d va b => Sys2Proof.Machine.execV2s d va b s
  | .s2v vd a => Sys2Proof.Machine.execS2v vd a s
  | .br off => Sys2Proof.Machine.execBr off s
  | .brz a off => Sys2Proof.Machine.execBrz a off s
  | .brnz a off => Sys2Proof.Machine.execBrnz a off s
  | .call off => Sys2Proof.Machine.execCall off s
  | .ret => Sys2Proof.Machine.execRet s
  | .brxs a => Sys2Proof.Machine.execBrxs a s
  | .dly n => Sys2Proof.Machine.execDly n s
  | .bari k a => Sys2Proof.Machine.execBari k a s
  | .bara k => Sys2Proof.Machine.execBara k s
  | .barw k => Sys2Proof.Machine.execBarw k s
  | .baraw k => Sys2Proof.Machine.execBaraw k s
  | .barst d k => Sys2Proof.Machine.execBarst d k s
  | .chcfg k a => Sys2Proof.Machine.execChcfg k a s
  | .chq d k => Sys2Proof.Machine.execChq d k s
  | .waitc cls n => Sys2Proof.Machine.execWaitc cls n s
  | .fence all kind scope => Sys2Proof.Machine.execFence all kind scope s
  | .marm d a b w space => Sys2Proof.Machine.execMarm d a b w space s
  | .mwait => Sys2Proof.Machine.execMwait s
  | .saadd d a b w space => Sys2Proof.Machine.execSaadd d a b w space s
  | .sacas d a b w space => Sys2Proof.Machine.execSacas d a b w space s
  | .saxchg d a b w space => Sys2Proof.Machine.execSaxchg d a b w space s
  | .copy src d => Sys2Proof.Machine.execCopy src d s
  | .tilex src d => Sys2Proof.Machine.execTilex src d s
  | .gather src d idx => Sys2Proof.Machine.execGather src d idx s
  | .mma c a k ta tb aob za => Sys2Proof.Machine.execMma c a k ta tb aob za s
  | .mst c d k rnd sat t => Sys2Proof.Machine.execMst c d k rnd sat t s
  | .obres k a => Sys2Proof.Machine.execObres k a s
  | .obrel k => Sys2Proof.Machine.execObrel k s
  | .skmerge src d => Sys2Proof.Machine.execSkmerge src d s
  | .skqrd d o q space => Sys2Proof.Machine.execSkqrd d o q space s
  | .skhrd d o j space => Sys2Proof.Machine.execSkhrd d o j space s
  | .skdrd d o space => Sys2Proof.Machine.execSkdrd d o space s
  | .skinit o seed space kind => Sys2Proof.Machine.execSkinit o seed space kind s
  | .skard d o space => Sys2Proof.Machine.execSkard d o space s
  | .launch a => Sys2Proof.Machine.execLaunch a s
  | .detach => Sys2Proof.Machine.execDetach s
  | .yield => Sys2Proof.Machine.execYield s
  | .srr d n => Sys2Proof.Machine.execSrr d n s
  | .srwMode a => Sys2Proof.Machine.execSrwMode a s
  | .srw a n => Sys2Proof.Machine.execSrw a n s
  | .trap code => Sys2Proof.Machine.execTrap code s
  | .tret => Sys2Proof.Machine.execTret s
  | .tretSkip => Sys2Proof.Machine.execTretSkip s
  | .trec a => Sys2Proof.Machine.execTrec a s
  | .cacheL1inv a => Sys2Proof.Machine.execCacheL1inv a s
  | .cacheL1all a => Sys2Proof.Machine.execCacheL1all a s
  | .cacheL2wb a => Sys2Proof.Machine.execCacheL2wb a s
  | .cacheL2wbinv a => Sys2Proof.Machine.execCacheL2wbinv a s
  | .pref a space => Sys2Proof.Machine.execPref a space s
  | .gqDepart e => Sys2Proof.Machine.execGqDepart e s
  | .cbDepart e => Sys2Proof.Machine.execCbDepart e s
  | .routerMerge e f => Sys2Proof.Machine.execRouterMerge e f s
  | .hsApply e => Sys2Proof.Machine.execHsApply e s
  | .bankApply e => Sys2Proof.Machine.execBankApply e s
  | .loadBind e => Sys2Proof.Machine.execLoadBind e s
  | .fcWrap core => Sys2Proof.Machine.execFcWrap core s
  | .walkComplete walk => Sys2Proof.Machine.execWalkComplete walk s
  | .resultWriteback res => Sys2Proof.Machine.execResultWriteback res s
  | .frbDeliver msg => Sys2Proof.Machine.execFrbDeliver msg s
  | .skip msg => Sys2Proof.Machine.execSkip msg s
  | .notHeld msg => Sys2Proof.Machine.execNotHeld msg s
  | .replyData msg => Sys2Proof.Machine.execReplyData msg s
  | .acknowledgement msg => Sys2Proof.Machine.execAcknowledgement msg s
  | .peerFencedReply msg => Sys2Proof.Machine.execPeerFencedReply msg s
  | .departedReply msg => Sys2Proof.Machine.execDepartedReply msg s
  | .poisonReply msg => Sys2Proof.Machine.execPoisonReply msg s
  | .monitorWake msg => Sys2Proof.Machine.execMonitorWake msg s
  | .attachNotice msg => Sys2Proof.Machine.execAttachNotice msg s
  | .departureNotice msg => Sys2Proof.Machine.execDepartureNotice msg s
  | .requestTimeout core slot => Sys2Proof.Machine.execRequestTimeout core slot s
  | .slotWithholdExpire core slot => Sys2Proof.Machine.execSlotWithholdExpire core slot s
  | .flushMarker msg => Sys2Proof.Machine.execFlushMarker msg s
  | .flushAcknowledgement msg => Sys2Proof.Machine.execFlushAcknowledgement msg s
  | .endMarker msg => Sys2Proof.Machine.execEndMarker msg s
  | .engineAccept op => Sys2Proof.Machine.execEngineAccept op s
  | .engineComplete op => Sys2Proof.Machine.execEngineComplete op s
  | .erqReport group cls => Sys2Proof.Machine.execErqReport group cls s
  | .barrierArrival e => Sys2Proof.Machine.execBarrierArrival e s
  | .summaryApply e => Sys2Proof.Machine.execSummaryApply e s
  | .skmergeApply op => Sys2Proof.Machine.execSkmergeApply op s
  | .bulkTimeout opnum => Sys2Proof.Machine.execBulkTimeout opnum s
  | .trapDeliver group => Sys2Proof.Machine.execTrapDeliver group s
  | .pageFaultReplay group ptes => Sys2Proof.Machine.execPageFaultReplay group ptes s
  | .preemptDeliver group => Sys2Proof.Machine.execPreemptDeliver group s
  | .blockFreeze block => Sys2Proof.Machine.execBlockFreeze block s
  | .groupEnd group => Sys2Proof.Machine.execGroupEnd group s
  | .blockStart block => Sys2Proof.Machine.execBlockStart block s
  | .rankPrepare grid rank img => Sys2Proof.Machine.execRankPrepare grid rank img s
  | .slotStart slew => Sys2Proof.Machine.execSlotStart slew s
  | .roundFinalise => Sys2Proof.Machine.execRoundFinalise s
  | .selfFence => Sys2Proof.Machine.execSelfFence s
  | .chargeContribute => Sys2Proof.Machine.execChargeContribute s
  | .roundMessage msg => Sys2Proof.Machine.execRoundMessage msg s
  | .contributionFetchRequest msg => Sys2Proof.Machine.execContributionFetchRequest msg s
  | .contributionFetchReply msg => Sys2Proof.Machine.execContributionFetchReply msg s
  | .snapshotRequest msg => Sys2Proof.Machine.execSnapshotRequest msg s
  | .snapshotChunk msg => Sys2Proof.Machine.execSnapshotChunk msg s
  | .finalSetContribution msg => Sys2Proof.Machine.execFinalSetContribution msg s
  | .joinContribute position => Sys2Proof.Machine.execJoinContribute position s
  | .flitArrive port flit => Sys2Proof.Machine.execFlitArrive port flit s
  | .nakTimerExpire port => Sys2Proof.Machine.execNakTimerExpire port s
  | .linkAck port a => Sys2Proof.Machine.execLinkAck port a s
  | .linkNak port a => Sys2Proof.Machine.execLinkNak port a s
  | .linkCredit port ls bulk => Sys2Proof.Machine.execLinkCredit port ls bulk s
  | .tailEnd port => Sys2Proof.Machine.execTailEnd port s
  | .laneFault port => Sys2Proof.Machine.execLaneFault port s
  | .portSend port => Sys2Proof.Machine.execPortSend port s
  | .relayForward port => Sys2Proof.Machine.execRelayForward port s
  | .bulkSegment msg => Sys2Proof.Machine.execBulkSegment msg s
  | .bulkReadRequest msg => Sys2Proof.Machine.execBulkReadRequest msg s
  | .slotChunkCombine slot chunk => Sys2Proof.Machine.execSlotChunkCombine slot chunk s
  | .mailboxMessage sender receiver msg => Sys2Proof.Machine.execMailboxMessage sender receiver msg s
  | .doorbell queue => Sys2Proof.Machine.execDoorbell queue s
  | .launchGrid queue => Sys2Proof.Machine.execLaunchGrid queue s
  | .write queue => Sys2Proof.Machine.execWrite queue s
  | .signal queue => Sys2Proof.Machine.execSignal queue s
  | .wait queue => Sys2Proof.Machine.execWait queue s
  | .writeSignal queue => Sys2Proof.Machine.execWriteSignal queue s
  | .hostcopy queue => Sys2Proof.Machine.execHostcopy queue s
  | .turnEnd used => Sys2Proof.Machine.execTurnEnd used s
  | .pageTableChange change => Sys2Proof.Machine.execPageTableChange change s
  | .invalidationComplete => Sys2Proof.Machine.execInvalidationComplete s
  | .handleCreate req => Sys2Proof.Machine.execHandleCreate req s
  | .handleDestroy ctx index => Sys2Proof.Machine.execHandleDestroy ctx index s
  | .handleFree ctx index => Sys2Proof.Machine.execHandleFree ctx index s
  | .contextDescriptorWrite ctx bytes => Sys2Proof.Machine.execContextDescriptorWrite ctx bytes s
  | .killRequest ctx reason => Sys2Proof.Machine.execKillRequest ctx reason s
  | .attestationRequest nonce => Sys2Proof.Machine.execAttestationRequest nonce s
  | .watchdogExpire core => Sys2Proof.Machine.execWatchdogExpire core s
  | .thermalTrip site => Sys2Proof.Machine.execThermalTrip site s
  | .dumpCommand => Sys2Proof.Machine.execDumpCommand s
  | .fatalError cause => Sys2Proof.Machine.execFatalError cause s
  | .dumpAcknowledge => Sys2Proof.Machine.execDumpAcknowledge s
  | .powerOn boot => Sys2Proof.Machine.execPowerOn boot s
  | .softError err => Sys2Proof.Machine.execSoftError err s
  | .warmReset => Sys2Proof.Machine.execWarmReset s
  | .hostCoreAccess acc => Sys2Proof.Machine.execHostCoreAccess acc s
  | .slotRequest req => Sys2Proof.Machine.execSlotRequest req s
  | .issueGating on => Sys2Proof.Machine.execIssueGating on s

end Sys2Proof.Machine
end

