-- ==== Sys2Proof/Machine/Issue.lean ====
section
/-! DEFINITION. The issue of a group's words: which lane sets issue (R173 to R176), the fetch of their words (R314, R328, R31), the
fused sequence (R360), and what an issue cycle does to ages and the second port (R173, R174). -/

namespace Sys2Proof.Machine

/-! ### Words by their class (R173, R179, R302) -/

/-- The word that decides the class of a PC: the second of a pair. -/
def State.classWord (s : State) (k : Nat) (p : Word) : Nat :=
  match codeWord s k p with
  | some w => if isPfxWord w then ((codeWord s k (p + 4)).getD 0xFF000000).toNat else w.toNat
  | none => 0xFF000000

/-- A converged-only word, by its opcode (R179): OBLD, OBST, MMA, MST, SKMERGE, SKQRD, SKHRD, SKDRD and SKARD. -/
def convergedOnly (w : Nat) : Bool := [0x46, 0x47, 0xBF, 0xC0, 0xC3, 0xC4, 0xC5, 0xC6, 0xC8].contains (w / 2 ^ 24)

/-- A lane-set word (R302). -/
def laneSet (w : Nat) : Bool := decide (w / 2 ^ 24 < 0x80)

/-! ### The vote (R173) -/

/-- The PCs that RUN lanes hold, ascending. -/
def Group.cands (g : Group) : List Nat := pcsOf g (g.lanesIn .run)

/-- The age of a PC: the greatest of its RUN lanes. -/
def Group.ageAt (g : Group) (p : Nat) : Nat := ((g.runAt (BitVec.ofNat 32 p)).map (fun l => (g.lane l).age)).foldl max 0

/-- The forced PCs, oldest first, and then the lowest. -/
def State.forced (s : State) (k : Nat) : List Nat :=
  let g := s.group k
  let fs := g.cands.filter (fun p => decide (64 ≤ g.ageAt p) && !convergedOnly (s.classWord k (BitVec.ofNat 32 p)))
  let top := (fs.map g.ageAt).foldl max 0
  sortBy (fun p => [top - g.ageAt p, p]) fs

/-- Whether the second port may take a PC. -/
def State.eligible2 (s : State) (k p : Nat) : Bool :=
  let w := s.classWord k (BitVec.ofNat 32 p)
  laneSet w && !convergedOnly w

/-- The PC that the primary port takes. -/
def State.first (s : State) (k : Nat) : Option Nat :=
  match s.forced k with
  | p :: _ => some p
  | [] => (s.group k).cands.head?

/-- The PC that the second port takes beside it. -/
def State.second (s : State) (k p1 : Nat) : Option Nat :=
  let p2 := match ((s.forced k).filter (fun p => decide (p ≠ p1) && s.eligible2 k p)).head? with
    | some p => some p
    | none => ((s.group k).cands.filter (fun p => decide (p ≠ p1))).head?
  p2.bind (fun p => if s.eligible2 k p then some p else none)

/-- The PCs of the two ports, with the primary's lanes. A primary whose instruction waits as R173 says stays chosen, with its lanes, until
it goes on (log 39). -/
def State.vote (s : State) (k : Nat) : Option (Nat × List Nat × Option Nat) :=
  match (s.group k).stuck with
  | some (p, ls) => some (p.toNat, ls, s.second k p.toNat)
  | none => (s.first k).map (fun p => (p, (s.group k).runAt (BitVec.ofNat 32 p), s.second k p))

/-! ### Fetch (R31, R39, R42, R328) -/

/-- What a fetch finds. -/
inductive Fetched where
  | word (w : Word)
  | walk (va : Nat)
  | fault (va : Nat)
  | protection
  deriving DecidableEq, Repr

def fetchWord (s : State) (k : Nat) (p : Word) : Fetched :=
  let va := codeVa s k p
  if !inCode s k p || decide (2 ^ 56 < va + 4) then .protection
  else
    match s.look k (s.block (s.group k).block).ctx va false true with
    | .hit e => .word (wordAt s (e.pa + (va - e.va)))
    | .miss => .walk va
    | .bad .notMapped => .fault va
    | .bad _ => .protection

/-- A fetched word used: a walk is waited for, and a fault is one of the word at the lanes' PC. -/
def onFetch (f : Fetched) (body : Word → Out) (s : State) : Out :=
  match f with
  | .word w => body w
  | .walk va => hold .walk (s.startWalk s.iss.group (s.block (s.group s.iss.group).block).ctx va false true)
  | .fault va => pageFaultHold [va] s
  | .protection => trapSel tProtection false 0 0 s

/-! ### Execution of one word or pair (R314, R326) -/

/-- A word decoded and executed; one that is none traps ILLEGAL_OP. -/
def execWord (w : Word) (s : State) : Out :=
  let s := { s with iss := { s.iss with word := w } }
  match decodeWord w.toNat with
  | .ok i => exec i s
  | .error _ => if laneSet w.toNat then illegal s else illegalUni s

/-- A PFX latches its fields, and the pair goes on with its second word. -/
def execPair (w v : Word) (s : State) : Out :=
  match execWord w s with
  | .next t => if t.iss.pfx.isSome then execWord v t else .next t
  | o => o

/-! ### The fused sequence (R360) -/

/-- The registers of the four words where they form the sequence. -/
structure Fused where
  d1 : Nat
  a1 : Nat
  b1 : Nat
  d2 : Nat
  a2 : Nat
  d3 : Nat
  d4 : Nat
  a4 : Nat
  b4 : Nat
  deriving DecidableEq, Repr

/-- FMAX, FSUB, EXP2 and FADD chained as R360 asks, without channels. -/
def fusedOf (w1 w2 w3 w4 : Word) : Option Fused :=
  match decodeWord w1.toNat, decodeWord w2.toNat, decodeWord w3.toNat, decodeWord w4.toNat with
  | .ok (.fmax (.reg d1) (.reg a1) (.reg b1)), .ok (.fsub (.reg d2) (.reg a2) (.reg b2)), .ok (.exp2 (.reg d3) (.reg a3)),
    .ok (.fadd (.reg d4) (.reg a4) (.reg b4)) =>
    if b2 = d1 ∧ a3 = d2 ∧ (a4 = d3 ∨ b4 = d3) then
      some { d1 := d1, a1 := a1, b1 := b1, d2 := d2, a2 := a2, d3 := d3, d4 := d4, a4 := a4, b4 := b4 }
    else none
  | _, _, _, _ => none

/-- The opcode of FMAX, at which alone a sequence begins. -/
def isFmax (w : Word) : Bool :=
  match decodeWord w.toNat with
  | .ok (.fmax _ _ _) => true
  | _ => false

/-- Whether a word is the FSUB, and whether one is the EXP2, that a sequence goes on with. -/
def isFsub (w : Word) : Bool :=
  match decodeWord w.toNat with
  | .ok (.fsub _ _ _) => true
  | _ => false
def isExp2 (w : Word) : Bool :=
  match decodeWord w.toNat with
  | .ok (.exp2 _ _) => true
  | _ => false

/-- What is found of a sequence at the issued PC: none, a miss of one of its words' pages (R39), or its registers. -/
inductive FusedAt where
  | no
  | walk (va : Nat)
  | yes (f : Fused)
  deriving DecidableEq, Repr

/-- A further word of a sequence, and what is found from there on. -/
def nextOf (f : Fetched) (body : Word → FusedAt) : FusedAt :=
  match f with
  | .word w => body w
  | .walk va => .walk va
  | _ => .no

/-- The sequence at the issued PC, where it is fused: its words can be fetched (R328), no live lane stands inside it, and every outside
source is available (R360). -/
def fusedHere (w : Word) (s : State) : FusedAt :=
  let g := s.issuing
  let p := s.iss.pc
  let at1 := fun (i : Word) => fetchWord s s.iss.group (p + i)
  if !isFmax w || g.liveLanes.any (fun l => decide ((g.lane l).pc ∈ [p + 4, p + 8, p + 12])) then .no
  else
    nextOf (at1 4) (fun w2 => if !isFsub w2 then .no else
      nextOf (at1 8) (fun w3 => if !isExp2 w3 then .no else
        nextOf (at1 12) (fun w4 =>
          match fusedOf w w2 w3 w4 with
          | some f =>
            let reads := fusedReads f.d1 f.a1 f.b1 f.d2 f.a2 f.d3 f.a4 f.b4
            if s.iss.sel.any (fun l => reads.any (fun r => tooEarly s g false r l || g.pendingV r l)) then .no else .yes f
          | none => .no)))

/-! ### One port -/

/-- The word, pair or sequence at the issued PC, executed for the issued lanes. -/
def execAt (s : State) : Out :=
  let k := s.iss.group
  let p := s.iss.pc
  onFetch (fetchWord s k p) (fun w =>
    if isPfxWord w then onFetch (fetchWord s k (p + 4)) (fun v => execPair w v s) s
    else
      match fusedHere w s with
      | .yes f => execFusedSoftmax f.d1 f.a1 f.b1 f.d2 f.a2 f.d3 f.d4 f.a4 f.b4 { s with iss := { s.iss with word := w } }
      | .walk va => onFetch (.walk va) (fun _ => .next s) s
      | .no => execWord w s) s

/-- A port takes lanes at a PC. -/
def State.startIssue (s : State) (k : Nat) (p : Word) (sel : List Nat) (second : Bool) : State :=
  { s with iss := { group := k, pc := p, sel := sel, pfx := none, word := 0, pfxWord := 0, second := second, issued := false } }

/-- The ages after an issue cycle: 0 for issued lanes, one more for the other RUN lanes (R173). -/
def Group.ageLanes (g : Group) (run sel : List Nat) : Group :=
  g.mapLanes (fun l x => if sel.contains l then { x with age := 0 } else { x with age := x.age + 1 }) run

/-- The waits in which the group issues nothing until the primary's instruction can go on (R173). -/
def Wait.stays : Wait → Bool
  | .channel => true
  | .barrier => true
  | .counter => true
  | .monitor => true
  | .counterFull => true
  | _ => false

/-- After the primary: where it issued, the ages of the lanes that RAN; where it waits, the second port takes nothing, and the waits of
R173 keep the primary chosen, also while its word has to be fetched anew. -/
def afterPrimary (k : Nat) (run : List Nat) (t : State) : State :=
  let g := t.group k
  let kept := if g.waiting = .walk ∨ g.replay.isSome = true then g.stuck else none
  if t.iss.issued then t.setGroup k (g.ageLanes run t.iss.sel)
  else t.setGroup k { g with port2 := none, stuck := if g.waiting.stays then some (t.iss.pc, t.iss.sel) else kept }

/-- Whether a group may issue now (R177, R190, R195, R211, R229, R245): its context's descriptor is valid, it runs, no trap or PREEMPT stands before it, no
OBLD is still to be written (R376), and it is attached. -/
def State.mayIssue (s : State) (k : Nat) : Bool :=
  let g := s.group k
  let b := s.block g.block
  decide ((s.ctxDesc b.ctx).state = 1) && g.alive && b.started && g.replay.isNone && decide (g.dlyUntil ≤ s.clock + 1) && g.sync.isNone &&
  !g.results.any (fun r => decide (r.dst = .ob)) &&
  (match g.handler with
  | .none => decide (g.async = []) && !g.preempt && (!b.fresh || b.attached)
  | .trap => !g.preempt && (!b.fresh || b.attached)
  | .save => true
  | .restore => true
  | .saved => false
  | .restored => false)

/-- The wait of a gang is over for a block that has been attached once (R190, R194). -/
def State.openBlock (s : State) (k : Nat) : State :=
  let g := s.group k
  let b := s.block g.block
  if b.fresh && b.attached && decide (g.handler = .none ∨ g.handler = .trap) then s.setBlock g.block { b with fresh := false } else s

/-- The state in which the primary port's word executes: one more cycle (two when issue is gated, R252), and the second port's PC and
lanes kept for the next step. -/
def State.primary (s : State) (k p1 : Nat) (sel : List Nat) (p2 : Option Nat) : State :=
  let g := s.group k
  let port := p2.map (fun p => (BitVec.ofNat 32 p, g.runAt (BitVec.ofNat 32 p)))
  let s := (s.openBlock k).setGroup k { g with port2 := port }
  { s with clock := s.clock + (if s.ctl.gating then 2 else 1), cur := k }.startIssue k (BitVec.ofNat 32 p1) sel false

/-- The primary port of a group's issue cycle (R173). -/
def issuePrimary (k : Nat) (s : State) : Out :=
  match s.vote k with
  | none => .next s
  | some (p1, sel, p2) =>
    match execAt (s.primary k p1 sel p2) with
    | .next t => .next (afterPrimary k ((s.group k).lanesIn .run) t)
    | o => o

/-- The second port of the same cycle (R174), for the lanes that stood at its PC when the cycle began: not behind a trap; its lanes' ages
become 0. -/
def issueSecond (k : Nat) (p : Word) (sel : List Nat) (s : State) : Out :=
  let g := s.group k
  let s := s.setGroup k { g with port2 := none }
  if g.sync.isSome ∨ g.stopped = true then .next s
  else
    match execAt (s.startIssue k p sel true) with
    | .next t =>
      let g := t.group k
      if t.iss.issued then .next (t.setGroup k (g.mapLanes (fun _ x => { x with age := 0 }) t.iss.sel))
      else .next (t.setGroup k { g with waiting := if g.waiting = .walk then .walk else .nothing })
    | o => o

/-- One issue of a group: the second port's word where the cycle has one left, or else the primary of a new cycle. -/
def issueGroup (k : Nat) (s : State) : Out :=
  match (s.group k).port2 with
  | some (p, sel) => issueSecond k p sel s
  | none => if s.mayIssue k then issuePrimary k s else .next s

end Sys2Proof.Machine
end

