-- ==== Sys2Proof/Machine/Run.lean ====
section
/-! DEFINITION. What the machine does next (R84): the head of the agenda, or else, of what the module can do by itself, the first
that changes anything; then an issue of a group; then time alone (log 4, log 9). -/

namespace Sys2Proof.Machine

/-! ### Items of the agenda -/

/-- The event that an arrived message is (R153 to R157). -/
def arrive (m : Msg) (s : State) : Out :=
  match m with
  | .ls l => arriveLs l s
  | .seg g => execBulkSegment g s
  | .readReq r => execBulkReadRequest r s
  | .marker k => if k.typ = 0 then execFlushMarker k s else execEndMarker k s
  | .ctl c =>
    match c.typ with
    | 0 => execRoundMessage c s
    | 1 => execContributionFetchRequest c s
    | 2 => execContributionFetchReply c s
    | 3 => execSnapshotRequest c s
    | 4 => execSnapshotChunk c s
    | 5 => execFinalSetContribution c s
    | _ => .next s

/-- One item: an event row (a word is no event), an issue, or what a message or link message is. -/
def runItem (i : Item) (s : State) : Out :=
  match i with
  | .event e => if e.isEvent then exec e s else .next s
  | .issue k => issueGroup k s
  | .message m => arrive m s
  | .linkAck port a => execLinkAck port a s
  | .linkNak port a => execLinkNak port a s
  | .linkCredit port ls bulk => execLinkCredit port ls bulk s

/-! ### What the module does by itself -/

/-- The steps of one entry where it stands. -/
def entrySteps (e : Entry) : List (State → Out) :=
  match e.stage with
  | .gq => [execLoadBind e.id, execGqDepart e.id]
  | .cb => [execLoadBind e.id, execCbDepart e.id]
  | .bank => [execBankApply e.id, execBarrierArrival e.id, execSummaryApply e.id]
  | .net => [execHsApply e.id]
  | .flow => []

/-- The steps of one group at its boundary, and its retire queues' reports. -/
def groupSteps (p : Nat × Group) : List (State → Out) :=
  let g := p.2
  (g.results.filter PendRes.ready).map (fun r => execResultWriteback r.id) ++
  (if g.sync.isSome ∨ g.async ≠ [] then [execTrapDeliver p.1] else []) ++ (if g.preempt then [execPreemptDeliver p.1] else []) ++
  (g.erq.filter ErqEnt.finished).map (fun e => execErqReport p.1 e.cls) ++
  (if g.liveLanes = [] ∧ g.ended = false then [execGroupEnd p.1] else [])

/-- The steps of one block. -/
def blockSteps (p : Nat × Block) : List (State → Out) :=
  (if p.2.started then [] else [execBlockStart p.1]) ++ (if p.2.preempting && !p.2.frozen then [execBlockFreeze p.1] else [])

/-- The packet step of a queue's TYPE (R236); a packet of another TYPE is met, skipped and logged by any of them (R235). -/
def packetStep (q typ : Nat) : List (State → Out) :=
  match typ with
  | 1 => [execLaunchGrid q]
  | 3 => [execSignal q]
  | 4 => [execWait q]
  | 5 => [execWriteSignal q]
  | 6 => [execHostcopy q]
  | _ => [execWrite q]

/-- Whether a queue has something to serve. -/
def SubQueue.pending (q : SubQueue) : Bool := decide (q.desc ≠ 0 ∧ q.size ≠ 0) && (q.busy || decide (q.head ≠ q.tail))

/-- The steps of ctl0's packets. -/
def State.packetSteps (s : State) : List (State → Out) :=
  (s.ctl.queues.filter (fun q => q.2.pending)).flatMap (fun q =>
    packetStep q.1 (recNat (if q.2.busy then q.2.packet else s.headPacket q.2) 0 1))

/-- How long the turn of ctl0 has been under way by its own time, in nanoseconds: the default run takes 1,200 cycles of the core clock for a
microsecond of it (log 4). -/
def State.turnUsed (s : State) : Nat := (s.clock - s.ctl.turnStart) * 5 / 6

/-- Whether the default run ends a turn of ctl0 here (R237): its 20 µs, less what the context overran before, are over, and no packet is midway. -/
def State.turnDue (s : State) : Bool :=
  decide (20000 ≤ s.turnUsed + getKey 0 s.ctl.overrun s.ctl.turnCtx) && s.ctl.queues.all (fun q => !q.2.midway)

/-- The steps of the fabric endpoint: held messages, slots, relays and ports. -/
def State.fabricSteps (s : State) : List (State → Out) :=
  s.fab.frb.map arriveLs ++ s.fab.slotParts.map (fun p => execSlotChunkCombine p.slot p.chunk) ++
  (if s.fab.relay = [] then [] else (List.range 64).map execRelayForward) ++
  (if s.fab.lsOut = [] ∧ s.fab.bulkOut = [] ∧ s.fab.ctlOut = [] ∧ s.fab.lsOwed = [] ∧ s.fab.bulkOwed = [] then []
   else ((List.range 64).filter s.portWants).map execPortSend)

/-- The timers that have run out (R137, R164). -/
def State.timerSteps (s : State) : List (State → Out) :=
  s.fab.bulkOps.map (fun b => execBulkTimeout b.opnum) ++
  s.cores.flatMap (fun c => c.2.slots.flatMap (fun r =>
    (if r.2.inUse then [execRequestTimeout c.1 r.1] else []) ++ (if r.2.withheld then [execSlotWithholdExpire c.1 r.1] else [])))

/-- The steps of the Ductus and of ctl1, ctl2 and ctl3. -/
def State.controlSteps (s : State) : List (State → Out) :=
  (if 2 ≤ s.ctl.overflows then [execFatalError .mailbox] else []) ++
  (if s.duc.role = .off then [] else [execRoundFinalise, execSlotStart 0, execChargeContribute, execSelfFence]) ++
  s.duc.clients.map execJoinContribute ++ (if s.inval.isSome then [execInvalidationComplete] else []) ++
  (s.handles.filter (fun h => decide (h.2.st = .draining))).map (fun h => execHandleFree (h.1 / 4096) (h.1 % 4096))

/-- All of them, in the order in which the default run looks at them (log 4). -/
def State.ownSteps (s : State) : List (State → Out) :=
  s.groups.flatMap groupSteps ++ s.entries.flatMap entrySteps ++
  (s.cores.filter (fun c => decide (2 ^ 32 ≤ c.2.fc))).map (fun c => execFcWrap c.1) ++ s.walks.map (fun w => execWalkComplete w.id) ++
  s.ops.flatMap (fun o => [execEngineAccept o.id, execSkmergeApply o.id, execEngineComplete o.id]) ++ s.blocks.flatMap blockSteps ++
  s.fabricSteps ++ s.controlSteps ++ s.packetSteps ++ s.timerSteps

/-- The first of some steps that changes the state. -/
def firstMove (s : State) : List (State → Out) → Option Out
  | [] => none
  | f :: rest =>
    match f s with
    | .next t => if t = s then firstMove s rest else some (.next t)
    | o => some o

/-! ### The default run -/

/-- The group that issues next: the first that may, from the current one on. -/
def State.nextGroup (s : State) : Option Nat :=
  let may := (s.groups.map Prod.fst).filter (fun k => (s.group k).port2.isSome || s.mayIssue k)
  match may.find? (fun k => decide (s.cur < k)) with
  | some k => some k
  | none => may.head?

/-- A cycle in which nothing happens. -/
def State.idle (s : State) : State := { s with clock := s.clock + 1 }

/-- The default run: the second port of a cycle that has begun, the module's own steps, an issue, or a cycle alone. -/
def defaultStep (s : State) : Out :=
  if s.ctl.phase ≠ .running then .next s.idle
  else if (s.group s.cur).port2.isSome then issueGroup s.cur s
  else if s.turnDue then execTurnEnd s.turnUsed s.idle
  else
    match firstMove s s.ownSteps with
    | some o => o
    | none =>
      match s.nextGroup with
      | some k => issueGroup k s
      | none => .next s.idle

/-! ### Time (R5, R147, R238) -/

/-- A step takes some nanoseconds of PODTIME. -/
def State.tick (s : State) : State := { s.passTime (Config.elapsed s.free) with free := s.free + 1 }

/-- Time passes with a step that answers a next state. -/
def timed (o : Out) : Out :=
  match o with
  | .next t => .next t.tick
  | o => o

/-! ### A program from outside (log 5) -/

/-- The page that holds the placed code: virtual and physical address 0. -/
def codePage : TlbEnt :=
  { ctx := 0, va := 0, bits := 16, pa := 0, w := true, x := true, kind := .rc, exp := false, nc := false, d := true }

/-- A word and the zeros after it placed at the start of a code segment of one page, under a block of one group on core 0 that runs
there and issues next. -/
def placeWord (s : State) (w : Nat) : State :=
  let b : Block := { Block.empty with resident := true, groups := [0], regs := 128, scr := 65536, obg := 16, started := true, fresh := false }
  let prep : GridPrep := { GridPrep.empty with codeLen := 65536 }
  let d : CtxDesc := { CtxDesc.empty with state := 1, saveh := 4096, resth := 8192 }
  let s := (s.setGroup 0 (freshGroup 0 0 0)).setBlock 0 b
  let s := s.setCore 0 { s.core 0 with tlb := [codePage] }
  { s with grids := insKey s.grids 0 prep, ctxs := insKey s.ctxs 0 d, mem := writeBytes s.mem 0 (bytesLE 16 (w % 2 ^ 32)), cur := 0,
           agenda := [.issue 0], ctl := { s.ctl with phase := .running } }

end Sys2Proof.Machine
end

