-- ==== Sys2Proof/Machine/Step.lean ====
section
/-! DEFINITION. One step of the machine (R84), and the placing of one instruction where the next step fetches (log 5). -/

namespace Sys2Proof.Machine

/-- One step: the head of the agenda, or the default run. -/
def step (s : State) : Host.Outcome State Fault Refusal :=
  match s.agenda with
  | i :: rest => timed (runItem i { s with agenda := rest })
  | [] => timed (defaultStep s)

/-- The state with an instruction loaded from outside: a resident one-group block of grid 0 and context 0 on core 0, every lane RUN
at offset 0 of a code segment that one translated page maps, the instruction's bytes there with zeros after them, and group 0 the
next to issue. -/
def State.withFetchWord (s : State) (_nbits w : Nat) : State := placeWord s w

end Sys2Proof.Machine
end

