-- ==== Sys2Proof/Safety.lean ====
section
/-! DEFINITION. The terms in which claims about a run are made: the invariant of a step, when a word is ready to execute, what a
word keeps, and the forms of the words that share one frame. -/

namespace Sys2Proof.Claim

open Sys2Proof.Machine

/-! ### Safe states and safe outcomes -/

/-- The issued lanes are lanes of a group, each named once (R173). -/
def lanesOk (s : State) : Prop := (∀ l ∈ s.iss.sel, l < laneCount) ∧ s.iss.sel.Nodup

/-- The lanes kept for a group's second port, and those of a primary that waits, exist. -/
def picksOk (g : Group) : Prop :=
  (∀ p ls, g.port2 = some (p, ls) → (∀ l ∈ ls, l < laneCount) ∧ ls.Nodup) ∧
  (∀ p ls, g.stuck = some (p, ls) → (∀ l ∈ ls, l < laneCount) ∧ ls.Nodup)

/-- What every step keeps: memory in its canonical form (log 2), and issued lanes that exist, also those that a group keeps for its next
issue. -/
def Inv (s : State) : Prop := Memory.wf s.mem = true ∧ lanesOk s ∧ ∀ p ∈ s.groups, picksOk p.2

/-- A step that stops neither with a fault nor with a refusal. -/
def goesOn (o : Out) : Prop := ∃ t, o = .next t

/-! ### When a word is ready (R327, R323, R324, R185) -/

/-- The state in which a word that is ready executes: the free values count on (log 6). -/
def opened (s : State) : State := { s with free := s.free + 1 }

/-- Nothing holds a word that uses `u` or makes it trap: no register error (R79), no pending result (R323), no early read under
CHK (R324), and, where its channels act, descriptors within the allocation (R54), of a depth, that it may push to, with an entry
for each pop and peek and allowance for each push (R185), and no earlier access of the group to those entries still to be applied (R59). -/
def ready (acts : Bool) (u : Uses) (s : State) : Bool :=
  !readsBad s.issuing u && !pendingUse s.issuing u && !(s.issuing.chk && earlyUse s s.issuing u) &&
  !(acts && u.chans.any (fun c => decide (s.issuingBlock.scr < chOff c.chan + 16))) &&
  (!acts || (chanFault s.issuing s.issuingBlock u.chans).isNone) &&
  !(u.chans.all (fun c => decide ((s.issuingBlock.chan c.chan).depth ≠ 0)) && !chanReady s.issuing s.issuingBlock [] u.chans) &&
  !(acts && ringBusy s u)

/-- A lane word is ready: its prefix has only fields that it accepts (R313), and nothing holds it. The lanes that a zeroing guard clears
are written too (R315, R323). -/
def laneReady (acc : Accept) (uses : List Nat → Uses) (s : State) : Bool :=
  let u := uses (actLanes s)
  pfxOk acc s.iss.pfx && ready (decide (actLanes s ≠ []))
    { u with readM := guardBits s ++ u.readM, writeV := (uses (actLanes s ++ zeroLanes s (actLanes s))).writeV } s

/-- A uniform word is ready: no prefix stands before it (R381), and nothing holds it. -/
def uniReady (u : Uses) (s : State) : Bool := s.iss.pfx.isNone && ready true u s

/-- Every live lane RUNs at the word (R179). -/
def convergedAt (s : State) : Bool :=
  s.issuing.liveLanes.all (fun l => decide ((s.issuing.lane l).st = .run ∧ (s.issuing.lane l).pc = s.iss.pc))

/-! ### What a word keeps -/

/-- The group's uniform registers are unchanged. -/
def keepsUniform (g h : Group) : Prop := ∀ n, h.sreg n = g.sreg n

/-- Its mask registers are unchanged. -/
def keepsMasks (g h : Group) : Prop := ∀ n, getKey 0 h.m n = getKey 0 g.m n

/-- Its lane registers are unchanged. -/
def keepsLaneRegs (g h : Group) : Prop := ∀ r l, h.vreg r l = g.vreg r l

/-- Its push allowances are unchanged. -/
def keepsAllowance (g h : Group) : Prop := ∀ c, h.allowance c = g.allowance c

/-- MODE, MERR, the trap record, HFLAG, the handler, SEEN, the producer bits, the retire queues, the monitor, the L1 floor, and the
traps that stand before the group are unchanged. -/
def keepsStatus (g h : Group) : Prop :=
  h.mode = g.mode ∧ h.merr = g.merr ∧ h.trec = g.trec ∧ h.hf0 = g.hf0 ∧ h.hf1 = g.hf1 ∧ h.handler = g.handler ∧ h.seen = g.seen ∧
  h.prod = g.prod ∧ h.erq = g.erq ∧ h.mon = g.mon ∧ h.floor = g.floor ∧ h.sync = g.sync ∧ h.async = g.async

/-- Every byte of the module's memory and every poison mark is unchanged. -/
def keepsMemory (s t : State) : Prop := (∀ a, readByte t.mem a = readByte s.mem a) ∧ t.poison = s.poison

/-- Everything outside group `k` and the queues of entries is unchanged: the other groups, all blocks, memory, the cores, the engine
operations, the fabric, the Timetable, the Ductus and the control complex. -/
def keepsOthers (k : Nat) (s t : State) : Prop :=
  (∀ j, j ≠ k → t.group j = s.group j) ∧ (∀ b, t.block b = s.block b) ∧ keepsMemory s t ∧ t.cores = s.cores ∧ t.ops = s.ops ∧
  t.fab = s.fab ∧ t.tt = s.tt ∧ t.duc = s.duc ∧ t.ctl = s.ctl

/-- The issued lanes stand at `p l`, with `n` more on the SR count of the lanes in `rows`; nothing else of any lane changes. -/
def lanesAt (sel : List Nat) (p : Nat → Word) (rows : List Nat) (n : Nat) (g h : Group) : Prop :=
  ∀ l, h.lane l = { g.lane l with
    pc := if l ∈ sel then p l else (g.lane l).pc,
    sr := if l ∈ rows then (g.lane l).sr + BitVec.ofNat 32 n else (g.lane l).sr }

/-- All issued lanes stand at one PC. -/
def movedTo (p : Word) (s : State) (g h : Group) : Prop := lanesAt s.iss.sel (fun _ => p) [] 0 g h

/-- The PC after the word being issued. -/
def nextPc (s : State) : Word := s.iss.pc + s.iss.size

/-! ### Lane words (R337) -/

/-- Lane register `r` holds `val l` in the lanes of `act` and 0 in those of `zero`; every other register of every lane is as before. -/
def laneRegs (r : Nat) (act zero : List Nat) (val : Nat → Word) (g h : Group) : Prop :=
  ∀ r' l, l < laneCount →
    h.vreg r' l = if r' = r ∧ l ∈ act then val l else if r' = r ∧ l ∈ zero then 0 else g.vreg r' l

/-- One entry is placed for a push of `x` to channel `c` (R185), and one unit of allowance is taken. -/
def pushed (c : Nat) (x : Word) (g : Group) (h : Group) (s t : State) : Prop :=
  (∃ e, t.entries = s.entries ++ [e] ∧ e.op = .push c g.gid ∧ e.target = .bank g.block (chOff c) ∧ e.data = x.toNat ∧ e.rel = true) ∧
  (∀ k, h.allowance k = if k = c then g.allowance c - 1 else g.allowance k)

/-- The push of a lane word (R337): the value of the lowest lane of act, and nothing with no lane in act. -/
def pushedFirst (c : Nat) (act : List Nat) (val : Nat → Word) (g h : Group) (s t : State) : Prop :=
  match act with
  | [] => keepsAllowance g h ∧ t.entries = s.entries
  | l :: _ => pushed c (val l) g h s t

/-- The destination of a lane word (R337): a register, whose results are available `lat` cycles after the issue (R321), or a push. -/
def laneDst (lat : Nat) (d : Dst) (act zero : List Nat) (val : Nat → Word) (g h : Group) (s t : State) : Prop :=
  match d with
  | .reg r =>
    laneRegs r act zero val g h ∧ keepsAllowance g h ∧ t.entries = s.entries ∧
    (lat ≠ 0 → ∀ l ∈ act, ∃ z ∈ h.hazards, z.isMask = false ∧ z.reg = r ∧ z.lane = l ∧ z.ready = s.clock + lat)
  | .push c => keepsLaneRegs g h ∧ pushedFirst c act val g h s t

/-- A lane word that reads sources in order and writes one destination. `sr` is the number of elements that it rounds in each lane,
`val` the result of a lane of act from the sources of all lanes. -/
structure LaneForm where
  acc : Accept
  uses : List Nat → Uses
  lat : Nat
  sr : Nat
  dst : Dst
  srcs : List Src
  val : State → List Nat → (Nat → List Word) → Nat → Word

/-- A word whose result in a lane comes from that lane's sources alone. -/
def laneForm (acc : Accept) (lat sr : Nat) (d : Dst) (srcs : List Src) (f : State → Nat → List Word → Word) : LaneForm :=
  { acc := acc, uses := laneUses d srcs, lat := lat, sr := sr, dst := d, srcs := srcs, val := fun s _ v l => f s l (v l) }

/-- The sources of a lane word as read, with the state after their channel actions; nothing is read with no lane in act. -/
def sourcesOf (srcs : List Src) (s : State) : List (Nat → Word) × State :=
  if actLanes s = [] then ([], opened s) else readSrcs 0 srcs (opened s)

/-- The effect of a lane word: its destination, its lanes' PCs and SR counts, when the result is available (R321), and nothing else. -/
def LaneForm.effect (f : LaneForm) (s t : State) : Prop :=
  let act := actLanes s
  let src := sourcesOf f.srcs s
  let g := src.2.group s.iss.group
  let h := t.group s.iss.group
  let val := f.val (opened s) act (fun l => src.1.map (fun x => x l))
  lanesAt s.iss.sel (fun _ => nextPc s) (if roundMode s = 4 then act else []) f.sr g h ∧
  keepsUniform g h ∧ keepsMasks g h ∧ keepsStatus g h ∧ keepsOthers s.iss.group src.2 t ∧
  laneDst f.lat f.dst act (zeroLanes s act) val g h src.2 t

/-! ### Uniform words (R383) -/

/-- Uniform register `n` holds `x`, but s0, which keeps 0 (R316); the others are as before. -/
def uniReg (n : Nat) (x : DWord) (g h : Group) : Prop := ∀ m, h.sreg m = if m = n ∧ n ≠ 0 then x else g.sreg m

/-- A uniform destination takes a value: its register, or a push of bits [31:0] (R316). -/
def uniDst (d : Dst) (x : DWord) (g h : Group) (s t : State) : Prop :=
  match d with
  | .reg n => uniReg n x g h ∧ keepsAllowance g h ∧ t.entries = s.entries
  | .push c => keepsUniform g h ∧ pushed c (x.truncate 32) g h s t

/-- A uniform word that reads sources in order and writes one destination. -/
structure UniForm where
  uses : Uses
  dst : Dst
  srcs : List Src
  val : State → List DWord → DWord

def uniForm (d : Dst) (srcs : List Src) (f : State → List DWord → DWord) : UniForm :=
  { uses := uniUses (some d) srcs, dst := d, srcs := srcs, val := f }

/-- The effect of a uniform word: its destination, its lanes' PCs, and nothing else. -/
def UniForm.effect (f : UniForm) (s t : State) : Prop :=
  let src := readUs f.srcs (opened s)
  let g := src.2.group s.iss.group
  let h := t.group s.iss.group
  uniDst f.dst (f.val (opened s) src.1) g h src.2 t ∧ movedTo (nextPc s) s g h ∧ keepsLaneRegs g h ∧ keepsMasks g h ∧
  keepsStatus g h ∧ keepsOthers s.iss.group src.2 t

/-! ### Entries of the ordering machine (R85) -/

/-- What an entry is: its lane, operation, target, the address its word formed, its bytes, its kind, scope and sides, and the data it
carries. -/
structure Shape where
  lane : Option Nat
  op : EntOp
  target : Target
  addr : Nat
  size : Nat
  off : Nat
  kind : Kind
  scope : Nat
  acq : Bool
  rel : Bool
  data : Nat
  data2 : Nat
  deriving DecidableEq, Repr

def shapeOf (e : Entry) : Shape :=
  { lane := e.lane, op := e.op, target := e.target, addr := e.addr, size := e.size, off := e.off, kind := e.kind, scope := e.scope,
    acq := e.acq, rel := e.rel, data := e.data, data2 := e.data2 }

/-- The shape of a uniform word's one RC entry without a lane. -/
def plainShape (op : EntOp) (target : Target) (addr size scope : Nat) (rel : Bool) (data : Nat) : Shape :=
  { lane := none, op := op, target := target, addr := addr, size := size, off := 0, kind := .rc, scope := scope, acq := false, rel := rel,
    data := data, data2 := 0 }

/-- Entries of these shapes are placed behind those that stand, in this order, in the queue of group `k` and with its place in program
order. -/
def places (shapes : List Shape) (k : Nat) (s t : State) : Prop :=
  ∃ es, t.entries = s.entries ++ es ∧ es.map shapeOf = shapes ∧
    ∀ e ∈ es, e.issuer = .group k ∧ e.stage = .gq ∧ e.seq = (s.group k).nextSeq

/-- The shapes of the pieces of one access, in ascending order of address (R87). -/
def pieceShapes (m : MemWord) (op : EntOp) (lane : Option Nat) (addr : Nat) (data : Piece → Nat) (data2 : Nat) (ps : List Piece) : List Shape :=
  ps.map (fun p => { lane := lane, op := op, target := p.target, addr := addr, size := p.n, off := p.off, kind := p.kind, scope := m.scope,
                     acq := m.acq, rel := m.rel, data := data p, data2 := data2 })

/-- The part of a value that a piece carries. -/
def cut (x : Nat) (p : Piece) : Nat := x / 2 ^ (8 * p.off) % 2 ^ (8 * p.n)

/-! ### Memory words of the lanes (R362) -/

/-- Lane registers of a group from `rs` on hold the words of `val l` in the lanes of act, lowest register first, and 0 in those of
`zero`; the others are as before. -/
def wideRegs (rs : List Nat) (act zero : List Nat) (val : Nat → Nat) (g h : Group) : Prop :=
  ∀ r l, l < laneCount →
    h.vreg r l = if r ∈ rs ∧ l ∈ act then BitVec.ofNat 32 (val l / 2 ^ (32 * (r - rs.headD 0)))
      else if r ∈ rs ∧ l ∈ zero then 0 else g.vreg r l

/-- The registers of a load keep their values until the result is written, but for the zeros of a zeroing guard (R315). -/
def zeroedOnly (d : Dst) (w : Nat) (zero : List Nat) (g h : Group) : Prop :=
  match d with
  | .reg r => wideRegs (dataRegs w r) [] zero (fun _ => 0) g h
  | .push _ => keepsLaneRegs g h

/-- A memory word of the lanes: what it is, its operands, and what each lane's entry does. -/
structure MemForm where
  word : MemWord
  use : MemUse
  acc : Accept
  uses : List Nat → Uses
  srcs : List Src
  addr : List Word → Nat
  data : List Word → Nat
  data2 : List Word → Nat
  op : EntOp

/-- The address that a lane forms. -/
def MemForm.at (f : MemForm) (s : State) (l : Nat) : Nat := f.addr ((sourcesOf f.srcs s).1.map (fun x => x l))

/-- The accesses of the lanes of act. -/
def MemForm.accesses (f : MemForm) (s : State) : List Access := (actLanes s).map (fun l => { lane := l, addr := f.at s l })

/-- The pieces of a lane's access. -/
def MemForm.pieces (f : MemForm) (s : State) (l : Nat) : List Piece :=
  piecesOf (opened s) s.iss.group s.issuingBlock f.use { lane := l, addr := f.at s l }

/-- The word passes the checks of R40: no condition of R41, no walk, and, for a word that returns a value, no poison. -/
def MemForm.passes (f : MemForm) (s : State) (reads : Bool) : Prop :=
  lanesOk s ∧ laneReady f.acc f.uses s = true ∧
  (actLanes s ≠ [] → checkAccess (opened s) s.iss.group f.use reads (f.accesses s) = .ok)

/-- The entries that the word places: lane by lane, piece by piece. -/
def MemForm.shapes (f : MemForm) (s : State) (whole : Bool) : List Shape :=
  (actLanes s).flatMap (fun l =>
    let xs := (sourcesOf f.srcs s).1.map (fun x => x l)
    pieceShapes f.word f.op (some l) (f.at s l) (fun p => if whole then f.data xs else cut (f.data xs) p) (f.data2 xs) (f.pieces s l))

/-- The shape of the push of a word that returns a value (R185, R364): it stands before the word's other entries, and its value is still
to come. A register destination has none. -/
def pushShapes (d : Dst) (s : State) : List Shape :=
  match d with
  | .reg _ => []
  | .push c => [plainShape (.push c s.issuing.gid) (.bank s.issuing.block (chOff c)) (chOff c) 16 2 true 0]

/-- The issued lanes move on, and those that wait for another chip are PARKED (R172). -/
def parkedAt (s : State) (parks : Nat → Bool) (g h : Group) : Prop :=
  ∀ l, h.lane l = { g.lane l with
    pc := if l ∈ s.iss.sel then nextPc s else (g.lane l).pc,
    st := if l ∈ actLanes s ∧ parks l = true then .parked else (g.lane l).st }

/-- A word that returns a value to each lane: its entries, the push of its value first, one pending result for each lane, PARKED lanes,
and nothing else but the zeros of a zeroing guard and the allowance of a push. -/
def MemForm.readEffect (f : MemForm) (d : Dst) (s t : State) : Prop :=
  let act := actLanes s
  let src := sourcesOf f.srcs s
  let g := src.2.group s.iss.group
  let h := t.group s.iss.group
  places ((if act = [] then [] else pushShapes d s) ++ f.shapes s true) s.iss.group src.2 t ∧
  (∃ rs, h.results = g.results ++ rs ∧ rs.map (fun r => (r.dst, r.width, r.left)) =
    act.map (fun l => (resultDst d f.word.w (act.headD 0) l, f.word.n, (f.pieces s l).length))) ∧
  parkedAt s (fun l => (f.pieces s l).any Piece.remote) g h ∧ zeroedOnly d f.word.w (zeroLanes s act) g h ∧
  keepsUniform g h ∧ keepsMasks g h ∧ keepsStatus g h ∧
  (∀ c, h.allowance c = if d = .push c ∧ act ≠ [] then g.allowance c - 1 else g.allowance c) ∧ keepsOthers s.iss.group src.2 t

/-- A word that returns nothing: its entries and the PCs. -/
def MemForm.storeEffect (f : MemForm) (s t : State) : Prop :=
  let src := sourcesOf f.srcs s
  let g := src.2.group s.iss.group
  let h := t.group s.iss.group
  places (f.shapes s false) s.iss.group src.2 t ∧ movedTo (nextPc s) s g h ∧ keepsLaneRegs g h ∧ keepsUniform g h ∧ keepsMasks g h ∧
  keepsStatus g h ∧ keepsAllowance g h ∧ keepsOthers s.iss.group src.2 t

/-- A load of a space, width and offset (R366, R368). -/
def loadForm (m : MemWord) (d : Dst) (a : Src) (off : Nat) : MemForm :=
  { word := m, use := m.use false false, acc := accPlain, uses := loadUses d m.w (baseSrcs m.space.wide a), srcs := baseSrcs m.space.wide a,
    addr := addrOf m.space.wide off, data := fun _ => 0, data2 := fun _ => 0, op := .load }

/-- A store (R366, R368). -/
def storeForm (m : MemWord) (v a : Src) (off : Nat) : MemForm :=
  let bs := baseSrcs m.space.wide a
  { word := m, use := m.use true false, acc := accStore, uses := storeUses (bs ++ dataSrcs m.w v), srcs := bs ++ dataSrcs m.w v,
    addr := fun xs => addrOf m.space.wide off (xs.take bs.length), data := fun xs => wordsNat (xs.drop bs.length) % 2 ^ (8 * m.n),
    data2 := fun _ => 0, op := .store }

/-- A returning atomic into registers from `r` on (R369). -/
def atomForm (op : AtomOp) (m : MemWord) (r : Nat) (a b : Src) : MemForm :=
  let bs := baseSrcs m.space.wide a
  let vs := dataSrcs m.w b
  let srcs := bs ++ vs ++ limitSrcs op (.reg r)
  { word := m, use := m.use true true, acc := accAtomic, uses := loadUses (.reg r) m.w srcs, srcs := srcs,
    addr := fun xs => addrOf m.space.wide 0 (xs.take bs.length), data := fun xs => wordsNat ((xs.drop bs.length).take vs.length),
    data2 := fun xs => wordsNat (xs.drop (bs.length + vs.length)), op := .atom op }

/-- A reduction (R373). -/
def reduceForm (op : RedOp) (m : MemWord) (a b : Src) : MemForm :=
  let bs := baseSrcs m.space.wide a
  { word := m, use := m.use true true, acc := accReduce, uses := storeUses (bs ++ [b]), srcs := bs ++ [b],
    addr := fun xs => addrOf m.space.wide 0 (xs.take bs.length), data := fun xs => wordsNat (xs.drop bs.length), data2 := fun _ => 0,
    op := .red op }

/-! ### Memory words of the group (R387) -/

/-- The one access of a uniform word passes the checks of R40. -/
def uniPasses (u : MemUse) (addr : Nat) (reads : Bool) (s : State) : Prop :=
  checkAccess (opened s) s.iss.group u reads [{ lane := 0, addr := addr }] = .ok

/-- The pieces of that access. -/
def uniPieces (u : MemUse) (addr : Nat) (s : State) : List Piece :=
  piecesOf (opened s) s.iss.group s.issuingBlock u { lane := 0, addr := addr }

/-- A uniform word with entries keeps the registers, the status and everything else. -/
def uniKeeps (s1 : State) (s t : State) : Prop :=
  let g := s1.group s.iss.group
  let h := t.group s.iss.group
  movedTo (nextPc s) s g h ∧ keepsLaneRegs g h ∧ keepsUniform g h ∧ keepsMasks g h ∧ keepsOthers s.iss.group s1 t

end Sys2Proof.Claim
end

