-- ==== Sys2Proof/Certificates/Slice0/Obligations.lean ====
section
/-! DEFINITION. The statements for the provers, with the tables of forms that they speak of. -/

namespace Sys2Proof.Claim

open Sys2Proof.Machine

/-! ### Integer words (R339 to R342) -/

/-- The exact integer clamped to 32 signed bits (R339). -/
def clampTo32 (x : Int) : Word := BitVec.ofInt 32 (max (-2 ^ 31) (min (2 ^ 31 - 1) x))

/-- A sum, difference or product that wraps, or under SAT is clamped (R339). -/
def wrapped (s : State) (x : Int) (w : Word) : Word := if pfxSat s then clampTo32 x else w

/-- The words of integer arithmetic with their results (R340, R342). -/
def arithForm (s : State) : Instr → Option LaneForm
  | .iadd d a b => some (laneForm accSat 3 0 d [a, b] (fun s _ => bin (fun x y => wrapped s (x.toInt + y.toInt) (x + y))))
  | .isub d a b => some (laneForm accSat 3 0 d [a, b] (fun s _ => bin (fun x y => wrapped s (x.toInt - y.toInt) (x - y))))
  | .imul d a b => some (laneForm accSat 3 0 d [a, b] (fun s _ => bin (fun x y => wrapped s (x.toInt * y.toInt) (x * y))))
  | .imac d a b => (thirdSrc s d).map (fun c => laneForm { accSat with vc := true } 3 0 d [a, b, c]
      (fun s _ => tern (fun x y z => wrapped s (x.toInt * y.toInt + z.toInt) (x * y + z))))
  | .imulh d a b => some (laneForm accPlain 3 0 d [a, b] (fun _ _ => bin (fun x y =>
      ((x.signExtend 64 * y.signExtend 64) >>> 32).truncate 32)))
  | .imulhn d a b => some (laneForm accPlain 3 0 d [a, b] (fun _ _ => bin (fun x y =>
      ((x.zeroExtend 64 * y.zeroExtend 64) >>> 32).truncate 32)))
  | .imin d a b => some (laneForm accPlain 3 0 d [a, b] (fun _ _ => bin (fun x y => if x.toInt ≤ y.toInt then x else y)))
  | .imax d a b => some (laneForm accPlain 3 0 d [a, b] (fun _ _ => bin (fun x y => if x.toInt ≤ y.toInt then y else x)))
  | .nmin d a b => some (laneForm accPlain 3 0 d [a, b] (fun _ _ => bin (fun x y => if x.toNat ≤ y.toNat then x else y)))
  | .nmax d a b => some (laneForm accPlain 3 0 d [a, b] (fun _ _ => bin (fun x y => if x.toNat ≤ y.toNat then y else x)))
  | .absd d a b => some (laneForm accPlain 3 0 d [a, b] (fun _ _ => bin (fun x y => if y.toInt ≤ x.toInt then x - y else y - x)))
  | .iaddi d a imm => some (laneForm accSat 3 0 d [a]
      (fun s _ => un (fun x => wrapped s (x.toInt + imm.toInt) (x + imm.signExtend 32))))
  | .imuli d a imm => some (laneForm accSat 3 0 d [a]
      (fun s _ => un (fun x => wrapped s (x.toInt * imm.toInt) (x * imm.signExtend 32))))
  | _ => none

/-- The words of logic, shifts, bit fields and moves with their results (R340 to R342). -/
def logicForm (s : State) : Instr → Option LaneForm
  | .and d a b => some (laneForm accPlain 3 0 d [a, b] (fun _ _ => bin (fun x y => x &&& y)))
  | .or d a b => some (laneForm accPlain 3 0 d [a, b] (fun _ _ => bin (fun x y => x ||| y)))
  | .xor d a b => some (laneForm accPlain 3 0 d [a, b] (fun _ _ => bin (fun x y => x ^^^ y)))
  | .andn d a b => some (laneForm accPlain 3 0 d [a, b] (fun _ _ => bin (fun x y => x &&& ~~~y)))
  | .shl d a b => some (laneForm accPlain 3 0 d [a, b] (fun _ _ => bin (fun x y => x <<< y.toNat)))
  | .shr d a b => some (laneForm accPlain 3 0 d [a, b] (fun _ _ => bin (fun x y => x >>> y.toNat)))
  | .sar d a b => some (laneForm accPlain 3 0 d [a, b] (fun _ _ => bin (fun x y => x.sshiftRight y.toNat)))
  | .rol d a b => some (laneForm accPlain 3 0 d [a, b] (fun _ _ => bin (fun x y =>
      (x <<< (y.toNat % 32)) ||| (x >>> (32 - y.toNat % 32)))))
  | .popc d a => some (laneForm accPlain 3 0 d [a] (fun _ _ => un (fun x =>
      BitVec.ofNat 32 ((List.range 32).filter (fun i => x.getLsbD i)).length)))
  | .clz d a => some (laneForm accPlain 3 0 d [a] (fun _ _ => un (fun x =>
      BitVec.ofNat 32 (if x = 0 then 32 else 31 - Nat.log2 x.toNat))))
  | .brev d a => some (laneForm accPlain 3 0 d [a] (fun _ _ => un (fun x => x.reverse)))
  | .bfx d a b => some (laneForm accPlain 3 0 d [a, b] (fun _ _ => bin bfx32))
  | .bfi d a b => (thirdSrc s d).map (fun c => laneForm { accPlain with vc := true } 3 0 d [a, b, c] (fun _ _ => tern bfi32))
  | .sel d a b => (thirdSrc s d).map (fun c => laneForm { accPlain with vc := true } 3 0 d [a, b, c]
      (fun _ _ => tern (fun x y z => if z = 0 then y else x)))
  | .mov d a => some (laneForm accPlain 3 0 d [a] (fun _ _ => un (fun x => x)))
  | .andi d a imm => some (laneForm accPlain 3 0 d [a] (fun _ _ => un (fun x => x &&& imm.zeroExtend 32)))
  | .ori d a imm => some (laneForm accPlain 3 0 d [a] (fun _ _ => un (fun x => x ||| imm.zeroExtend 32)))
  | .xori d a imm => some (laneForm accPlain 3 0 d [a] (fun _ _ => un (fun x => x ^^^ imm.zeroExtend 32)))
  | .shli d a n => some (laneForm accPlain 3 0 d [a] (fun _ _ => un (fun x => x <<< n)))
  | .shri d a n => some (laneForm accPlain 3 0 d [a] (fun _ _ => un (fun x => x >>> n)))
  | .sari d a n => some (laneForm accPlain 3 0 d [a] (fun _ _ => un (fun x => x.sshiftRight n)))
  | .movi d imm => some (laneForm accPlain 3 0 d [] (fun _ _ _ => imm.signExtend 32))
  | .movhi d imm =>
    match d with
    | .reg n => some (laneForm accPlain 3 0 d [.reg n] (fun _ _ => un (fun x => imm ++ x.truncate 16)))
    | .push _ => none
  | _ => none

/-! ### Floating point (R344 to R352) -/

/-- The rounding words and the other f32 words with their results: an exact value rounded once in the lane's mode (R262, R263). -/
def floatForm (s : State) : Instr → Option LaneForm
  | .fadd d a b => some (laneForm accRound 5 1 d [a, b]
      (fun s l => bin (fun x y => (rctx s l).f32 (fAdd (rctx s l).down (fv x) (fv y)))))
  | .fsub d a b => some (laneForm accRound 5 1 d [a, b]
      (fun s l => bin (fun x y => (rctx s l).f32 (fAdd (rctx s l).down (fv x) (fNegate (fv y))))))
  | .fmul d a b => some (laneForm accRound 5 1 d [a, b] (fun s l => bin (fun x y => (rctx s l).f32 (fMul (fv x) (fv y)))))
  | .ffma d a b => (thirdSrc s d).map (fun c => laneForm { accRound with vc := true } 5 1 d [a, b, c]
      (fun s l => tern (fun x y z => (rctx s l).f32 (fAdd (rctx s l).down (fMul (fv x) (fv y)) (fv z)))))
  | .fmin d a b => some (laneForm accPlain 5 0 d [a, b] (fun _ _ => bin fmin32))
  | .fmax d a b => some (laneForm accPlain 5 0 d [a, b] (fun _ _ => bin fmax32))
  | .fabs d a => some (laneForm accPlain 5 0 d [a] (fun _ _ => un (fun x => if isNan32 x then 0x7FC00000 else x &&& 0x7FFFFFFF)))
  | .fneg d a => some (laneForm accPlain 5 0 d [a] (fun _ _ => un (fun x => if isNan32 x then 0x7FC00000 else x ^^^ 0x80000000)))
  | .fclass d a => some (laneForm accPlain 5 0 d [a] (fun _ _ => un fclass32))
  | .hadd2 d a b => some (laneForm accRound 5 2 d [a, b] (fun s l => bin (halfAdd layF16 (rctx s l))))
  | .hmul2 d a b => some (laneForm accRound 5 2 d [a, b] (fun s l => bin (halfMul layF16 (rctx s l))))
  | .hfma2 d a b => (thirdSrc s d).map (fun c => laneForm { accRound with vc := true } 5 2 d [a, b, c]
      (fun s l => tern (halfFma layF16 (rctx s l))))
  | .badd2 d a b => some (laneForm accRound 5 2 d [a, b] (fun s l => bin (halfAdd layBf16 (rctx s l))))
  | .bmul2 d a b => some (laneForm accRound 5 2 d [a, b] (fun s l => bin (halfMul layBf16 (rctx s l))))
  | .bfma2 d a b => (thirdSrc s d).map (fun c => laneForm { accRound with vc := true } 5 2 d [a, b, c]
      (fun s l => tern (halfFma layBf16 (rctx s l))))
  | .cvt d a dst src => some (laneForm accRound 5 1 d [a] (fun s l => un (fun x =>
      fillReg dst (roundTo dst (roundMode s) (pfxSat s) ((rctx s l).coin 0) (valueOf src x.toNat)))))
  | .cvtpk d a dst src =>
    match a with
    | .reg r => some (laneForm accRound 5 (32 / fmtBits dst) d (groupSrcs r (32 / fmtBits dst)) (fun s l => cvtpk dst src (rctx s l)))
    | .ch _ _ => none
  | _ => none

/-- The special functions by function code (R352, R276). -/
def sfuForm : Instr → Option LaneForm
  | .exp2 d a => some (laneForm accPlain 0 0 d [a] (fun _ _ => un (Machine.sfu 0)))
  | .log2 d a => some (laneForm accPlain 0 0 d [a] (fun _ _ => un (Machine.sfu 1)))
  | .rcp d a => some (laneForm accPlain 0 0 d [a] (fun _ _ => un (Machine.sfu 2)))
  | .rsq d a => some (laneForm accPlain 0 0 d [a] (fun _ _ => un (Machine.sfu 3)))
  | .sqrt d a => some (laneForm accPlain 0 0 d [a] (fun _ _ => un (Machine.sfu 4)))
  | .sin d a => some (laneForm accPlain 0 0 d [a] (fun _ _ => un (Machine.sfu 5)))
  | .cos d a => some (laneForm accPlain 0 0 d [a] (fun _ _ => un (Machine.sfu 6)))
  | .tanh d a => some (laneForm accPlain 0 0 d [a] (fun _ _ => un (Machine.sfu 7)))
  | _ => none

/-! ### Cross-lane words (R353 to R359) -/

/-- What lane l takes from lane j in a shuffle (R354): its own value for a lane that does not exist, 0 for one that has exited. -/
def fromLane (s : State) (v : Nat → List Word) (l : Nat) (j : Int) : Word :=
  if j < 0 ∨ 64 ≤ j then (v l).headD 0 else if s.issuing.live j.toNat then (v j.toNat).headD 0 else 0

/-- A shuffle with its lane index from the operand b. -/
def shuffleForm (s : State) (d : Dst) (a : Src) (bs : List Src) (index : Nat → Nat → Int) : LaneForm :=
  { acc := accPlain, uses := shuffleUses d a bs (fun b l => index l (((b l).headD 0).toNat)) s, lat := 0, sr := 0, dst := d, srcs := a :: bs,
    val := fun s _ v l => fromLane s v l (index l (((v l).getD 1 0).toNat)) }

/-- A word over the lanes of act. -/
def acrossForm (d : Dst) (srcs : List Src) (reads : List (Nat × Nat)) (f : State → List Nat → (Nat → List Word) → Nat → Word) : LaneForm :=
  { acc := accPlain, uses := fun act => { laneUses d srcs act with readM := reads }, lat := 0, sr := 0, dst := d, srcs := srcs, val := f }

/-- The lanes of act with a value that is not 0, as 64 bits (R355). -/
def voted (act : List Nat) (v : Nat → List Word) : DWord := maskOf (act.filter (fun j => decide ((v j).headD 0 ≠ 0)))

def crossForm (s : State) : Instr → Option LaneForm
  | .shflx d a b => some (shuffleForm s d a [b] (fun l x => ((l ^^^ x : Nat) : Int)))
  | .shflu d a b => some (shuffleForm s d a [b] (fun l x => (l : Int) - x))
  | .shfld d a b => some (shuffleForm s d a [b] (fun l x => ((l + x : Nat) : Int)))
  | .shfli d a n => some (shuffleForm s d a [] (fun _ _ => (n : Int)))
  | .shflw d a k => some (shuffleForm s d a [] (fun l _ => ((l ^^^ (64 / 2 ^ k) : Nat) : Int)))
  | .voteb d a b => some (acrossForm d [a, b] []
      (fun _ act v l => (voted act v >>> (32 * (((v l).getD 1 0).toNat % 4))).truncate 32))
  | .lred d a seg op => some (acrossForm d [a] [] (fun _ act v l =>
      (lredVals op seg ((List.range 64).map (fun l => if act.contains l then (v l).headD 0 else redIdentity op))).getD l 0))
  | .scan d a head ex op => some (acrossForm d [a] (if head = 0 then [] else (List.range 64).map (fun l => (head, l)))
      (fun s act v l => ((scanFrom op ex (if head = 0 then 0 else readM s s.issuing 14 head)
        (fun l => if act.contains l then (v l).headD 0 else redIdentity op) (List.range 64) (redIdentity op)).lookup l).getD 0))
  | .lsrLaneid d => some (acrossForm d [] [] (fun _ _ _ l => BitVec.ofNat 32 l))
  | .lsrLpc d a => some (acrossForm d [a] [] (fun s _ v l =>
      if ((v l).headD 0).toNat < 64 ∧ s.issuing.live ((v l).headD 0).toNat = true then (s.issuing.lane ((v l).headD 0).toNat).pc
      else 0xFFFFFFFF))
  | .lsrSlice d => some (acrossForm d [] [] (fun _ _ _ l => BitVec.ofNat 32 (l / 16)))
  | .lsrLive d a => some (acrossForm d [a] [] (fun s _ v l =>
      (maskOf s.issuing.liveLanes >>> (32 * (((v l).headD 0).toNat % 4))).truncate 32))
  | _ => none

end Sys2Proof.Claim

open Sys2Proof Sys2Proof.Machine Sys2Proof.Claim

/-- Every integer arithmetic word that is ready completes, with the value of R340 or R342 in each lane of act, wrapped or clamped as
R339 says, every logic, shift, bit-field and move word likewise with its value, and they change nothing else (R337). -/
def Obligations.IntegerWordsComplete : Prop :=
  ∀ (i : Instr) (f : LaneForm) (s : State), arithForm s i = some f ∨ logicForm s i = some f → lanesOk s → laneReady f.acc f.uses s = true →
    ∃ t, exec i s = .next t ∧ f.effect s t

/-- Every f32, packed-half and conversion word to one register that is ready completes with its exact value rounded once, advances the
SR counts of act under SR rounding (R265), and changes nothing else; every special function likewise with its result (within R276; log 7
leaves the neighbour free). -/
def Obligations.FloatWordsComplete : Prop :=
  ∀ (i : Instr) (f : LaneForm) (s : State), floatForm s i = some f ∨ sfuForm i = some f → lanesOk s → laneReady f.acc f.uses s = true →
    ∃ t, exec i s = .next t ∧ f.effect s t

/-- Every shuffle, ballot, reduction, scan and lane status word that is ready completes with its value in each lane of act, and changes
nothing else. That a lane that has exited counts as the operator's identity in LRED and SCAN (R356, R357), and not as the 0 of R181, is the model's
reading (log 76). -/
def Obligations.CrossLaneWordsComplete : Prop :=
  ∀ (i : Instr) (f : LaneForm) (s : State), crossForm s i = some f → lanesOk s → laneReady f.acc f.uses s = true →
    ∃ t, exec i s = .next t ∧ f.effect s t

namespace Sys2Proof.Claim

/-! ### Compares (R343) -/

/-- Bit l of mask `md` is `val l` in the lanes of act and 0 in those of `zero`; every other bit of every mask is as before. -/
def maskBits (md : Nat) (act zero : List Nat) (val : Nat → Bool) (g h : Group) : Prop :=
  ∀ n l, l < laneCount → (getKey 0 h.m n).getLsbD l =
    if n = md ∧ l ∈ act then val l else if n = md ∧ l ∈ zero then false else (getKey 0 g.m n).getLsbD l

/-- Conditions 0 to 5 of R308 between two numbers. -/
def holdsOf (c : Nat) (x y : Int) : Bool :=
  match c with
  | 0 => decide (x = y)
  | 1 => decide (x ≠ y)
  | 2 => decide (x < y)
  | 3 => decide (x ≤ y)
  | 4 => decide (y < x)
  | 5 => decide (y ≤ x)
  | _ => false

/-- The compares: the mask they write, their operands, and the condition. -/
def compareForm : Instr → Option (Nat × Src × Src × (Word → Word → Bool))
  | .icmp md c a b => some (md, a, b, fun x y => holdsOf c x.toInt y.toInt)
  | .ncmp md c a b => some (md, a, b, fun x y => holdsOf c x.toNat y.toNat)
  | .fcmp md c a b => some (md, a, b, condFloat c)
  | _ => none

/-! ### Memory words of the lanes -/

/-- The loads with their spaces, widths and offsets (R366, R368). -/
def loadTable : Instr → Option (MemWord × Dst × Src × Nat)
  | .ldl d a w imm => some (plainWord .virt w 0x48, d, a, imm * 2 ^ w)
  | .ldg d a w imm => some (plainWord .global w 0x4A, d, a, imm * 2 ^ w)
  | .lds d a w imm => some (plainWord .scratch w 0x4C, d, a, imm * 2 ^ w)
  | .ldw d a w imm => some (plainWord .window w 0x4E, d, a, imm * 2 ^ w)
  | .ldp d a w imm => some (plainWord .priv w 0x50, d, a, imm * 2 ^ w)
  | .lda d a w space scope => some ({ plainWord (spaceOf space) w 0x53 with scope := scope, acq := true }, d, a, 0)
  | _ => none

/-- The stores with their spaces, widths and offsets (R366, R368). -/
def storeTable : Instr → Option (MemWord × Src × Src × Nat)
  | .stl v a w imm => some (plainWord .virt w 0x49, v, a, imm * 2 ^ w)
  | .stg v a w imm => some (plainWord .global w 0x4B, v, a, imm * 2 ^ w)
  | .sts v a w imm => some (plainWord .scratch w 0x4D, v, a, imm * 2 ^ w)
  | .stw v a w imm => some (plainWord .window w 0x4F, v, a, imm * 2 ^ w)
  | .stp v a w imm => some (plainWord .priv w 0x51, v, a, imm * 2 ^ w)
  | .str v a w space scope => some ({ plainWord (spaceOf space) w 0x54 with scope := scope, rel := true }, v, a, 0)
  | _ => none

/-- The atomics into a register with their operations and widths (R370). -/
def atomTable : Instr → Option (AtomOp × Nat × Nat × Nat × Src × Src)
  | .aadd (.reg r) a b => some (.add, 2, 0x55, r, a, b)
  | .aincw (.reg r) a b => some (.incw, 2, 0x56, r, a, b)
  | .adecw (.reg r) a b => some (.decw, 2, 0x57, r, a, b)
  | .abadd (.reg r) a b => some (.badd, 2, 0x58, r, a, b)
  | .amin (.reg r) a b => some (.min, 2, 0x59, r, a, b)
  | .amax (.reg r) a b => some (.max, 2, 0x5A, r, a, b)
  | .anmin (.reg r) a b => some (.nmin, 2, 0x5B, r, a, b)
  | .anmax (.reg r) a b => some (.nmax, 2, 0x5C, r, a, b)
  | .aand (.reg r) a b => some (.and, 2, 0x5D, r, a, b)
  | .aor (.reg r) a b => some (.or, 2, 0x5E, r, a, b)
  | .axor (.reg r) a b => some (.xor, 2, 0x5F, r, a, b)
  | .axchg (.reg r) a b => some (.xchg, 2, 0x60, r, a, b)
  | .acas (.reg r) a b => some (.cas, 2, 0x61, r, a, b)
  | .afadd (.reg r) a b => some (.fadd, 2, 0x62, r, a, b)
  | .afmax (.reg r) a b => some (.fmax, 2, 0x63, r, a, b)
  | .aadd64 (.reg r) a b => some (.add, 3, 0x64, r, a, b)
  | _ => none

/-- The reductions with their operations (R373). -/
def reduceTable : Instr → Option (RedOp × Nat × Src × Src)
  | .radd a b => some (.add, 0x65, a, b)
  | .rfadd a b => some (.fadd, 0x66, a, b)
  | .rfmax a b => some (.fmax, 0x67, a, b)
  | .rmax a b => some (.max, 0x68, a, b)
  | .rmin a b => some (.min, 0x69, a, b)
  | .ror a b => some (.or, 0x6A, a, b)
  | _ => none

/-- The inserts with their objects (R374). -/
def insertTable : Instr → Option (SkKind × Src × Src)
  | .skq a b => some (.qsk, a, b)
  | .skh a b => some (.hhl, a, b)
  | .skd a b => some (.dcr, a, b)
  | .ska a b => some (.amx, a, b)
  | _ => none

/-- The object's offset that an insert takes from the lowest lane of act. -/
def insertOff (a b : Src) (s : State) : Nat := (((sourcesOf [a, b] s).1.getD 1 (fun _ => 0)) ((actLanes s).headD 0)).toNat

/-- The values that an insert carries, in ascending lane order. -/
def insertVals (a b : Src) (s : State) : List Word := (actLanes s).map ((sourcesOf [a, b] s).1.headD (fun _ => 0))

/-- The checks of an insert pass (R374): the object's place, no earlier access to it in flight (log 20), no poison, and an object
that is well formed and takes the values. -/
def insertPasses (k : SkKind) (a b : Src) (s : State) : Prop :=
  let o := insertOff a b s
  o % 64 = 0 ∧ 0x300 ≤ o ∧ o + k.size ≤ s.issuingBlock.scr ∧ bankBusy (opened s) s.issuing.block o k.size = false ∧
  poisoned s.issuingBlock.spadBad o k.size = false ∧ wellFormed k (readBytes s.issuingBlock.spad o k.size) = true ∧
  (skInsert k (readBytes s.issuingBlock.spad o k.size) (insertVals a b s)).isSome = true

/-- The accesses of an OB word. -/
def obAccesses (srcs : List Src) (s : State) : List Access :=
  (actLanes s).map (fun l => { lane := l, addr := addrOf false 0 (((sourcesOf srcs s).1.map (fun x => x l)).take 1) })

/-- The checks of R376 pass: every lane's access aligned and inside the reservation of handle `h`. -/
def obPasses (h w : Nat) (as : List Access) (r : ObHandle) (s : State) : Prop :=
  s.issuingBlock.handle h = some r ∧ ∀ x ∈ as, x.addr % 2 ^ w = 0 ∧ x.addr + 2 ^ w ≤ r.length

end Sys2Proof.Claim

/-- Every compare that is ready completes: the bits of act in its mask take the condition, those of a zeroing guard are 0, and nothing
else changes. -/
def Obligations.ComparesComplete : Prop :=
  ∀ (i : Instr) (md : Nat) (a b : Src) (cond : Word → Word → Bool) (s : State), compareForm i = some (md, a, b, cond) → lanesOk s →
    laneReady accPlain (compareUses a b) s = true → ∃ t, exec i s = .next t ∧
      (let src := sourcesOf [a, b] s
       let g := src.2.group s.iss.group
       let h := t.group s.iss.group
       let val := fun l => cond ((src.1.map (fun x => x l)).getD 0 0) ((src.1.map (fun x => x l)).getD 1 0)
       maskBits md (actLanes s) (zeroLanes s (actLanes s)) val g h ∧ movedTo (nextPc s) s g h ∧ keepsLaneRegs g h ∧
       keepsUniform g h ∧ keepsStatus g h ∧ keepsAllowance g h ∧ t.entries = src.2.entries ∧ keepsOthers s.iss.group src.2 t)

/-- CVTN that is ready completes: the packed elements in its first register and the block's scale code in the next (R351), the SR counts
of act under SR rounding, and nothing else. The fused sequence completes with its four registers in each lane of act and the PCs 16
on (R361). -/
def Obligations.PairResultsComplete : Prop :=
  (∀ (r n fmt : Nat) (bound : Src) (s : State), thirdSrc s (.reg r) = some bound → lanesOk s →
    laneReady { accRound with vc := true }
      (fun act => { laneUses (.reg r) (groupSrcs n 4 ++ [bound]) act with writeV := act.flatMap (fun l => [(r, l), (r + 1, l)]) }) s = true →
    ∃ t, exec (.cvtn (.reg r) (.reg n) fmt 0) s = .next t ∧
      (let src := sourcesOf (groupSrcs n 4 ++ [bound]) s
       let g := src.2.group s.iss.group
       let h := t.group s.iss.group
       let res := fun l => cvtn fmt (rctx (opened s) l) ((src.1.map (fun x => x l)).take 4) ((src.1.map (fun x => x l)).getD 4 0)
       (∀ r' l, l < laneCount → h.vreg r' l =
         if r' = r ∧ l ∈ actLanes s then (res l).1 else if r' = r + 1 ∧ l ∈ actLanes s then (res l).2
         else if (r' = r ∨ r' = r + 1) ∧ l ∈ zeroLanes s (actLanes s) then 0 else g.vreg r' l) ∧
       lanesAt s.iss.sel (fun _ => nextPc s) (if roundMode s = 4 then actLanes s else []) 4 g h ∧
       keepsUniform g h ∧ keepsMasks g h ∧ keepsStatus g h ∧ keepsAllowance g h ∧ keepsOthers s.iss.group src.2 t)) ∧
  (∀ (d1 a1 b1 d2 a2 d3 d4 a4 b4 : Nat) (s : State), lanesOk s →
    laneReady accPlain (fun act => { noUses with
      readV := act.flatMap (fun l => (fusedReads d1 a1 b1 d2 a2 d3 a4 b4).map (fun r => (r, l))),
      writeV := act.flatMap (fun l => [d1, d2, d3, d4].map (fun r => (r, l))) }) s = true →
    ∃ t, exec (.fusedSoftmax d1 a1 b1 d2 a2 d3 d4 a4 b4) s = .next t ∧
      (let g := s.issuing
       let h := t.group s.iss.group
       (∀ r l, l < laneCount → h.vreg r l =
         if l ∈ actLanes s then
           ((fusedLane d1 a1 b1 d2 a2 d3 d4 a4 b4 (fun r => g.vreg r l)).reverse.lookup r).getD (g.vreg r l)
         else g.vreg r l) ∧
       movedTo (s.iss.pc + 16) s g h ∧ keepsUniform g h ∧ keepsMasks g h ∧ keepsStatus g h ∧ keepsOthers s.iss.group s t))

/-- Every load of every space and LDA, when it is ready and passes the checks of R40, completes: one entry for each piece of each lane's
access and before them the push to a channel, a pending result for each lane, and no register, no byte of memory and no scratchpad changed but for its channel operands. -/
def Obligations.LaneLoadsComplete : Prop :=
  ∀ (i : Instr) (m : MemWord) (d : Dst) (a : Src) (off : Nat) (s : State), loadTable i = some (m, d, a, off) →
    (loadForm m d a off).passes s true → ∃ t, exec i s = .next t ∧ (loadForm m d a off).readEffect d s t

/-- Every store of every space and STR, when it is ready and passes the checks of R40, completes: its entries carry the lanes' bytes to
the addresses that the lanes form, and nothing is stored yet. -/
def Obligations.LaneStoresComplete : Prop :=
  ∀ (i : Instr) (m : MemWord) (v a : Src) (off : Nat) (s : State), storeTable i = some (m, v, a, off) →
    (storeForm m v a off).passes s false → ∃ t, exec i s = .next t ∧ (storeForm m v a off).storeEffect s t

/-- Every returning atomic that is ready and passes the checks of R40 completes: one entry for each lane of act with its operand (and for
ACAS and ABADD the old value of vd), and a pending result for each lane. Every reduction likewise: its entries carry the operands, no
lane parks and no value returns (R373). -/
def Obligations.LaneAtomicsComplete : Prop :=
  (∀ (i : Instr) (op : AtomOp) (w opc r : Nat) (a b : Src) (s : State), atomTable i = some (op, w, opc, r, a, b) →
    baseOk (prefixWord s w opc).space a = true → (atomForm op (prefixWord s w opc) r a b).passes s true →
    ∃ t, exec i s = .next t ∧ (atomForm op (prefixWord s w opc) r a b).readEffect (.reg r) s t) ∧
  (∀ (i : Instr) (op : RedOp) (opc : Nat) (a b : Src) (s : State), reduceTable i = some (op, opc, a, b) →
    baseOk (prefixWord s 2 opc).space a = true → (reduceForm op (prefixWord s 2 opc) a b).passes s false →
    ∃ t, exec i s = .next t ∧ (reduceForm op (prefixWord s 2 opc) a b).storeEffect s t)

/-- LDC writes the bytes of the constant bank to each lane of act, and SLDC to its uniform register (R25, R366, R388). -/
def Obligations.ConstantLoadsComplete : Prop :=
  (∀ (d : Dst) (a : Src) (w imm : Nat) (s : State), lanesOk s → laneReady accPlain (loadUses d w [a]) s = true →
    (∀ l ∈ actLanes s,
      bankCond (s.grid s.issuingBlock.grid) (2 ^ w) (addrOf false (imm * 2 ^ w) ((sourcesOf [a] s).1.map (fun x => x l))) = none) →
    ∃ t, exec (.ldc d a w imm) s = .next t ∧
      (let src := sourcesOf [a] s
       let g := src.2.group s.iss.group
       let h := t.group s.iss.group
       let val := fun l => readNat (s.grid s.issuingBlock.grid).bank (addrOf false (imm * 2 ^ w) (src.1.map (fun x => x l))) (2 ^ w)
       (match d with
       | .reg r => wideRegs (dataRegs w r) (actLanes s) (zeroLanes s (actLanes s)) val g h ∧ keepsAllowance g h ∧
           t.entries = src.2.entries
       | .push c => keepsLaneRegs g h ∧ pushedFirst c (actLanes s) (fun l => BitVec.ofNat 32 (val l)) g h src.2 t) ∧
       movedTo (nextPc s) s g h ∧ keepsUniform g h ∧ keepsMasks g h ∧ keepsStatus g h ∧ keepsOthers s.iss.group src.2 t)) ∧
  (∀ (d : Dst) (a : Src) (w imm : Nat) (s : State), lanesOk s → uniReady (uniUses (some d) [a]) s = true →
    bankCond (s.grid s.issuingBlock.grid) (2 ^ w) (uniAddr false (readU a (opened s)).1 (imm * 2 ^ w)) = none →
    ∃ t, exec (.sldc d a w imm) s = .next t ∧
      (uniForm d [a] (fun s xs =>
        BitVec.ofNat 64 (readNat (s.grid s.issuingBlock.grid).bank (uniAddr false (xs.getD 0 0) (imm * 2 ^ w)) (2 ^ w)))).effect s t)

/-- Every summary insert that is ready and passes its checks completes: one entry with the values of act in ascending lane order at the
object, and with no lane in act nothing but the PCs (R374). -/
def Obligations.SummaryInsertsComplete : Prop :=
  ∀ (i : Instr) (k : SkKind) (a b : Src) (s : State), insertTable i = some (k, a, b) → lanesOk s →
    laneReady accPlain (storeUses [a, b]) s = true → (actLanes s ≠ [] → insertPasses k a b s) → ∃ t, exec i s = .next t ∧
      (let src := sourcesOf [a, b] s
       let g := src.2.group s.iss.group
       let h := t.group s.iss.group
       places (if actLanes s = [] then [] else
         [{ lane := some ((actLanes s).headD 0), op := .insert k (insertVals a b s), target := .bank g.block (insertOff a b s),
            addr := insertOff a b s, size := k.size, off := 0, kind := .rc, scope := 2, acq := false, rel := false, data := 0,
            data2 := (maskOf (actLanes s)).toNat }]) s.iss.group src.2 t ∧
       movedTo (nextPc s) s g h ∧ keepsLaneRegs g h ∧ keepsUniform g h ∧ keepsMasks g h ∧ keepsStatus g h ∧ keepsAllowance g h ∧
       keepsOthers s.iss.group src.2 t)

/-- OBLD completes with an entry of the bytes that the lanes write to the reservation, the highest lane's where they overlap, and with a mark that holds
its group until they are written; OBST writes the reservation's bytes to the lanes of act (R375, R376). -/
def Obligations.OperandBufferWordsComplete : Prop :=
  (∀ (v a : Src) (w h : Nat) (r : ObHandle) (s : State), lanesOk s → pfxOk accStore s.iss.pfx = true → convergedAt s = true →
    laneReady accStore (storeUses (a :: dataSrcs w v)) s = true → actLanes s ≠ [] →
    obPasses h w (obAccesses (a :: dataSrcs w v) s) r s → ∃ t, exec (.obld v a w h) s = .next t ∧
      (let src := sourcesOf (a :: dataSrcs w v) s
       let g := src.2.group s.iss.group
       let as := obAccesses (a :: dataSrcs w v) s
       let val := fun l => wordsNat ((src.1.map (fun x => x l)).drop 1) % 2 ^ (8 * 2 ^ w)
       let covers := fun (o : Nat) (x : Access) => decide (x.addr ≤ o ∧ o < x.addr + 2 ^ w)
       (∃ id e bytes, t.entries = src.2.entries ++ [e] ∧ e.op = .obld h bytes ∧ e.target = .bank g.block 0 ∧ e.scope = 2 ∧ e.res = some id ∧
         e.issuer = .group s.iss.group ∧ e.whole = wholeSectors (as.map (fun x => (x.addr, 2 ^ w))) ∧
         (∀ o, findKey bytes o = (as.reverse.find? (covers o)).map (fun x => (bytesLE (2 ^ w) (val x.lane)).getD (o - x.addr) 0)) ∧
         (t.group s.iss.group).results = g.results ++ [{ id := id, dst := .ob, width := 0, left := 1, value := 0 }]) ∧
       (∀ b, t.block b = src.2.block b) ∧ keepsMemory src.2 t ∧
       movedTo (nextPc s) s g (t.group s.iss.group) ∧ keepsLaneRegs g (t.group s.iss.group))) ∧
  (∀ (d : Dst) (a : Src) (w h : Nat) (r : ObHandle) (s : State), lanesOk s → pfxOk accPlain s.iss.pfx = true → convergedAt s = true →
    laneReady accPlain (loadUses d w [a]) s = true → actLanes s ≠ [] → obPasses h w (obAccesses [a] s) r s →
    obPoisoned s.issuingBlock r.base (2 ^ w) (obAccesses [a] s) = [] → s.issuing.bad.contains .obRead = false →
    ∃ t, exec (.obst d a w h) s = .next t ∧
      (let src := sourcesOf [a] s
       let g := src.2.group s.iss.group
       let k := t.group s.iss.group
       let val := fun l => readNat s.issuingBlock.ob (r.base + addrOf false 0 (src.1.map (fun x => x l))) (2 ^ w)
       (match d with
       | .reg n => wideRegs (dataRegs w n) (actLanes s) (zeroLanes s (actLanes s)) val g k ∧ t.entries = src.2.entries
       | .push c => keepsLaneRegs g k ∧ pushedFirst c (actLanes s) (fun l => BitVec.ofNat 32 (val l)) g k src.2 t) ∧
       movedTo (nextPc s) s g k ∧ keepsUniform g k ∧ keepsMasks g k ∧ keepsStatus g k ∧ keepsOthers s.iss.group src.2 t))

namespace Sys2Proof.Claim

/-! ### Lane control (R377 to R380) -/

/-- Everything but the lanes' PCs and states is as before. -/
def keepsAllButLanes (s t : State) : Prop :=
  let g := s.group s.iss.group
  let h := t.group s.iss.group
  keepsLaneRegs g h ∧ keepsUniform g h ∧ keepsMasks g h ∧ keepsStatus g h ∧ keepsAllowance g h ∧ t.entries = s.entries ∧
  keepsOthers s.iss.group s t

/-- The lanes that BRA's guard takes (R309, R377). -/
def braTaken (m : Nat) (neg : Bool) (s : State) (l : Nat) : Bool :=
  (if neg then ~~~(readM (opened s) s.issuing 15 m) else readM (opened s) s.issuing 15 m).getLsbD l

/-- The live lanes that a JOIN leaves unheld: those that are neither issued nor HELD (R172). -/
def unheld (s : State) : List Nat :=
  s.issuing.liveLanes.filter (fun l => !s.iss.sel.contains l && decide ((s.issuing.lane l).st ≠ .held))

/-- The live lanes that an EXIT leaves. -/
def left (s : State) : List Nat := s.issuing.liveLanes.filter (fun l => !(actLanes s).contains l)

/-- A trap can be delivered at once to the issuing group: no lane is PARKED, no result is pending (R177, R323), it is in no handler, no
asynchronous trap stands before it, and its context has a trap handler. -/
def canTrap (s : State) : Prop :=
  s.issuing.settled s.clock = true ∧ s.issuing.handler = .none ∧ s.issuing.async = [] ∧ (s.ctxDesc s.issuingBlock.ctx).traph ≠ 0

/-- The lowest PC of these lanes. -/
def lowestPc (p : Word) (ls : List Nat) (g : Group) : Prop := (∃ l ∈ ls, (g.lane l).pc = p) ∧ ∀ l ∈ ls, p.toNat ≤ (g.lane l).pc.toNat

/-- The group has entered its trap handler with NOT_CONVERGED at `p`, for those of the lanes `ls` that are HELD there: its lanes were `x`, each at its
PC (R178, R240, R242). -/
def trapsStuck (p : Word) (ls : List Nat) (x : Nat → Lane) (s : State) (h : Group) : Prop :=
  (∀ l, l < laneCount → h.lane l = { x l with
    shPc := (x l).pc, shSt := (x l).st,
    pc := if (x l).st ≠ .exited then BitVec.ofNat 32 (s.ctxDesc s.issuingBlock.ctx).traph else (x l).pc,
    st := if (x l).st ≠ .exited then .run else .exited }) ∧
  h.trecWord 0 % 256 = 0x0C ∧ (h.trecWord 0 >>> 32).truncate 32 = p ∧ h.trecWord 1 = maskOf (ls.filter (fun l => decide ((x l).pc = p))) ∧
  h.trecWord 5 = s.issuing.merr ∧ h.hf0 = true ∧ h.handler = .trap ∧ keepsLaneRegs s.issuing h ∧ keepsUniform s.issuing h ∧
  keepsMasks s.issuing h ∧ h.mode = s.issuing.mode ∧ h.merr = s.issuing.merr

/-! ### Uniform words (R383 to R386, R389, R390, R398, R408) -/

/-- SCMP's conditions (R384). -/
def scmpHolds (c : Nat) (x y : DWord) : Bool :=
  match c with
  | 0 => decide (x = y)
  | 1 => decide (x ≠ y)
  | 2 => decide (x.toInt < y.toInt)
  | 3 => decide (x.toInt ≤ y.toInt)
  | 4 => decide (x.toNat < y.toNat)
  | _ => decide (x.toNat ≤ y.toNat)

/-- The uniform words that compute, with their results. -/
def uniTable (s : State) : Instr → Option UniForm
  | .sadd d a b => some (uniForm d [a, b] (fun _ => ubin (fun x y => x + y)))
  | .ssub d a b => some (uniForm d [a, b] (fun _ => ubin (fun x y => x - y)))
  | .smul d a b => some (uniForm d [a, b] (fun _ => ubin (fun x y => x * y)))
  | .smulh d a b => some (uniForm d [a, b] (fun _ => ubin (fun x y => ((x.signExtend 128 * y.signExtend 128) >>> 64).truncate 64)))
  | .sand d a b => some (uniForm d [a, b] (fun _ => ubin (fun x y => x &&& y)))
  | .sor d a b => some (uniForm d [a, b] (fun _ => ubin (fun x y => x ||| y)))
  | .sxor d a b => some (uniForm d [a, b] (fun _ => ubin (fun x y => x ^^^ y)))
  | .sshl d a b => some (uniForm d [a, b] (fun _ => ubin (fun x y => x <<< y.toNat)))
  | .sshr d a b => some (uniForm d [a, b] (fun _ => ubin (fun x y => x >>> y.toNat)))
  | .ssar d a b => some (uniForm d [a, b] (fun _ => ubin (fun x y => x.sshiftRight y.toNat)))
  | .smin d a b => some (uniForm d [a, b] (fun _ => ubin (fun x y => if x.toInt ≤ y.toInt then x else y)))
  | .smax d a b => some (uniForm d [a, b] (fun _ => ubin (fun x y => if x.toInt ≤ y.toInt then y else x)))
  | .snmin d a b => some (uniForm d [a, b] (fun _ => ubin (fun x y => if x.toNat ≤ y.toNat then x else y)))
  | .snmax d a b => some (uniForm d [a, b] (fun _ => ubin (fun x y => if x.toNat ≤ y.toNat then y else x)))
  | .scmp d a b c => some (uniForm d [a, b] (fun _ => ubin (fun x y => if scmpHolds c x y then 1 else 0)))
  | .saddi d a imm => some (uniForm d [a] (fun _ => uun (fun x => x + imm.signExtend 64)))
  | .sandi d a imm => some (uniForm d [a] (fun _ => uun (fun x => x &&& imm.signExtend 64)))
  | .sshli d a n => some (uniForm d [a] (fun _ => uun (fun x => x <<< n)))
  | .sshri d a n => some (uniForm d [a] (fun _ => uun (fun x => x >>> n)))
  | .smovi d imm => some (uniForm d [] (fun _ _ => imm.signExtend 64))
  | .smovh d imm => some (uniForm d [dstSrc d] (fun _ => uun (fun x => (x <<< 16) ||| imm.zeroExtend 64)))
  | .slea d a imm => some (uniForm d [a] (fun s => uun (fun x => s.iss.pc.zeroExtend 64 + 4 * (imm.signExtend 64 + x))))
  | .m2s d ma => some { uniForm d [] (fun s _ => readM s s.issuing 0 ma) with uses := { uniUses (some d) [] with readM := maskUse ma } }
  | .mpopc d ma => some { uniForm d [] (fun s _ => BitVec.ofNat 64 (lanesOf (readM s s.issuing 0 ma)).length) with
      uses := { uniUses (some d) [] with readM := maskUse ma } }
  | .v2s d va b => some { uniForm d [b] (fun s xs =>
        if (xs.getD 0 0).toNat < 64 ∧ s.issuing.live (xs.getD 0 0).toNat = true then
          (readV s s.issuing 0 va (xs.getD 0 0).toNat).zeroExtend 64 else 0) with
      uses := { uniUses (some d) [b] with
        readV := if chanReady s.issuing s.issuingBlock [] (uniUses (some d) [b]).chans then v2sReads s va ((readU b s).1).toNat else [] } }
  | .srr d n => some (uniForm d [] (fun s _ => statusValue s n))
  | _ => none

/-- The words that combine two masks (R389). -/
def maskTable : Instr → Option (Nat × Nat × Nat × (DWord → DWord → DWord))
  | .mand md ma mb => some (md, ma, mb, fun x y => x &&& y)
  | .mor md ma mb => some (md, ma, mb, fun x y => x ||| y)
  | .mxor md ma mb => some (md, ma, mb, fun x y => x ^^^ y)
  | .mnot md ma => some (md, ma, ma, fun x _ => ~~~x)
  | _ => none

/-- Mask register `md` holds `x`; the others are as before. -/
def maskReg (md : Nat) (x : DWord) (g h : Group) : Prop := ∀ n, getKey 0 h.m n = if n = md then x else getKey 0 g.m n

/-! ### Uniform memory words (R388, R401, R403) -/

/-- The loads of a uniform register. -/
def uniLoadTable : Instr → Option (MemWord × Dst × Src × Nat)
  | .sldl d a w imm => some (uniPlain .virt w 0x17, d, a, imm * 2 ^ w)
  | .slds d a w imm => some (uniPlain .scratch w 0x19, d, a, imm * 2 ^ w)
  | .sldg d a w imm => some (uniPlain .global w 0x1C, d, a, imm * 2 ^ w)
  | _ => none

/-- The stores of a uniform register. -/
def uniStoreTable : Instr → Option (MemWord × Src × Src × Nat)
  | .sstl v a w imm => some (uniPlain .virt w 0x18, v, a, imm * 2 ^ w)
  | .ssts v a w imm => some (uniPlain .scratch w 0x1A, v, a, imm * 2 ^ w)
  | .sstg v a w imm => some (uniPlain .global w 0x1D, v, a, imm * 2 ^ w)
  | _ => none

/-- The uniform atomics. -/
def uniAtomTable : Instr → Option (AtomOp × MemWord × Dst × Src × Src)
  | .saadd d a b w space => some (.add, uniAtomWord space w 0x39, d, a, b)
  | .sacas d a b w space => some (.cas, uniAtomWord space w 0x3A, d, a, b)
  | .saxchg d a b w space => some (.xchg, uniAtomWord space w 0x3B, d, a, b)
  | _ => none

/-- One pending result of the group. -/
def oneResult (d : Dst) (width left : Nat) (g h : Group) : Prop :=
  ∃ r, h.results = g.results ++ [r] ∧ r.dst = uniResultDst d ∧ r.width = width ∧ r.left = left

/-- The push allowance that a returning uniform word takes. -/
def tookPush (d : Dst) (g h : Group) : Prop := ∀ c, h.allowance c = if d = .push c then g.allowance c - 1 else g.allowance c

end Sys2Proof.Claim

/-- PFX latches its fields (R312); BRA moves each issued lane by its guard and BRX by its own register (R377, R380). -/
def Obligations.LaneBranchesComplete : Prop :=
  (∀ (p : Pfx) (s : State), s.iss.pfx = none → ∃ t, exec (.pfx p) s = .next t ∧
    t.iss.pfx = some p ∧ t.iss.pfxWord = s.iss.word ∧ t.iss.sel = s.iss.sel ∧ t.iss.pc = s.iss.pc ∧ t.groups = s.groups ∧
    t.blocks = s.blocks ∧ t.entries = s.entries ∧ keepsMemory s t) ∧
  (∀ (m : Nat) (neg : Bool) (off : BitVec 16) (s : State), lanesOk s → s.iss.pfx = none →
    ready false { noUses with readM := if m = 0 then [] else s.iss.sel.map (fun l => (m, l)) } s = true →
    ∃ t, exec (.bra m neg off) s = .next t ∧ keepsAllButLanes s t ∧
      lanesAt s.iss.sel (fun l => if braTaken m neg s l then s.iss.pc + off.signExtend 32 * 4 else s.iss.pc + 4) [] 0 s.issuing
        (t.group s.iss.group)) ∧
  (∀ (a : Src) (s : State), lanesOk s → laneReady accStore (storeUses [a]) s = true →
    (∀ l ∈ actLanes s, (((sourcesOf [a] s).1.headD (fun _ => 0)) l).toNat % 4 = 0) → ∃ t, exec (.brx a) s = .next t ∧
      (let src := sourcesOf [a] s
       let g := src.2.group s.iss.group
       let h := t.group s.iss.group
       lanesAt s.iss.sel (fun l => if l ∈ actLanes s then (src.1.headD (fun _ => 0)) l else nextPc s) [] 0 g h ∧
       keepsLaneRegs g h ∧ keepsUniform g h ∧ keepsMasks g h ∧ keepsStatus g h ∧ keepsOthers s.iss.group src.2 t))

/-- JOIN holds the issued lanes while a live lane is unheld, and when none is, releases every live lane past the JOIN and the prefix
before it (R172, R378), or traps NOT_CONVERGED where the live lanes are HELD at two or more PCs (R178); EXIT ends the lanes of act and moves the other
issued lanes on (R379), and where the lanes that remain are all HELD, releases them (R172) or traps likewise (R178). -/
def Obligations.JoinAndExitComplete : Prop :=
  (∀ (s : State), lanesOk s → pfxOk accNone s.iss.pfx = true → unheld s ≠ [] → ∃ t, exec .join s = .next t ∧ keepsAllButLanes s t ∧
    ∀ l, (t.group s.iss.group).lane l = { s.issuing.lane l with st := if l ∈ s.iss.sel then .held else (s.issuing.lane l).st }) ∧
  (∀ (s : State), lanesOk s → pfxOk accNone s.iss.pfx = true → unheld s = [] → s.iss.sel ≠ [] →
    (∀ l ∈ s.iss.sel, (s.issuing.lane l).st = .run) → (∀ l ∈ s.issuing.liveLanes, (s.issuing.lane l).pc = s.iss.pc) →
    ∃ t, exec .join s = .next t ∧ keepsAllButLanes s t ∧
      ∀ l, l < laneCount → (t.group s.iss.group).lane l =
        if l ∈ s.issuing.liveLanes then
          { s.issuing.lane l with
            pc := s.iss.pc + (if ((codeWord s s.iss.group s.iss.pc).map isPfxWord).getD false then 8 else 4), st := .run }
        else s.issuing.lane l) ∧
  (∀ (p : Word) (s : State), lanesOk s → pfxOk accNone s.iss.pfx = true → unheld s = [] → canTrap s →
    (∀ l ∈ s.iss.sel, (s.issuing.lane l).st = .run) → lowestPc p s.issuing.liveLanes s.issuing →
    (∃ l ∈ s.issuing.liveLanes, (s.issuing.lane l).pc ≠ p) → ∃ t, exec .join s = .next t ∧
      trapsStuck p s.issuing.liveLanes (fun l => { s.issuing.lane l with st := if l ∈ s.iss.sel then .held else (s.issuing.lane l).st })
        s (t.group s.iss.group) ∧ keepsOthers s.iss.group s t) ∧
  (∀ (p : Word) (s : State), lanesOk s → laneReady accStore (fun _ => noUses) s = true → (∀ l ∈ s.iss.sel, (s.issuing.lane l).st = .run) →
    left s ≠ [] → (∀ l ∈ left s, (s.issuing.lane l).st = .held ∧ (s.issuing.lane l).pc = p) → ∃ t, exec .exit s = .next t ∧
      (∀ l, l < laneCount → (t.group s.iss.group).lane l =
        if l ∈ actLanes s then { s.issuing.lane l with pc := s.iss.pc, st := .exited }
        else if l ∈ left s then
          { s.issuing.lane l with pc := p + (if ((codeWord s s.iss.group p).map isPfxWord).getD false then 8 else 4), st := .run }
        else if l ∈ s.iss.sel then { s.issuing.lane l with pc := nextPc s } else s.issuing.lane l) ∧
      keepsLaneRegs s.issuing (t.group s.iss.group) ∧ keepsUniform s.issuing (t.group s.iss.group) ∧
      keepsMasks s.issuing (t.group s.iss.group) ∧ keepsStatus s.issuing (t.group s.iss.group) ∧ keepsMemory s t ∧ t.entries = s.entries) ∧
  (∀ (p : Word) (s : State), lanesOk s → laneReady accStore (fun _ => noUses) s = true → canTrap s →
    (∀ l ∈ s.iss.sel, (s.issuing.lane l).st = .run) → (∀ l ∈ left s, (s.issuing.lane l).st = .held) → lowestPc p (left s) s.issuing →
    (∃ l ∈ left s, (s.issuing.lane l).pc ≠ p) → ∃ t, exec .exit s = .next t ∧
      trapsStuck p (left s) (fun l => if l ∈ actLanes s then { s.issuing.lane l with pc := s.iss.pc, st := .exited }
        else if l ∈ s.iss.sel then { s.issuing.lane l with pc := nextPc s } else s.issuing.lane l) s (t.group s.iss.group) ∧
      keepsMemory s t ∧ t.entries = s.entries) ∧
  (∀ (s : State), lanesOk s → laneReady accStore (fun _ => noUses) s = true →
    (left s = [] ∨ ∃ l ∈ left s, (s.issuing.lane l).st ≠ .held) → ∃ t, exec .exit s = .next t ∧
      (∀ l, (t.group s.iss.group).lane l =
        if l ∈ actLanes s then { s.issuing.lane l with pc := s.iss.pc, st := .exited }
        else if l ∈ s.iss.sel then { s.issuing.lane l with pc := nextPc s } else s.issuing.lane l) ∧
      keepsLaneRegs s.issuing (t.group s.iss.group) ∧ keepsUniform s.issuing (t.group s.iss.group) ∧
      keepsMasks s.issuing (t.group s.iss.group) ∧ keepsStatus s.issuing (t.group s.iss.group) ∧ keepsMemory s t ∧ t.entries = s.entries)

/-- Every uniform word that computes, reads a mask or lane, or reads a status register completes when it is ready, with its value in its
destination (s0 keeps 0), and changes nothing else (R383 to R386, R389, R390, R408). -/
def Obligations.UniformWordsComplete : Prop :=
  ∀ (i : Instr) (f : UniForm) (s : State), uniTable s i = some f → lanesOk s → uniReady f.uses s = true →
    ∃ t, exec i s = .next t ∧ f.effect s t

/-- The mask words and S2M write their mask, S2V the issued lanes of its register, and nothing else (R389, R390). -/
def Obligations.MaskWordsComplete : Prop :=
  (∀ (i : Instr) (md ma mb : Nat) (f : DWord → DWord → DWord) (s : State), maskTable i = some (md, ma, mb, f) → lanesOk s →
    uniReady { noUses with readM := maskUse ma ++ maskUse mb } s = true → ∃ t, exec i s = .next t ∧
      (let g := s.issuing
       let h := t.group s.iss.group
       maskReg md (f (readM (opened s) g 0 ma) (readM (opened s) g 1 mb)) g h ∧ movedTo (nextPc s) s g h ∧ keepsLaneRegs g h ∧
       keepsUniform g h ∧ keepsStatus g h ∧ keepsAllowance g h ∧ t.entries = s.entries ∧ keepsOthers s.iss.group s t)) ∧
  (∀ (md : Nat) (a : Src) (s : State), lanesOk s → uniReady (uniUses none [a]) s = true → ∃ t, exec (.s2m md a) s = .next t ∧
      (let src := readU a (opened s)
       let g := src.2.group s.iss.group
       let h := t.group s.iss.group
       maskReg md src.1 g h ∧ movedTo (nextPc s) s g h ∧ keepsLaneRegs g h ∧ keepsUniform g h ∧ keepsStatus g h ∧ keepsAllowance g h ∧
       keepsOthers s.iss.group src.2 t)) ∧
  (∀ (vd : Nat) (a : Src) (s : State), lanesOk s → uniReady { uniUses none [a] with writeV := s.iss.sel.map (fun l => (vd, l)) } s = true →
    ∃ t, exec (.s2v vd a) s = .next t ∧
      (let src := readU a (opened s)
       let g := src.2.group s.iss.group
       let h := t.group s.iss.group
       laneRegs vd s.iss.sel [] (fun _ => src.1.truncate 32) g h ∧ movedTo (nextPc s) s g h ∧ keepsUniform g h ∧ keepsMasks g h ∧
       keepsStatus g h ∧ keepsAllowance g h ∧ keepsOthers s.iss.group src.2 t))

/-- Every uniform load and store that is ready and passes the checks of R40 completes: one entry for each piece, for a load one pending
result and before its pieces the push of it to a channel, and nothing else (R387, R388). Every uniform atomic likewise with its entry and one pending result (R403), and MARM with a compare
at memory and the monitor PENDING on it (R401, R117). -/
def Obligations.UniformMemoryComplete : Prop :=
  (∀ (i : Instr) (m : MemWord) (d : Dst) (a : Src) (off : Nat) (s : State), uniLoadTable i = some (m, d, a, off) → lanesOk s →
    uniReady (uniUses (some d) [a]) s = true →
    uniPasses (m.use false false) (uniAddr m.space.wide (readU a (opened s)).1 off) true s → ∃ t, exec i s = .next t ∧
      (let src := readU a (opened s)
       let g := src.2.group s.iss.group
       let h := t.group s.iss.group
       let addr := uniAddr m.space.wide src.1 off
       let ps := uniPieces (m.use false false) addr s
       places (pushShapes d s ++ pieceShapes m .load none addr (fun _ => 0) 0 ps) s.iss.group src.2 t ∧
       oneResult d m.n ps.length g h ∧ tookPush d g h ∧ keepsStatus g h ∧ uniKeeps src.2 s t)) ∧
  (∀ (i : Instr) (m : MemWord) (v a : Src) (off : Nat) (s : State), uniStoreTable i = some (m, v, a, off) → lanesOk s →
    uniReady (uniUses none [a, v]) s = true →
    uniPasses (m.use true false) (uniAddr m.space.wide ((readUs [a, v] (opened s)).1.getD 0 0) off) false s → ∃ t, exec i s = .next t ∧
      (let src := readUs [a, v] (opened s)
       let g := src.2.group s.iss.group
       let h := t.group s.iss.group
       let addr := uniAddr m.space.wide (src.1.getD 0 0) off
       places (pieceShapes m .store none addr (cut ((src.1.getD 1 0).toNat % 2 ^ (8 * m.n))) 0 (uniPieces (m.use true false) addr s))
         s.iss.group src.2 t ∧ keepsStatus g h ∧ keepsAllowance g h ∧ uniKeeps src.2 s t)) ∧
  (∀ (i : Instr) (op : AtomOp) (m : MemWord) (d : Dst) (a b : Src) (s : State), uniAtomTable i = some (op, m, d, a, b) → lanesOk s →
    uniReady (uniUses (some d) ([a, b] ++ (if op = .cas then [dstSrc d] else []))) s = true →
    uniPasses (m.use true true) (uniAddr m.space.wide ((readUs [a, b] (opened s)).1.getD 0 0) 0) true s → ∃ t, exec i s = .next t ∧
      (let src := readUs [a, b] (opened s)
       let g := src.2.group s.iss.group
       let h := t.group s.iss.group
       let addr := uniAddr m.space.wide (src.1.getD 0 0) 0
       let ps := uniPieces (m.use true true) addr s
       places (pushShapes d s ++ pieceShapes m (.atom op) none addr (fun _ => (src.1.getD 1 0).toNat % 2 ^ (8 * m.n))
         (if op = .cas then ((readU (dstSrc d) (opened s)).1).toNat % 2 ^ (8 * m.n) else 0) ps) s.iss.group src.2 t ∧
       oneResult d m.n ps.length g h ∧ tookPush d g h ∧ keepsStatus g h ∧ uniKeeps src.2 s t)) ∧
  (∀ (d : Dst) (a b : Src) (w space : Nat) (s : State), lanesOk s → uniReady (uniUses (some d) [a, b]) s = true →
    uniPasses ((uniPlain (spaceOf space) (2 + w) 0x37).use false true)
      (uniAddr (spaceOf space).wide ((readUs [a, b] (opened s)).1.getD 0 0) 0) true s → ∃ t, exec (.marm d a b w space) s = .next t ∧
      (let src := readUs [a, b] (opened s)
       let g := src.2.group s.iss.group
       let h := t.group s.iss.group
       let m := uniPlain (spaceOf space) (2 + w) 0x37
       let addr := uniAddr (spaceOf space).wide (src.1.getD 0 0) 0
       let x := (src.1.getD 1 0).toNat % 2 ^ (8 * m.n)
       let ps := uniPieces (m.use false true) addr s
       places (pushShapes d s ++ (pieceShapes m (.marm x) none addr (fun _ => x) 0 ps).map (fun z => { z with kind := .rc }))
         s.iss.group src.2 t ∧
       oneResult d m.n ps.length g h ∧ tookPush d g h ∧ h.mon = .pending ∧ h.monEntry = (t.entries.getLast?.map Entry.id).getD 0 ∧
       movedTo (nextPc s) s g h ∧ keepsLaneRegs g h ∧ keepsUniform g h ∧ keepsMasks g h ∧ keepsMemory src.2 t))

namespace Sys2Proof.Claim

/-! ### Uniform control (R391 to R393, R407) -/

/-- The uniform branches: what they use and read, whether s62 takes the return offset, and where all issued lanes go. -/
structure BranchForm where
  uses : Uses
  srcs : List Src
  link : Bool
  aligned : List DWord → Bool
  target : Word → List DWord → Word

/-- A branch that is always aligned. -/
def branchForm (uses : Uses) (srcs : List Src) (target : Word → List DWord → Word) : BranchForm :=
  { uses := uses, srcs := srcs, link := false, aligned := fun _ => true, target := target }

/-- A jump to an offset in a register, which must be a multiple of 4 (R392). -/
def jumpForm (a : Src) : BranchForm :=
  let aligned := fun (xs : List DWord) => decide ((xs.getD 0 0).toNat % 4 = 0)
  { branchForm (uniUses none [a]) [a] (fun _ xs => (xs.getD 0 0).truncate 32) with aligned := aligned }

def branchTable : Instr → Option BranchForm
  | .nop => some (branchForm noUses [] (fun p _ => p + 4))
  | .yield => some (branchForm noUses [] (fun p _ => p + 4))
  | .br off => some (branchForm noUses [] (fun p _ => p + off.signExtend 32 * 4))
  | .brz a off => some (branchForm (uniUses none [a]) [a]
      (fun p xs => if xs.getD 0 0 = 0 then p + off.signExtend 32 * 4 else p + 4))
  | .brnz a off => some (branchForm (uniUses none [a]) [a]
      (fun p xs => if xs.getD 0 0 = 0 then p + 4 else p + off.signExtend 32 * 4))
  | .call off => some { branchForm (uniUses (some (.reg 62)) []) [] (fun p _ => p + off.signExtend 32 * 4) with link := true }
  | .ret => some (jumpForm (.reg 62))
  | .brxs a => some (jumpForm a)
  | _ => none

/-! ### Status registers (R408, R409) -/

/-- What a write of `x` to status register `n` leaves there, by register (R408). -/
def statusWritten (n : Nat) (x : DWord) (g h : Group) (b : Block) : Prop :=
  if n = 0x021 then h.merr = (if x &&& 0x7FE = 0 then 0 else (x &&& 0x7FE) ||| 1)
  else if 0x100 ≤ n ∧ n < 0x180 then
    h.lane (n - 0x100) = { g.lane (n - 0x100) with
      shPc := x.truncate 32, pc := (h.lane (n - 0x100)).pc,
      shSt := if x.toNat / 2 ^ 32 % 4 = 0 then .run else if x.toNat / 2 ^ 32 % 4 = 1 then .held else .exited }
  else if 0x200 ≤ n ∧ n < 0x210 then
    h.allowance (n - 0x200) = x.toNat % 512 ∧ h.prod.getLsbD (n - 0x200) = x.getLsbD 16
  else if n = 0x210 then h.seen = x.truncate 16
  else if 0x220 ≤ n ∧ n < 0x228 then h.trecWord (n - 0x220) = x &&& recordBits (n - 0x220)
  else if n = 0x230 then h.hf0 = x.getLsbD 0 ∧ h.hf1 = x.getLsbD 1
  else ∀ e, e < 16 → getKey 0 b.pushers ((n - 0x300) / 16 * 256 + 16 * ((n - 0x300) % 16) + e) = x.toNat / 16 ^ e % 16

/-! ### Traps (R240 to R242) -/

/-- The group has entered its trap handler for a word's trap (R240, R242): shadows, record, lanes, HFLAG and mark. -/
def entersTrap (code flags : Nat) (aux : DWord) (traph : Nat) (s : State) (g h : Group) : Prop :=
  (∀ l, l < laneCount → h.lane l = { g.lane l with
    shPc := (g.lane l).pc, shSt := (g.lane l).st,
    pc := if (g.lane l).st ≠ .exited then BitVec.ofNat 32 traph else (g.lane l).pc,
    st := if (g.lane l).st ≠ .exited then .run else .exited }) ∧
  h.trecWord 0 = BitVec.ofNat 64 (code + flags * 256 + s.iss.pc.toNat * 2 ^ 32) ∧ h.trecWord 1 = maskOf s.iss.sel ∧
  h.trecWord 5 = g.merr ∧ h.trecWord 6 = aux ∧ h.hf0 = true ∧ h.handler = .trap ∧ h.sync = none ∧
  keepsLaneRegs g h ∧ keepsUniform g h ∧ keepsMasks g h ∧ h.mode = g.mode ∧ h.merr = g.merr

/-! ### Barriers, channels and waits -/

/-- The L1 floor of the group is at the core's fill counter: an acquire side at .chp (R96, R101). -/
def floorRaised (s : State) (h : Group) : Prop := h.floor = (s.core (coreOf s.iss.group)).fc

/-- The issued lanes move on, no register changes, and no byte of memory changes. -/
def stepsPast (s1 s t : State) : Prop :=
  let g := s1.group s.iss.group
  let h := t.group s.iss.group
  movedTo (nextPc s) s g h ∧ keepsLaneRegs g h ∧ keepsUniform g h ∧ keepsMasks g h ∧ keepsMemory s1 t

/-- Nothing stands before a release side of a scope: the group's earlier RC and SO entries have performed at it, at .grd and .pod no
path is unflushed (R97, R112), and no store that the word waited for has timed out (R138). -/
def released (scope : Nat) (s : State) : Prop :=
  s.issuing.rel ≠ some (s.iss.pc, true) ∧ earlierDone s s.iss.group scope = true ∧ (scope < 4 ∨ s.issuing.flushed = true)

/-- The barrier object of `k` lies in the allocation (R54). -/
def barrierIn (k : Nat) (s : State) : Prop := barOff k + 32 ≤ s.issuingBlock.scr

/-- The barrier's parity has moved past what the group has seen, and no arrival of the group is on its way (R186, R395). -/
def barrierPassed (k : Nat) (s : State) : Prop :=
  arrivalPending s s.iss.group k = false ∧ decide (s.issuingBlock.barPhase k % 2 = 1) ≠ s.issuing.seen.getLsbD k

/-- Nothing but a walk for an address is asked for, and the group waits for it at its word (R39). -/
def asksWalk (va : Nat) (s t : State) : Prop :=
  let k := s.iss.group
  (t.group k).waiting = .walk ∧ (∃ w ∈ t.walks, w.peer = false ∧ w.quiet = true ∧ w.group = k ∧ w.va = va) ∧
  (∀ w ∈ s.walks, w ∈ t.walks) ∧ (∀ l, (t.group k).lane l = (s.group k).lane l) ∧ keepsLaneRegs (s.group k) (t.group k) ∧ keepsUniform (s.group k) (t.group k) ∧
  keepsMasks (s.group k) (t.group k) ∧ (∀ g, g ≠ k → t.group g = s.group g) ∧ keepsMemory s t ∧ t.blocks = s.blocks ∧
  t.l2 = s.l2 ∧ t.cores = s.cores

end Sys2Proof.Claim

/-- The CACHE forms and PREF complete: L1 lines and L2 lines change as R414 says, for an address that is unmapped, not canonical or outside HBM
nothing does, and no register, byte or poison mark changes. An address that no TLB holds has a walk first (R39; that it leaves the tables and the TLBs as
they are is log 105). -/
def Obligations.CacheWordsComplete : Prop :=
  ∀ (a : Src) (s : State), lanesOk s → uniReady (uniUses none [a]) s = true →
    (let src := readU a (opened s)
     let core := coreOf s.iss.group
     let found := s.probe s.iss.group src.1.toNat
     let line := (found.getD none).map (fun p => p.1 / 128)
     let free := fun (n : Nat) => lineQueued s s.iss.group n = false
     (found = none → ∀ i ∈ [Instr.cacheL1inv a, Instr.cacheL1all a, Instr.cacheL2wb a, Instr.cacheL2wbinv a], ∃ t, exec i s = .next t ∧
       asksWalk src.1.toNat s t) ∧
     (found ≠ none → (∀ n, line = some n → free n) → ∃ t, exec (.cacheL1inv a) s = .next t ∧ stepsPast src.2 s t ∧ t.l2 = s.l2 ∧
       (∀ n, line = some n → (t.core core).l1 = l1Drop (s.core core).l1 (n * 128) 128) ∧ (line = none → t.cores = s.cores)) ∧
     (found ≠ none → (∀ n, line = some n → free n) → ∃ t, exec (.cacheL1all a) s = .next t ∧ stepsPast src.2 s t ∧ t.l2 = s.l2 ∧
       (∀ n, line = some n → (t.core core).l1 = []) ∧ (line = none → t.cores = s.cores)) ∧
     (found ≠ none → (∀ n, line = some n → free n) → ∃ t, exec (.cacheL2wb a) s = .next t ∧ stepsPast src.2 s t ∧ t.cores = s.cores ∧
       (∀ n d, line = some n → findKey s.l2 n = some d → findKey t.l2 n = some { d with dirty := false }) ∧ (line = none → t.l2 = s.l2)) ∧
     (found ≠ none → (∀ n, line = some n → free n) → ∃ t, exec (.cacheL2wbinv a) s = .next t ∧ stepsPast src.2 s t ∧ t.cores = s.cores ∧
       (∀ n, line = some n → findKey t.l2 n = none) ∧ (line = none → t.l2 = s.l2)) ∧
     (∀ space va, prefVa s space src.1.toNat = some va → s.probe s.iss.group va = none → ∃ t, exec (.pref a space) s = .next t ∧ asksWalk va s t) ∧
     (∀ space found, (match prefVa s space src.1.toNat with
       | none => some none
       | some va => s.probe s.iss.group va) = some found → ∃ t, exec (.pref a space) s = .next t ∧ stepsPast src.2 s t ∧
       (∀ pa kind nc, found = some (pa, kind, nc) → kind ≠ .so → (findKey t.l2 (pa / 128)).isSome = true) ∧
       (found = none → t.l2 = s.l2 ∧ t.cores = s.cores)))

/-- NOP, YIELD, the uniform branches, CALL, RET, BRXS and DLY complete when they are ready: all issued lanes go to one PC, CALL leaves the
return offset in s62, DLY the earliest next issue, and nothing else changes (R391 to R393, R407). -/
def Obligations.UniformBranchesComplete : Prop :=
  (∀ (i : Instr) (f : BranchForm) (s : State), branchTable i = some f → lanesOk s → uniReady f.uses s = true →
    f.aligned (readUs f.srcs (opened s)).1 = true → ∃ t, exec i s = .next t ∧
      (let src := readUs f.srcs (opened s)
       let g := src.2.group s.iss.group
       let h := t.group s.iss.group
       movedTo (f.target s.iss.pc src.1) s g h ∧
       (if f.link then uniReg 62 ((s.iss.pc + 4).zeroExtend 64) g h else keepsUniform g h) ∧ keepsLaneRegs g h ∧ keepsMasks g h ∧
       keepsStatus g h ∧ keepsAllowance g h ∧ t.entries = src.2.entries ∧ keepsOthers s.iss.group src.2 t)) ∧
  (∀ (n : Nat) (s : State), lanesOk s → uniReady noUses s = true → ∃ t, exec (.dly n) s = .next t ∧ stepsPast s s t ∧
    (t.group s.iss.group).dlyUntil = s.clock + n + 1 ∧ keepsStatus s.issuing (t.group s.iss.group) ∧ keepsOthers s.iss.group s t)

/-- SRW to MODE keeps the legal bits and clears every SR count; SRW to MERR, and in a frozen block to the restore-only registers with a
value that they accept, leaves the value that R408 lays out (R261, R266, R244, R409); which bits of the trap record's words are kept is the model's
choice (log 86). -/
def Obligations.StatusWritesComplete : Prop :=
  (∀ (a : Src) (s : State), lanesOk s → uniReady (uniUses none [a]) s = true → (readU a (opened s)).1.toNat % 8 < 5 →
    ∃ t, exec (.srwMode a) s = .next t ∧
      (let src := readU a (opened s)
       let g := src.2.group s.iss.group
       let h := t.group s.iss.group
       h.mode = src.1 &&& 0xFFFFFFFF00000017 ∧ (∀ l, l < laneCount → (h.lane l).sr = 0) ∧
       (∀ l, (h.lane l).pc = if l ∈ s.iss.sel then nextPc s else (g.lane l).pc) ∧ keepsLaneRegs g h ∧ keepsUniform g h ∧
       keepsMasks g h ∧ h.merr = g.merr ∧ h.trec = g.trec ∧ keepsOthers s.iss.group src.2 t)) ∧
  (∀ (a : Src) (n : Nat) (s : State), lanesOk s → uniReady (uniUses none [a]) s = true →
    (n = 0x021 ∨ restoreOnly n = true ∧ s.issuingBlock.frozen = true ∧ statusValueOk s.issuingBlock n (readU a (opened s)).1 = true) →
    ∃ t, exec (.srw a n) s = .next t ∧
      (let src := readU a (opened s)
       let g := src.2.group s.iss.group
       let h := t.group s.iss.group
       statusWritten n src.1 g h (t.block g.block) ∧
       (∀ l, (h.lane l).pc = if l ∈ s.iss.sel then nextPc s else (g.lane l).pc) ∧ keepsLaneRegs g h ∧ keepsUniform g h ∧
       keepsMasks g h ∧ h.mode = g.mode ∧ keepsMemory src.2 t))

/-- TRAP takes the entry of R240 at its own PC with SW_TRAP, sel in LANES and its code in AUX; the word of each code is opcode 0x4E of
the uniform map with the code in bits [7:0], TRAP #7 is 0xCE00_0007, and other words of that opcode are none (R410). -/
def Obligations.SoftwareTrapEnters : Prop :=
  (∀ (code : Nat) (s : State), lanesOk s → uniReady noUses s = true → canTrap s → ∃ t, exec (.trap code) s = .next t ∧
    entersTrap 0x10 2 (BitVec.ofNat 64 code) (s.ctxDesc s.issuingBlock.ctx).traph s s.issuing (t.group s.iss.group) ∧
    keepsOthers s.iss.group s t) ∧
  (∀ (code : Nat), code < 256 → decodeWord (0xCE000000 + code) = .ok (.trap code)) ∧
  (∀ (x : Nat), 256 ≤ x → x < 2 ^ 24 → ∃ r, decodeWord (0xCE000000 + x) = .error r) ∧ decodeWord 0xCE000007 = .ok (.trap 7)

namespace Sys2Proof.Claim

/-! ### Returns from handlers (R412, R243, R245) -/

/-- A lane as its trap shadow has it. -/
def unshadowed (x : Lane) : Lane := { x with pc := x.shPc, st := x.shSt }

/-- Some lane goes on from its shadow, so that no JOIN is decided by the return. -/
def someGoesOn (g : Group) : Prop := ∃ l, l < laneCount ∧ ((g.lane l).shSt = .run ∨ (g.lane l).shSt = .parked)

/-- The blocks of the issuing group's unit on this chip. -/
def unitHere (s : State) : List (Nat × Block) := s.unitBlocks s.issuingBlock.grid (unitIndex s s.issuingBlock)

end Sys2Proof.Claim

/-- TRET and TRET.skip return from each handler (R412). From a trap handler every lane goes back to its shadow, and with .skip the lanes of a
synchronous record that stand at its PC move past the word. From a save handler the group waits for the others of its unit, and the last one releases
every block of the unit, which is kept for its restore, and contributes PREEMPT KIND 1 (R243). From a restore handler the group waits for the others
of its block, and the last one thaws it: each group goes on from its shadow, in its trap handler where HFLAG bit 0 says so, or takes the trap that bit
1 says is pending (R245, R412). In no handler TRET traps PROTECTION. TREC places the record's 64 bytes as one store entry at .blk (R413). -/
def Obligations.HandlerReturnsComplete : Prop :=
  (∀ (skip : Bool) (s : State), uniReady noUses s = true → s.issuing.handler = .trap → someGoesOn s.issuing →
    (skip = true → s.issuing.trecWord 0 >>> 8 &&& 4 ≠ 0) → ∃ t, exec (if skip then .tretSkip else .tret) s = .next t ∧
      (let g := s.issuing
       let h := t.group s.iss.group
       (∀ l, l < laneCount → h.lane l = unshadowed (g.lane l)) ∧ h.hf0 = false ∧
       h.hf1 = decide (g.async ≠ []) ∧ h.handler = .none ∧ keepsLaneRegs g h ∧ keepsUniform g h ∧ keepsMasks g h ∧
       keepsOthers s.iss.group s t)) ∧
  (∀ (s : State), uniReady noUses s = true → s.issuing.handler = .trap → s.issuing.trecWord 0 >>> 8 &&& 4 = 0 →
    (∃ l, l < laneCount ∧ (((s.issuing.lane l).shSt = .run ∨ (s.issuing.lane l).shSt = .parked) ∨
      l ∈ lanesOf (s.issuing.trecWord 1) ∧ (s.issuing.lane l).shPc = (s.issuing.trecWord 0 >>> 32).truncate 32)) →
    ∃ t, exec .tretSkip s = .next t ∧
      (let g := s.issuing
       let h := t.group s.iss.group
       let pc : Word := (g.trecWord 0 >>> 32).truncate 32
       let step : Word := if g.trecWord 0 >>> 8 &&& 8 = 0 then 4 else 8
       (∀ l, l < laneCount → h.lane l =
         if l ∈ lanesOf (g.trecWord 1) ∧ (g.lane l).shPc = pc then { g.lane l with pc := pc + step, st := .run }
         else unshadowed (g.lane l)) ∧
       h.hf0 = false ∧ h.handler = .none ∧ keepsLaneRegs g h ∧ keepsUniform g h ∧ keepsMasks g h ∧ keepsOthers s.iss.group s t)) ∧
  (∀ (skip : Bool) (s : State), uniReady noUses s = true → s.issuing.handler = .save →
    (∃ p ∈ unitHere s, ∃ k ∈ p.2.groups, k ≠ s.iss.group ∧ (s.group k).savedOrEnded = false) →
    ∃ t, exec (if skip then .tretSkip else .tret) s = .next t ∧ (t.group s.iss.group).handler = .saved ∧
      keepsLaneRegs s.issuing (t.group s.iss.group) ∧ keepsUniform s.issuing (t.group s.iss.group) ∧ keepsOthers s.iss.group s t) ∧
  (∀ (skip : Bool) (s : State), uniReady noUses s = true → s.issuing.handler = .save →
    (∀ p ∈ unitHere s, ∀ k ∈ p.2.groups, k = s.iss.group ∨ (s.group k).savedOrEnded = true) →
    ∃ t, exec (if skip then .tretSkip else .tret) s = .next t ∧
      (∃ e, t.duc.pendEvents = s.duc.pendEvents ++ [e] ∧ e.typ = 0x0007 ∧ e.origin = s.fab.pos ∧ e.seq = s.duc.nextEvSeq ∧
        e.body = evBody [(16, 1, 1), (18, 2, s.issuingBlock.grid), (20, 4, unitIndex s s.issuingBlock)]) ∧
      (∀ p ∈ unitHere s, findKey t.blocks p.1 = none ∧ (∀ q ∈ t.groups, q.2.resident = true → q.2.block ≠ p.1) ∧
        (p.2.held = false → (∀ q ∈ unitHere s, q.2.blockId = p.2.blockId → q = p) →
          findKey t.saved (savedKey p.2.grid p.2.blockId) =
            some ⟨p.2.handles, p.2.departed, (p.2.members.filter (fun m => m.2.departed)).map Prod.fst⟩)) ∧ keepsMemory s t) ∧
  (∀ (skip : Bool) (s : State), uniReady noUses s = true → s.issuing.handler = .restore →
    (∃ k ∈ s.issuingBlock.groups, k ≠ s.iss.group ∧ (s.group k).ended = false ∧ (s.group k).handler ≠ .restored) →
    ∃ t, exec (if skip then .tretSkip else .tret) s = .next t ∧ (t.group s.iss.group).handler = .restored ∧
      (∀ l, l < laneCount → (t.group s.iss.group).lane l = unshadowed (s.issuing.lane l)) ∧
      keepsLaneRegs s.issuing (t.group s.iss.group) ∧ keepsUniform s.issuing (t.group s.iss.group) ∧ keepsOthers s.iss.group s t) ∧
  (∀ (skip : Bool) (s : State), uniReady noUses s = true → s.issuing.handler = .restore → s.issuingBlock.groups.Nodup →
    (∀ k ∈ s.issuingBlock.groups, k = s.iss.group ∨ (s.group k).ended = true ∨ (s.group k).handler = .restored) →
    ∃ t, exec (if skip then .tretSkip else .tret) s = .next t ∧
      (t.block s.issuing.block).frozen = false ∧ (t.block s.issuing.block).restoring = false ∧ keepsMemory s t ∧
      (∀ k ∈ s.issuingBlock.groups, (s.group k).ended = false →
        (let g := s.group k
         let h := t.group k
         keepsLaneRegs g h ∧ keepsUniform g h ∧ keepsMasks g h ∧
         (g.hf1 = false → someGoesOn g → (∀ l, l < laneCount → h.lane l = unshadowed (g.lane l)) ∧
           h.handler = (if g.hf0 then .trap else .none) ∧ h.hf0 = g.hf0) ∧
         (g.hf1 = true → g.trecWord 0 % 256 ≠ 0x11 → (s.ctxDesc (s.block g.block).ctx).traph ≠ 0 →
           (∀ l, l < laneCount → h.lane l = { unshadowed (g.lane l) with
             pc := if (g.lane l).shSt ≠ .exited then BitVec.ofNat 32 (s.ctxDesc (s.block g.block).ctx).traph else (g.lane l).shPc,
             st := if (g.lane l).shSt ≠ .exited then .run else .exited }) ∧ h.handler = .trap ∧ h.hf0 = true)))) ∧
  (∀ (skip : Bool) (s : State), uniReady noUses s = true → canTrap s → ∃ t, exec (if skip then .tretSkip else .tret) s = .next t ∧
    entersTrap 0x05 2 0 (s.ctxDesc s.issuingBlock.ctx).traph s s.issuing (t.group s.iss.group) ∧ keepsOthers s.iss.group s t) ∧
  (∀ (a : Src) (s : State), lanesOk s → uniReady (uniUses none [a]) s = true →
    (let src := readU a (opened s)
     let o := src.1.toNat % 2 ^ 32
     o % 64 = 0 → o + 64 ≤ s.issuingBlock.scr → (0x300 ≤ o ∨ s.issuingBlock.frozen = true) → ∃ t, exec (.trec a) s = .next t ∧
      places [plainShape .store (.bank (src.2.group s.iss.group).block o) o 64 2 false (natLE s.issuing.recordBytes)] s.iss.group src.2 t ∧
      uniKeeps src.2 s t))

/-- The barrier words complete (R394 to R396): BARI leaves the object at EXPECT with no arrival and clears SEEN of the block's groups, BARA
and the first issue of BARAW place an arrival, which carries MERR as it stands at issue (the model's choice, log 75), BARW and BARAW pass once the parity has moved and raise the L1 floor, and BARST reads
the error bits. -/
def Obligations.BarrierWordsComplete : Prop :=
  (∀ (k : Nat) (a : Src) (s : State), k < 16 → lanesOk s → uniReady (uniUses none [a]) s = true → barrierIn k s →
    1 ≤ (readU a (opened s)).1.toNat → (readU a (opened s)).1.toNat ≤ 65535 → released 2 s → ∃ t, exec (.bari k a) s = .next t ∧
      (let src := readU a (opened s)
       let bk := (src.2.group s.iss.group).block
       let b := t.block bk
       b.barPhase k = 0 ∧ b.barExpect k = src.1.toNat ∧ readNat b.spad (barOff k + 4) 2 = 0 ∧ readNat b.spad (barOff k + 8) 16 = 0 ∧
       (∀ o, o < barOff k ∨ barOff k + 24 ≤ o → readByte b.spad o = readByte (src.2.block bk).spad o) ∧
       (∀ g ∈ (src.2.block bk).groups, (t.group g).seen.getLsbD k = false) ∧ stepsPast src.2 s t)) ∧
  (∀ (k : Nat) (s : State), lanesOk s → uniReady noUses s = true → barrierIn k s → s.issuingBlock.barExpect k ≠ 0 →
    ∃ t, exec (.bara k) s = .next t ∧
      places [plainShape (.arrive k s.issuing.merr) (.bank s.issuing.block (barOff k)) (barOff k) 16 2 true 0] s.iss.group s t ∧
      keepsStatus s.issuing (t.group s.iss.group) ∧ uniKeeps s s t) ∧
  (∀ (k : Nat) (wait : Bool) (s : State), k < 16 → lanesOk s → uniReady noUses s = true → barrierIn k s →
    (wait = true → s.issuing.arrived = true) → (wait = false → s.issuingBlock.barExpect k ≠ 0) → barrierPassed k s →
    ∃ t, exec (if wait then .baraw k else .barw k) s = .next t ∧
      (t.group s.iss.group).seen.getLsbD k = decide (s.issuingBlock.barPhase k % 2 = 1) ∧
      (∀ j, j < 16 → j ≠ k → (t.group s.iss.group).seen.getLsbD j = s.issuing.seen.getLsbD j) ∧
      floorRaised s (t.group s.iss.group) ∧ stepsPast s s t ∧ keepsOthers s.iss.group s t) ∧
  (∀ (k : Nat) (s : State), lanesOk s → uniReady noUses s = true → barrierIn k s → s.issuingBlock.barExpect k ≠ 0 →
    s.issuing.arrived = false → ∃ t, exec (.baraw k) s = .next t ∧
      places [plainShape (.arrive k s.issuing.merr) (.bank s.issuing.block (barOff k)) (barOff k) 16 2 true 0] s.iss.group s t ∧
      (t.group s.iss.group).arrived = true ∧ (t.group s.iss.group).lanes = s.issuing.lanes ∧ keepsOthers s.iss.group s t) ∧
  (∀ (d : Dst) (k : Nat) (s : State), lanesOk s → uniReady (uniUses (some d) []) s = true → barrierIn k s →
    ∃ t, exec (.barst d k) s = .next t ∧
      (uniForm d [] (fun s _ => BitVec.ofNat 64 (readNat s.issuingBlock.spad (barOff k + 16) 8))).effect s t)

/-- CHCFG leaves the descriptor and shares out the allowance (R397, R184), CHQ reads it (R398), WAITC and MWAIT pass with an acquire side
(R399, R402), and FENCE places its entry (R400). -/
def Obligations.ChannelAndWaitWordsComplete : Prop :=
  (∀ (k : Nat) (a : Src) (s : State), k < 16 → lanesOk s → uniReady (uniUses none [a]) s = true → chOff k + 16 ≤ s.issuingBlock.scr →
    released 2 s → s.issuingBlock.groups.Nodup →
    (let src := readU a (opened s)
     let bk := s.issuing.block
     let x := src.1.toNat
     let gs := maskGroups (x / 2 ^ 48)
     chcfgOk src.2 bk k x = true → ∃ t, exec (.chcfg k a) s = .next t ∧
      (t.block bk).chan k = { count := 0, head := 0, depth := x / 2 ^ 32 % 512, base := x % 2 ^ 19 } ∧
      (∀ p ∈ s.issuingBlock.groups.zipIdx,
        (t.group p.1).allowance k = (if p.2 ∈ gs then x / 2 ^ 32 % 512 / gs.length +
          (if gs.idxOf p.2 < x / 2 ^ 32 % 512 % gs.length then 1 else 0) else 0) ∧
        (t.group p.1).prod.getLsbD k = decide (p.2 ∈ gs)) ∧
      stepsPast src.2 s t)) ∧
  (∀ (d : Dst) (k : Nat) (s : State), lanesOk s → uniReady (uniUses (some d) []) s = true → chOff k + 16 ≤ s.issuingBlock.scr →
    ∃ t, exec (.chq d k) s = .next t ∧ (uniForm d [] (fun s _ => chqWord s k)).effect s t) ∧
  (∀ (cls n : Nat) (s : State), lanesOk s → uniReady noUses s = true → s.issuing.counter cls ≤ n → ∃ t, exec (.waitc cls n) s = .next t ∧
    floorRaised s (t.group s.iss.group) ∧ stepsPast s s t ∧ t.entries = s.entries ∧ keepsOthers s.iss.group s t) ∧
  (∀ (all : Bool) (kind scope : Nat) (s : State), lanesOk s → uniReady noUses s = true → ∃ t, exec (.fence all kind scope) s = .next t ∧
    places [plainShape (.fence kind all) .nowhere 0 0 scope false 0] s.iss.group s t ∧
    keepsStatus s.issuing (t.group s.iss.group) ∧ uniKeeps s s t) ∧
  (∀ (s : State), lanesOk s → uniReady noUses s = true → (s.issuing.mon = .idle ∨ s.issuing.mon = .fired) → ∃ t, exec .mwait s = .next t ∧
    (t.group s.iss.group).mon = .idle ∧ floorRaised s (t.group s.iss.group) ∧ stepsPast s s t ∧ keepsOthers s.iss.group s t)

namespace Sys2Proof.Claim

/-! ### LAUNCH and DETACH (R404 to R406, R18, R191) -/

/-- The word may read the launch record at `o`: the leader's, not too deep, in its place and clean (R405). -/
def launchable (o : Nat) (s : State) : Prop :=
  s.issuing.gid = 0 ∧ (s.gridRow s.issuingBlock.grid).depth ≠ 9 ∧ o % 64 = 0 ∧ 0x300 ≤ o ∧ o + 64 ≤ s.issuingBlock.scr ∧
  poisoned s.issuingBlock.spadBad o 48 = false

/-- The other members of the block's gang that have not departed. -/
def peersOf (b : Block) : List (Nat × Member) := b.members.filter (fun p => decide (p.1 ≠ b.gangIdx ∧ p.2.departed = false))

/-- The departure notices of the issuing block have gone (R16, R18): one on the win flow to each peer on another chip that is not fenced, in their
order; and each peer's block that is resident on this chip has the member gone. -/
def departureTold (s t : State) : Prop :=
  let b := s.issuingBlock
  (∃ ms, t.fab.lsOut = s.fab.lsOut ++ ms ∧
    ms.map OutMsg.dst = ((peersOf b).map (fun p => p.2.pos)).filter (fun x => decide (x ≠ s.fab.pos) && !s.fab.shut x) ∧
    ∀ o ∈ ms, ∃ m, o.msg = .ls m ∧ m.op = 0xF7 ∧ m.flow = 2 ∧ m.src = s.fab.pos ∧ m.dst = o.dst ∧
      m.data = BitVec.ofNat 128 (b.grid + b.gangIdx * 2 ^ 16)) ∧
  (∀ p ∈ peersOf b, p.2.pos = s.fab.pos → p.2.block ≠ s.issuing.block → (s.block p.2.block).resident = true →
    (findKey (s.block p.2.block).members b.gangIdx).isSome = true →
    ((t.block p.2.block).member b.gangIdx).present = false ∧ ((t.block p.2.block).member b.gangIdx).departed = true)

end Sys2Proof.Claim

/-- LAUNCH contributes a SUBMIT with the record's payload once its release side has performed, or writes the refusal to the completion record at CREC,
STATUS 2 with its REASON and PACKET 0, and contributes nothing (R404, R405, R233). DETACH leaves the block departed, with its departure notices on their
way to every peer on another chip and told to those on this one, and counts who has still to answer; a second one tells nobody (R406, R191, R18). Where
a store that the release waited for has timed out, either completes as trapped (R138; that it is FABRIC_TIMEOUT at its own PC is log 66). -/
def Obligations.LaunchAndDetachComplete : Prop :=
  (∀ (a : Src) (s : State), lanesOk s → uniReady (uniUses none [a]) s = true →
    (let src := readU a (opened s)
     let o := src.1.toNat % 2 ^ 32
     let p := launchPayload s.issuingBlock o
     launchable o s → released 5 s → submitRefusal src.2 p = none → ∃ t, exec (.launch a) s = .next t ∧
      (∃ e, t.duc.pendEvents = s.duc.pendEvents ++ [e] ∧ e.typ = 0x0001 ∧ e.origin = s.fab.pos ∧ e.seq = s.duc.nextEvSeq ∧ e.body = p) ∧
      t.duc.nextEvSeq = s.duc.nextEvSeq + 1 ∧ stepsPast src.2 s t ∧ keepsStatus (src.2.group s.iss.group) (t.group s.iss.group))) ∧
  (∀ (a : Src) (r : Nat) (s : State), lanesOk s → uniReady (uniUses none [a]) s = true →
    (let src := readU a (opened s)
     let o := src.1.toNat % 2 ^ 32
     let p := launchPayload s.issuingBlock o
     let crec := subField p 56 8
     launchable o s → released 5 s → submitRefusal src.2 p = some r → ∃ t, exec (.launch a) s = .next t ∧ t.duc = s.duc ∧
      movedTo (nextPc s) s (src.2.group s.iss.group) (t.group s.iss.group) ∧
      (∀ k, keepsLaneRegs (src.2.group k) (t.group k) ∧ keepsUniform (src.2.group k) (t.group k) ∧
        keepsMasks (src.2.group k) (t.group k)) ∧
      (crec = 0 → keepsMemory s t) ∧
      (∀ l pa, crec ≠ 0 → src.2.ctlAddr (subField p 16 2) crec 32 true = some (l, pa) →
        readByte t.mem pa = 2 ∧ readByte t.mem (pa + 1) = BitVec.ofNat 8 r ∧ readNat t.mem (pa + 16) 8 = 0 ∧
        ∀ x, (x < pa ∨ pa + 32 ≤ x) → (x < l.entry ∨ l.entry + 8 ≤ x) → readByte t.mem x = readByte s.mem x))) ∧
  (∀ (s : State), lanesOk s → uniReady noUses s = true → released 5 s → s.issuingBlock.departed = false →
    ∃ t, exec .detach s = .next t ∧ (t.block s.issuing.block).departed = true ∧ departureTold s t ∧
      (t.block s.issuing.block).acks = ((peersOf s.issuingBlock).filter (fun p => decide (p.2.pos ≠ s.fab.pos))).map Prod.fst ∧
      (((peersOf s.issuingBlock).all (fun p => decide (p.2.pos = s.fab.pos)) = true ∧ 1 < s.issuingBlock.gsz) →
        ∃ e, t.duc.pendEvents = s.duc.pendEvents ++ [e] ∧ e.typ = 0x0002 ∧
          e.body = evBody [(16, 2, s.issuingBlock.grid), (18, 1, 1), (20, 4, s.issuingBlock.blockId), (24, 2, s.issuingBlock.ctx)]) ∧
      (((peersOf s.issuingBlock).all (fun p => decide (p.2.pos = s.fab.pos)) = false ∨ s.issuingBlock.gsz ≤ 1) → t.duc = s.duc) ∧
      stepsPast s s t ∧ keepsStatus s.issuing (t.group s.iss.group) ∧ t.entries = s.entries) ∧
  (∀ (s : State), lanesOk s → uniReady noUses s = true → released 5 s → s.issuingBlock.departed = true →
    ∃ t, exec .detach s = .next t ∧ (t.block s.issuing.block).departed = true ∧ t.fab = s.fab ∧ t.duc = s.duc ∧
      stepsPast s s t ∧ keepsStatus s.issuing (t.group s.iss.group) ∧ t.entries = s.entries) ∧
  (∀ (s : State), lanesOk s → uniReady noUses s = true → s.issuing.rel = some (s.iss.pc, true) → canTrap s → ∃ t, exec .detach s = .next t ∧
    entersTrap 0x09 2 0 (s.ctxDesc s.issuingBlock.ctx).traph s s.issuing (t.group s.iss.group) ∧
    (t.group s.iss.group).rel = none ∧ keepsOthers s.iss.group s t) ∧
  (∀ (a : Src) (s : State), lanesOk s → uniReady (uniUses none [a]) s = true →
    launchable ((readU a (opened s)).1.toNat % 2 ^ 32) s → s.issuing.rel = some (s.iss.pc, true) → canTrap s →
    ∃ t, exec (.launch a) s = .next t ∧
      entersTrap 0x09 2 0 (s.ctxDesc s.issuingBlock.ctx).traph s s.issuing (t.group s.iss.group) ∧ (t.group s.iss.group).rel = none ∧
      keepsOthers s.iss.group s t)

namespace Sys2Proof.Claim

/-! ### Engine words (R416, R417, R425 to R438) -/

/-- An engine word is ready: its lanes converged where it asks so (R179), room in its class (R417 step 3), and nothing holds it. -/
def engineReady (cls : Option Nat) (conv : Bool) (u : Uses) (s : State) : Prop :=
  lanesOk s ∧ uniReady u s = true ∧ (conv = true → convergedAt s = true) ∧ (∀ c, cls = some c → s.issuing.counter c < 255)

/-- The records at these offsets are in place, not being stored to, and clean (R417 step 5), and these are their bytes. -/
def recordsAt (offs : List Nat) (bs : List (List Byte)) (s : State) : Prop :=
  (∀ o ∈ offs, o % 64 = 0 ∧ 0x300 ≤ o ∧ o + 64 ≤ s.issuingBlock.scr ∧ spadStoreBusy (opened s) s.issuing.block o 64 = false ∧
    poisoned s.issuingBlock.spadBad o 64 = false) ∧ bs = offs.map (fun o => readBytes s.issuingBlock.spad o 64)

/-- An operand in a gang window is in range and its member present (R14, R17). -/
def windowOk (r : TileRec) (s : State) : Prop := r.space = 3 → windowFault s.issuingBlock r.start 1 false = none

/-- The command of operation `o` takes its places in the retire queue, in the group queue and among the operations (R115, R114). -/
def commands (o : EngineOp) (s1 s t : State) : Prop :=
  let k := s.iss.group
  (∃ id, t.ops = s1.ops ++ [{ o with id := id }] ∧
    (t.group k).erq = (s1.group k).erq ++ [{ cls := o.cls, op := id, finished := false, status := 0 }] ∧
    places [plainShape (.engine id) .nowhere 0 0 3 false 0] k s1 t) ∧ keepsMemory s1 t ∧ (∀ b, t.block b = s1.block b) ∧
  keepsLaneRegs (s1.group k) (t.group k) ∧ keepsUniform (s1.group k) (t.group k)

/-- The record offset in the `i`-th operand. -/
def offAt (srcs : List Src) (i : Nat) (s : State) : Nat := recOff (readUs srcs (opened s)).1 i

/-- The bytes of a summary object as a read word finds them: in a scratchpad of this chip, free of stores in flight and clean, or all come
from another chip (R438). -/
def objectBytes (k : SkKind) (space o : Nat) (bytes : List Byte) (s : State) : Prop :=
  objectFault s.issuingBlock space o k.size false = none ∧ wellFormed k bytes = true ∧
  (match objectTarget (opened s) space o with
  | .bank bk off => bankBusy (opened s) bk off k.size = false ∧ poisoned (s.block bk).spadBad off k.size = false ∧
      bytes = readBytes (s.block bk).spad off k.size
  | .remote _ _ _ => ∃ r, heldObject s.issuing = some r ∧ r.left = 0 ∧ bytes = bytesLE k.size r.value
  | _ => False)

/-- The summary reads: the object, the operands, whether a second register follows, and the values (R438). -/
def summaryTable : Instr → Option (SkKind × Dst × List Src × Nat × List Nat × (List Byte → List DWord → DWord × DWord))
  | .skqrd d o q space => some (.qsk, d, [o, q], space, [],
      fun b xs => ((qskRead b ((xs.getD 1 0).truncate 32)).zeroExtend 64, 0))
  | .skhrd d o j space => some (.hhl, d, [o, j], space, pairOf d, fun b xs =>
      (BitVec.ofNat 64 ((hhlRead b (xs.getD 1 0).toNat).1 + (hhlRead b (xs.getD 1 0).toNat).2.1 * 2 ^ 32),
       BitVec.ofNat 64 (hhlRead b (xs.getD 1 0).toNat).2.2))
  | .skdrd d o space => some (.dcr, d, [o], space, [], fun b _ => ((dcrRead b).zeroExtend 64, 0))
  | .skard d o space => some (.amx, d, [o], space, [], fun b _ => (BitVec.ofNat 64 (recNat b 4 4 + recNat b 1 1 % 2 * 2 ^ 32), 0))
  | _ => none

end Sys2Proof.Claim

namespace Sys2Proof.Claim

/-- The run of `n` granules from `i` on lies in the block's operand buffer and clear of every reservation, and no lower one is clear (R425). -/
def lowestRun (i n : Nat) (b : Block) : Prop :=
  i + n ≤ b.obg ∧ (∀ h ∈ b.handles, h.2.start + h.2.gran ≤ i ∨ i + n ≤ h.2.start) ∧
  ∀ j, j < i → ∃ h ∈ b.handles, h.2.start < j + n ∧ j < h.2.start + h.2.gran

end Sys2Proof.Claim

/-- OBRES takes the lowest run of free granules, zeroes them and keeps the record, or for a held handle of the same size replaces the
record; OBREL gives a handle back that no operation names (R423, R425, R426). -/
def Obligations.ReservationsComplete : Prop :=
  (∀ (k : Nat) (a : Src) (r : List Byte) (s : State), engineReady none false (uniUses none [a]) s → recordsAt [offAt [a] 0 s] [r] s →
    obRecordOk r = true →
    ((∃ h, s.issuingBlock.handle k = some h ∧ h.gran = recNat r 0 2) ∨
      s.issuingBlock.handle k = none ∧ ∃ i, lowestRun i (recNat r 0 2) s.issuingBlock) → ∃ t, exec (.obres k a) s = .next t ∧
      (let src := readUs [a] (opened s)
       let b := t.block s.issuing.block
       let old := src.2.block s.issuing.block
       (∀ h, s.issuingBlock.handle k = some h → b.handle k = some { h with record := r } ∧ b.ob = old.ob) ∧
       (∀ i, s.issuingBlock.handle k = none → lowestRun i (recNat r 0 2) s.issuingBlock →
         b.handle k = some { start := i, gran := recNat r 0 2, record := r } ∧
         ∀ o, readByte b.ob o = if i * 4096 ≤ o ∧ o < (i + recNat r 0 2) * 4096 then 0 else readByte old.ob o) ∧
       (∀ j, j ≠ k → b.handle j = old.handle j) ∧ b.spad = old.spad ∧ stepsPast src.2 s t ∧
       keepsStatus (src.2.group s.iss.group) (t.group s.iss.group))) ∧
  (∀ (k : Nat) (s : State), engineReady none false noUses s → (s.issuingBlock.handle k).isSome = true →
    (∀ o ∈ s.ops, o.block = s.issuing.block → k ∉ o.handles) → ∃ t, exec (.obrel k) s = .next t ∧
      (t.block s.issuing.block).handle k = none ∧ (∀ j, j ≠ k → (t.block s.issuing.block).handle j = s.issuingBlock.handle j) ∧
      (t.block s.issuing.block).ob = s.issuingBlock.ob ∧ stepsPast s s t ∧ keepsStatus s.issuing (t.group s.iss.group))

/-- MMA on a reservation that fits (R427, R424) writes the accumulator of the live rows below VROWS with the elements of R272 and R428, or,
with an error of R62, the substitutes in every live lane and the status bits in MERR (R82); no other register changes.
MST on a record and a reservation that pass its checks completes with a command that holds the elements read from the accumulator, and
advances the SR counts of the rows under SR rounding (R430, R265). That a poisoned sector of the operand buffer which the MMA reads counts as an OB_PARITY
error, and that MST converts substitute values like any others, are the model's readings (log 57). -/
def Obligations.MatrixWordsComplete : Prop :=
  (∀ (c a k : Nat) (ta tb aob za : Bool) (h : ObHandle) (s : State), engineReady none true (mmaUses s c a k aob za) s →
    s.issuingBlock.handle k = some h →
    (let n := recNat h.record
     let w := fmtBits (n 4 1)
     let nc := fragRegs w
     let na := if aob then 0 else fragRegs (fmtBits (n 2 1))
     let m := mmaIn (opened s) h c a ta tb aob za
     let bad := mmaErrors (opened s) h c ta tb aob za
     c + nc ≤ 128 → a + na ≤ 128 → rangesMeet a na c nc = false → mmaRow (n 2 1) (n 3 1) (n 4 1) = true →
     (∀ r ∈ mmaRanges h.record aob, r.1 + r.2 ≤ h.length) → ∃ t, exec (.mma c a k ta tb aob za) s = .next t ∧
       (bad = 0 → ∀ r l, l < laneCount → (t.group s.iss.group).vreg r l =
         if c ≤ r ∧ r - c < (if nc = 64 then n 9 1 else (n 9 1 + 1) / 2) ∧ l ∈ s.issuing.liveLanes ∧ l < n 8 1 then
           m.word (n 9 1) l (r - c) (s.issuing.vreg r l)
         else s.issuing.vreg r l) ∧
       (bad ≠ 0 → ∀ r l, l < laneCount → (t.group s.iss.group).vreg r l =
         if c ≤ r ∧ r < c + nc ∧ l ∈ s.issuing.liveLanes then substitute (n 4 1) else s.issuing.vreg r l) ∧
       (t.group s.iss.group).merr = (s.issuing.setMerr bad).merr ∧ movedTo (nextPc s) s s.issuing (t.group s.iss.group) ∧
       keepsUniform s.issuing (t.group s.iss.group) ∧ keepsMasks s.issuing (t.group s.iss.group) ∧ keepsOthers s.iss.group s t)) ∧
  (∀ (c : Nat) (d : Src) (k rnd : Nat) (sat tr : Bool) (h : ObHandle) (rec : List Byte) (s : State),
    engineReady (some 2) true (mstUses s c k d) s → recordsAt [offAt [d] 0 s] [rec] s → s.issuingBlock.handle k = some h →
    (let n := recNat h.record
     let r := readTile rec
     let nc := fragRegs (fmtBits (n 4 1))
     let bad := s.issuing.bad.contains .accumulator || (fragUses s.issuing c nc).any (fun x => s.issuing.bad.contains (.lane x.2 x.1))
     let mode := if rnd = 5 then s.issuing.mode.toNat % 8 else rnd
     c + nc ≤ 128 → tileOk rec = true → r.space ≤ 2 → r.d2 = 1 → rankGood s s.issuingBlock r = true →
     objectPlaced s.issuingBlock (summaryOffs h.record).1 SkKind.amx.size = true →
     objectPlaced s.issuingBlock (summaryOffs h.record).2 SkKind.qsk.size = true → ∃ t, exec (.mst c d k rnd sat tr) s = .next t ∧
       commands (mstOp (opened s) h r k (mstElems (opened s) h c mode r.fmt sat tr bad)) (readUs [d] (opened s)).2 s t ∧
       lanesAt s.iss.sel (fun _ => nextPc s) (if mode = 4 then s.issuing.liveLanes.filter (fun i => decide (i < n 8 1)) else []) (n 9 1)
         ((readUs [d] (opened s)).2.group s.iss.group) (t.group s.iss.group)))

/-- COPY, GATHER, TILEX and SKMERGE on records that pass the checks of their rules complete with a command for their engine, and move no
data yet (R432 to R437). That a record for a reduction slot may have C4 with RED max or min, as the last row of R435 has it and R165 has not, is the model's
reading (log 67). -/
def Obligations.EngineCommandsComplete : Prop :=
  (∀ (a d : Src) (x y : List Byte) (s : State), engineReady (some 0) false (uniUses none [a, d]) s →
    recordsAt [offAt [a, d] 0 s, offAt [a, d] 1 s] [x, y] s → tileOk x = true → rankGood s s.issuingBlock (readTile x) = true →
    tileOk y = true → rankGood s s.issuingBlock (readTile y) = true → sameShape (readTile x) (readTile y) = true →
    (isFar s s.issuingBlock (readTile x) && isFar s s.issuingBlock (readTile y)) = false → windowOk (readTile x) s →
    windowOk (readTile y) s → ∃ t, exec (.copy a d) s = .next t ∧
      (let s1 := (readUs [a, d] (opened s)).2
       commands (newOp (opened s) .copy 0 (readTile x) (readTile y)) s1 s t ∧
       movedTo (nextPc s) s (s1.group s.iss.group) (t.group s.iss.group))) ∧
  (∀ (a d i : Src) (x y : List Byte) (s : State), engineReady (some 0) false (uniUses none [a, d, i]) s →
    recordsAt [offAt [a, d, i] 0 s, offAt [a, d, i] 1 s] [x, y] s → tileOk x = true → rankGood s s.issuingBlock (readTile x) = true →
    (readTile x).d2 = 1 → (readTile x).space < 2 → tileOk y = true → rankGood s s.issuingBlock (readTile y) = true →
    (readTile y).d2 = 1 → (readTile y).space < 3 → isFar s s.issuingBlock (readTile y) = false → (readTile x).fmt = (readTile y).fmt →
    (readTile x).d0 = (readTile y).d0 → offAt [a, d, i] 2 s % 4 = 0 → 0x300 ≤ offAt [a, d, i] 2 s →
    offAt [a, d, i] 2 s + 4 * (readTile y).rows ≤ s.issuingBlock.scr → ∃ t, exec (.gather a d i) s = .next t ∧
      (let s1 := (readUs [a, d, i] (opened s)).2
       commands { newOp (opened s) .gather 0 (readTile x) (readTile y) with list := [offAt [a, d, i] 2 s] } s1 s t ∧
       movedTo (nextPc s) s (s1.group s.iss.group) (t.group s.iss.group))) ∧
  (∀ (a d : Src) (x y : List Byte) (s : State), engineReady (some 1) false (uniUses none [a, d]) s →
    recordsAt [offAt [a, d] 0 s, offAt [a, d] 1 s] [x, y] s → tileOk x = true → rankGood s s.issuingBlock (readTile x) = true →
    ((readTile x).space = 1 ∨ (readTile x).space = 2 ∨
      (readTile x).space = 0 ∧ (readTile x).rankOf (Block.rank s s.issuingBlock) = Block.rank s s.issuingBlock) →
    tileOk y = true → tilexDst (readTile y) (s.gridRow s.issuingBlock.grid).nranks = true → sameShape (readTile x) (readTile y) = true →
    ∃ t, exec (.tilex a d) s = .next t ∧
      (let s1 := (readUs [a, d] (opened s)).2
       let r := readTile y
       let n := (s.gridRow s.issuingBlock.grid).nranks
       let ranks := tilexTargets r (Block.rank s s.issuingBlock) (n / (r.dx * r.dy))
       commands { newOp (opened s) .tilex 1 (readTile x) r with targets := ranks } s1 s t ∧
       movedTo (nextPc s) s (s1.group s.iss.group) (t.group s.iss.group))) ∧
  (∀ (a d : Src) (x y : List Byte) (s : State), engineReady (some 3) true (uniUses none [a, d]) s →
    recordsAt [offAt [a, d] 0 s, offAt [a, d] 1 s] [x, y] s → mergeRecord s x = true → mergeRecord s y = true →
    (isFar s s.issuingBlock (readTile x) && isFar s s.issuingBlock (readTile y)) = false → windowOk (readTile x) s →
    windowOk (readTile y) s → ∃ t, exec (.skmerge a d) s = .next t ∧
      (let s1 := (readUs [a, d] (opened s)).2
       commands (newOp (opened s) .skmerge 3 (readTile x) (readTile y)) s1 s t ∧
       movedTo (nextPc s) s (s1.group s.iss.group) (t.group s.iss.group)))

/-- The summary reads complete with the value of R438 in their destination (SKHRD with its second register) once the object's bytes are
there; SKINIT places one store at the object (R436). That a read of an object on another chip waits for its bytes and holds the object meanwhile, and how
SKINIT's entry is coded, are the model's choices (log 58). -/
def Obligations.SummaryReadsComplete : Prop :=
  (∀ (i : Instr) (k : SkKind) (d : Dst) (srcs : List Src) (space : Nat) (more : List Nat) (f : List Byte → List DWord → DWord × DWord)
    (bytes : List Byte) (s : State), summaryTable i = some (k, d, srcs, space, more, f) →
    engineReady none true { uniUses (some d) srcs with writeS := (uniUses (some d) srcs).writeS ++ more } s →
    objectBytes k space (offAt srcs 0 s) bytes s → ∃ t, exec i s = .next t ∧
      (let src := readUs srcs (opened s)
       let g := src.2.group s.iss.group
       let h := t.group s.iss.group
       let v := f bytes src.1
       (match d with
       | .reg n => ∀ m, h.sreg m = if m ∈ more then v.2 else if m = n ∧ n ≠ 0 then v.1 else g.sreg m
       | .push c => keepsUniform g h ∧ pushed c (v.1.truncate 32) g h src.2 t) ∧
       movedTo (nextPc s) s g h ∧ keepsLaneRegs g h ∧ keepsMasks g h ∧ keepsStatus g h ∧ keepsOthers s.iss.group src.2 t)) ∧
  (∀ (o seed : Src) (space kind : Nat) (s : State), engineReady none false (uniUses none [o, seed]) s →
    objectFault s.issuingBlock space (offAt [o, seed] 0 s) (skKindOf kind).size true = none → ∃ t, exec (.skinit o seed space kind) s = .next t ∧
      (let src := readUs [o, seed] (opened s)
       let v := (src.1.getD 1 0).toNat
       places [plainShape (.skinit (skKindOf kind) v) (objectTarget s space (offAt [o, seed] 0 s)) (offAt [o, seed] 0 s) (skKindOf kind).size
         (if space = 0 then 2 else 4) false (v + kind * 2 ^ 64)] s.iss.group src.2 t ∧
       keepsStatus (src.2.group s.iss.group) (t.group s.iss.group) ∧ uniKeeps src.2 s t))

namespace Sys2Proof.Claim

/-! ### The ordering machine (R90 to R105) -/

/-- No register of any group changes. -/
def keepsRegisters (s t : State) : Prop :=
  ∀ k, keepsLaneRegs (s.group k) (t.group k) ∧ keepsUniform (s.group k) (t.group k) ∧ keepsMasks (s.group k) (t.group k)

/-- Where an entry goes when it leaves its group queue (R90, R103, R114): out of the machine for a fence and a command. -/
def nextStage (e : Entry) : Option Stage :=
  match e.op, e.target with
  | .fence _ _, _ => none
  | .engine _, _ => none
  | _, .bank _ _ => some .bank
  | _, .nowhere => none
  | _, _ => some .cb

/-- The entries that stand once those with these ids have gone, and `new` have come behind the others. -/
def entriesAfter (gone : List Nat) (new : List Entry) (s t : State) : Prop :=
  t.entries = s.entries.filter (fun f => !gone.contains f.id) ++ new

/-- Bytes at `a` in a space of bytes are `bs`, and every other byte is as before. -/
def wrote (a : Nat) (bs : List Byte) (m n : List Host.Cell) : Prop :=
  ∀ x, readByte n x = if a ≤ x ∧ x < a + bs.length then bs.getD (x - a) 0 else readByte m x

/-- The result of an entry has these bytes at its offset (R100). -/
def bound (e : Entry) (val : Nat) (g h : Group) : Prop :=
  h.results = match e.res with
    | none => g.results
    | some id => bindIn id e.off val g.results

/-- The L1 floor after a read with or without an acquire side at .chp or wider (R96). -/
def floorAfter (e : Entry) (fc : Nat) (g h : Group) : Prop := h.floor = if e.acq && decide (3 ≤ e.scope) then fc else g.floor

/-- An entry stands at its home slice with nothing that holds it back: its turn (R104), in HBM (R70), and no poison. -/
def atSlice (e : Nat) (x : Entry) (k pa : Nat) (s : State) : Prop :=
  s.findEntry e = some x ∧ x.issuer = .group k ∧ x.stage = .net ∧ x.target = .memory pa ∧ sliceTurn s x = true ∧ inHbm pa = true ∧
  poisoned s.poison pa x.size = false

/-- An entry stands at its bank with nothing that holds it back: its turn (R90), a resident block that has started (R461), and no poison. -/
def atBank (e : Nat) (x : Entry) (k bk off : Nat) (s : State) : Prop :=
  s.findEntry e = some x ∧ x.issuer = .group k ∧ x.target = .bank bk off ∧ bankTurn s x = true ∧ (s.block bk).resident = true ∧ (s.block bk).started = true ∧
  poisoned (s.block bk).spadBad off x.size = false

/-- An entry of which the home slice or the bank has applied the first `n` bytes keeps its place with the others, and `data` (R88, R123). -/
def keepsPlace (x : Entry) (n data : Nat) (s t : State) : Prop :=
  t.entries = s.entries.map (fun f => if f.id = x.id then { f with
    target := f.target.past n, off := f.off + n, size := f.size - n, data := data, begun := true,
    early := f.early.filterMap (fun b => if b.1 < n then none else some (b.1 - n, b.2)) } else f)

/-- The first `n` bytes of a load as its home slice gives them, but those that it took from the L1 of its core (R100). -/
def sliceValue (s : State) (x : Entry) (pa n : Nat) : Nat :=
  natLE ((List.range n).map (fun i => (x.early.lookup i).getD (readByte s.mem (pa + i))))

end Sys2Proof.Claim

/-- A departure that the rows of R90 allow happens: GQ_DEPART moves the entry to its bank or the core buffer, ends a fence and hands a
command to its engine, or begins the flush that a release needs (R97, R112); CB_DEPART moves it to its home slice, a load with the bytes
that its core's L1 holds (R100), or into its fabric flow with a request slot (R103, R136); ROUTER_MERGE makes one reduction of two (R68). No register and no byte changes. -/
def Obligations.DeparturesComplete : Prop :=
  (∀ (e : Nat) (x : Entry) (s : State), s.findEntry e = some x → x.stage = .gq → mayLeave s false x = true → bindsEarly s x = false →
    (x.needsFlush = false ∨ (s.group x.owner).flushed = true) → ∃ t, exec (.gqDepart e) s = .next t ∧
      entriesAfter [x.id] ((nextStage x).toList.map (fun p => { x with stage := p })) s t ∧
      (∀ op, x.op = .engine op → t.ops = s.ops.map (fun o => if o.id = op ∧ o.stage = .queued then { o with stage := .left } else o)) ∧
      (∀ kind all, x.op = .fence kind all → (t.group x.owner).floor =
        if kind ≠ 1 ∧ 3 ≤ x.scope then (s.core (coreOf x.owner)).fc else (s.group x.owner).floor) ∧
      keepsRegisters s t ∧ keepsMemory s t ∧ t.blocks = s.blocks ∧ t.fab = s.fab) ∧
  (∀ (e : Nat) (x : Entry) (s : State), s.findEntry e = some x → x.stage = .gq → mayLeave s false x = true → bindsEarly s x = false →
    x.needsFlush = true → (s.group x.owner).flushed = false → (s.group x.owner).flush = none →
    (∀ p ∈ (s.group x.owner).paths, s.fab.fenced.contains p.1 = false ∧ s.fab.fenced.contains p.2 = false) →
    ∃ t, exec (.gqDepart e) s = .next t ∧ t.entries = s.entries ∧ (t.group x.owner).paths = [] ∧
      (∃ fl, (t.group x.owner).flush = some fl ∧ (∀ p ∈ (s.group x.owner).paths, p.1 ∈ fl.awaited) ∧ fl.fenced = false) ∧
      (∃ ms, t.fab.bulkOut = s.fab.bulkOut ++ ms ∧ ms.map (fun m => (m.dst, m.via)) = (s.group x.owner).paths) ∧
      keepsRegisters s t ∧ keepsMemory s t) ∧
  (∀ (e : Nat) (x : Entry) (s : State), s.findEntry e = some x → bindsEarly s x = false →
    (combined s x).all (cbAllows s (combined s x)) = true → (∀ c ∈ combined s x, ∃ pa, c.target = .memory pa) →
    ((combined s x).map Entry.id).Nodup → ∃ t, exec (.cbDepart e) s = .next t ∧
      (∃ new, entriesAfter ((combined s x).map Entry.id) new s t ∧
        new.map (fun c => { c with early := [] }) = (combined s x).map (fun c => { c with stage := .net, early := [] }) ∧
        (combined s x = [x] → new.map Entry.early = [if x.op = .load then l1Bytes s x.owner x else []])) ∧
      keepsRegisters s t ∧ keepsMemory s t ∧ t.blocks = s.blocks ∧ t.fab = s.fab) ∧
  (∀ (e : Nat) (x : Entry) (pos a slot : Nat) (win : Bool) (s : State), s.findEntry e = some x → bindsEarly s x = false →
    combined s x = [x] → cbAllows s [x] x = true → x.target = .remote pos win a → s.fab.shut pos = false →
    (s.core x.core).freeSlot = some slot → ∃ t, exec (.cbDepart e) s = .next t ∧
      (let tag := slot * 16 + ((s.core x.core).slot slot).gen
       let seq := getKey 0 s.fab.flowSeq (pos * 8 + x.flow)
       entriesAfter [x.id] [{ x with stage := .flow, tag := tag, fseq := seq }] s t ∧
       ((t.core x.core).slot slot).inUse = true ∧ ((t.core x.core).slot slot).entry = x.id ∧
       getKey 0 t.fab.flowSeq (pos * 8 + x.flow) = (seq + 1) % 2 ^ 32 ∧
       (∃ o m, t.fab.lsOut = s.fab.lsOut ++ [o] ∧ o.dst = pos ∧ o.msg = .ls m ∧ m.tag = tag ∧ m.seq = seq ∧ m.flow = x.flow ∧
         m.addr = a ∧ m.op = x.opc ∧ m.scope = x.scope ∧ m.order = (if x.acq then 1 else 0) + (if x.rel then 2 else 0)) ∧
       keepsRegisters s t ∧ keepsMemory s t)) ∧
  (∀ (e f : Nat) (x y : Entry) (op : RedOp) (s : State), s.findEntry e = some x → s.findEntry f = some y → mergeable x y = true →
    mayJoin s x y = true → x.op = .red op → ∃ t, exec (.routerMerge e f) s = .next t ∧
      (∀ z, t.findEntry x.id = some z → z.data = redNew op s.free x.data y.data ∧ z.merged = x.merged ++ y.id :: y.merged ∧
        z.target = x.target) ∧
      (t.findEntry x.id).isSome = true ∧ (∃ z ∈ t.entries, z.id = y.id ∧ z.target = .nowhere) ∧
      (∀ z ∈ s.entries, z.id ≠ x.id → z.id ≠ y.id → z.id ∉ y.merged → z ∈ t.entries) ∧
      keepsRegisters s t ∧ keepsMemory s t ∧ t.blocks = s.blocks ∧ t.groups = s.groups)

/-- What a home slice applies (R67): a load binds the bytes of memory and changes none, a store writes its bytes and no others, where
either is not single-copy atomic some of its bytes first (R88; that these are the first in ascending address is the model's choice, log 84), an atomic takes the old value and writes the new one (R370), a reduction writes its value once for all that merged into it (R68), and a compare of MARM
arms the monitor or fires it (R117). No register changes. -/
def Obligations.SliceApplications : Prop :=
  (∀ (e k pa : Nat) (x : Entry) (s : State), atSlice e x k pa s → x.op = .load → s.stepBytes x = x.size →
    ∃ t, exec (.hsApply e) s = .next t ∧ entriesAfter [x.id] [] s t ∧
      bound x (sliceValue s x pa x.size) (s.group k) (t.group k) ∧
      ((s.core x.core).fc + x.size < 2 ^ 32 → floorAfter x (s.core (coreOf k)).fc (s.group k) (t.group k)) ∧
      keepsRegisters s t ∧ keepsMemory s t ∧ t.blocks = s.blocks) ∧
  (∀ (e k pa : Nat) (x : Entry) (s : State), atSlice e x k pa s → x.op = .load → s.stepBytes x ≠ x.size →
    ∃ t, exec (.hsApply e) s = .next t ∧ keepsPlace x (s.stepBytes x) x.data s t ∧
      (t.group k).results = (s.group k).results.map (fun r =>
        if some r.id = x.res then { r with value := r.value + sliceValue s x pa (s.stepBytes x) * 2 ^ (8 * x.off) } else r) ∧
      keepsRegisters s t ∧ keepsMemory s t ∧ t.blocks = s.blocks) ∧
  (∀ (e k pa : Nat) (x : Entry) (s : State), atSlice e x k pa s → x.op = .store → combined s x = [x] → x.whole = [] →
    s.stepBytes x = x.size → ∃ t, exec (.hsApply e) s = .next t ∧ entriesAfter [x.id] [] s t ∧
      wrote pa (bytesLE x.size x.data) s.mem t.mem ∧ t.poison = poisonAfter s.poison pa x.size false ∧ keepsRegisters s t ∧
      t.blocks = s.blocks) ∧
  (∀ (e k pa : Nat) (x : Entry) (s : State), atSlice e x k pa s → x.op = .store → s.stepBytes x ≠ x.size →
    ∃ t, exec (.hsApply e) s = .next t ∧ keepsPlace x (s.stepBytes x) (x.data / 2 ^ (8 * s.stepBytes x)) s t ∧
      wrote pa (bytesLE (s.stepBytes x) x.data) s.mem t.mem ∧ keepsRegisters s t ∧ t.blocks = s.blocks) ∧
  (∀ (e k pa : Nat) (x : Entry) (op : AtomOp) (s : State), atSlice e x k pa s → x.op = .atom op → ∃ t, exec (.hsApply e) s = .next t ∧
    (let old := readNat s.mem pa x.size
     let new := atomNew op x.size old x.data x.data2
     entriesAfter [x.id] [] s t ∧ bound x old (s.group k) (t.group k) ∧ floorAfter x (s.core (coreOf k)).fc (s.group k) (t.group k) ∧
     wrote pa (if new.2 then bytesLE x.size new.1 else []) s.mem t.mem ∧ keepsRegisters s t ∧ t.blocks = s.blocks)) ∧
  (∀ (e k pa : Nat) (x : Entry) (op : RedOp) (s : State), atSlice e x k pa s → x.op = .red op → ∃ t, exec (.hsApply e) s = .next t ∧
    entriesAfter (x.id :: x.merged) [] s t ∧ wrote pa (bytesLE 4 (redNew op s.free (readNat s.mem pa 4) x.data)) s.mem t.mem ∧
    keepsRegisters s t ∧ t.blocks = s.blocks) ∧
  (∀ (e k pa v : Nat) (x : Entry) (s : State), atSlice e x k pa s → x.op = .marm v → (s.group k).monEntry = x.id →
    (s.group k).mon = .pending → s.watches = [] → ∃ t, exec (.hsApply e) s = .next t ∧
      (let equal := decide (readNat s.mem pa x.size = v)
       entriesAfter [x.id] [] s t ∧ (t.group k).mon = (if equal then .armed else .fired) ∧
       bound { x with off := 0 } (if equal then 0 else 1) (s.group k) (t.group k) ∧
       t.watches = (if equal then [{ unit := pa / 8, pos := s.fab.pos, group := k, entry := x.id, tag := 0, ctx := x.ctx, cgen := x.cgen }]
         else []) ∧
       keepsRegisters s t ∧ keepsMemory s t))

/-- What a bank applies (R124): loads, stores (TREC's in 16-byte units, R413; that the lowest comes first is log 101), atomics and reductions on the
scratchpad's bytes, but reserved bits (R6); the lanes of one load or store that name a word together, with one read, or one write of the highest lane's
value (R53); SKINIT's image (R436), pushes (R185) and the next 16-byte unit of an OBLD, whichever that is (R376, R123); an insert (R297; that it fires no watch is log 55); and an arrival, with SEEN taking the parity from before it (R57, R186). To a block that is not resident, or
has still to start, nothing is applied (R461). -/
def Obligations.BankApplications : Prop :=
  (∀ (e k bk off : Nat) (x : Entry) (s : State), atBank e x k bk off s → x.op = .load →
    (∀ y ∈ bankMates s x, y.issuer = .group k ∧ y.target = .bank bk off ∧ y.size = x.size) → ∃ t, exec (.bankApply e) s = .next t ∧
    entriesAfter ((bankMates s x).map Entry.id) [] s t ∧ (t.group k).results = (bankMates s x).foldl (fun rs y => match y.res with
      | none => rs
      | some id => bindIn id y.off (readNat (s.block bk).spad off x.size) rs) (s.group k).results ∧ t.blocks = s.blocks ∧
    keepsRegisters s t ∧ keepsMemory s t) ∧
  (∀ (e k bk off : Nat) (x : Entry) (s : State), atBank e x k bk off s → x.op = .store → 16 < x.size → bankMates s x = [x] → ∃ t, exec (.bankApply e) s = .next t ∧
    keepsPlace x 16 (x.data / 2 ^ 128) s t ∧ wrote off (keepBits off (bytesLE 16 x.data)) (s.block bk).spad (t.block bk).spad ∧
    (∀ b, b ≠ bk → t.block b = s.block b) ∧ keepsRegisters s t ∧ keepsMemory s t) ∧
  (∀ (e k bk off : Nat) (x : Entry) (s : State), s.findEntry e = some x → x.issuer = .group k → x.target = .bank bk off →
    bankTurn s x = true → ((s.block bk).resident = false ∨ (s.block bk).started = false) →
    (∀ op r, x.op ≠ .engWin op r) → x.op ≠ .load → x.op.isArrival = false → x.op.isInsert = false → ∃ t, exec (.bankApply e) s = .next t ∧
      t.blocks = s.blocks ∧ keepsMemory s t ∧ (∀ f ∈ t.entries, f.id ≠ x.id)) ∧
  (∀ (e k bk off : Nat) (x : Entry) (s : State), atBank e x k bk off s → x.op = .store → x.size ≤ 16 →
    (∀ y ∈ bankMates s x, y.issuer = .group k ∧ y.target = .bank bk off ∧ y.size = x.size) → ∃ t, exec (.bankApply e) s = .next t ∧
    entriesAfter ((bankMates s x).map Entry.id) [] s t ∧
    wrote off (keepBits off (bytesLE x.size ((bankMates s x).getLast?.getD x).data)) (s.block bk).spad (t.block bk).spad ∧
    (∀ b, b ≠ bk → t.block b = s.block b) ∧ keepsRegisters s t ∧ keepsMemory s t) ∧
  (∀ (e k bk off : Nat) (x : Entry) (op : AtomOp) (s : State), atBank e x k bk off s → x.op = .atom op →
    ∃ t, exec (.bankApply e) s = .next t ∧
      (let old := readNat (s.block bk).spad off x.size
       let new := atomNew op x.size old x.data x.data2
       entriesAfter [x.id] [] s t ∧ bound x old (s.group k) (t.group k) ∧
       wrote off (if new.2 then keepBits off (bytesLE x.size new.1) else []) (s.block bk).spad (t.block bk).spad ∧
       (∀ b, b ≠ bk → t.block b = s.block b) ∧ keepsRegisters s t ∧ keepsMemory s t)) ∧
  (∀ (e k bk off : Nat) (x : Entry) (op : RedOp) (s : State), atBank e x k bk off s → x.op = .red op →
    ∃ t, exec (.bankApply e) s = .next t ∧ entriesAfter [x.id] [] s t ∧
      wrote off (keepBits off (bytesLE 4 (redNew op s.free (readNat (s.block bk).spad off 4) x.data))) (s.block bk).spad
        (t.block bk).spad ∧
      (∀ b, b ≠ bk → t.block b = s.block b) ∧ keepsRegisters s t ∧ keepsMemory s t) ∧
  (∀ (e k bk off h : Nat) (bytes : List (Nat × Byte)) (x : Entry) (r : ObHandle) (s : State), atBank e x k bk off s → x.op = .obld h bytes →
    (s.block bk).handle h = some r → bytes ≠ [] → (bytes.map Prod.fst).Nodup → ∃ t u, exec (.bankApply e) s = .next t ∧
      (∃ y ∈ bytes, y.1 / 16 = u) ∧ (t.block bk).spad = (s.block bk).spad ∧ keepsRegisters s t ∧ keepsMemory s t ∧
      (∀ a, readByte (t.block bk).ob a = if r.base ≤ a ∧ (a - r.base) / 16 = u then
        (findKey bytes (a - r.base)).getD (readByte (s.block bk).ob a) else readByte (s.block bk).ob a) ∧
      ((∃ y ∈ bytes, y.1 / 16 ≠ u) → (t.group k).results = (s.group k).results ∧ t.entries = s.entries.map (fun f =>
        if f.id = x.id then { f with op := .obld h (bytes.filter (fun y => decide (y.1 / 16 ≠ u))) } else f)) ∧
      ((∀ y ∈ bytes, y.1 / 16 = u) → entriesAfter [x.id] [] s t ∧
        (t.group k).results = (s.group k).results.filter (fun z => decide (some z.id ≠ x.res)))) ∧
  (∀ (e k bk off : Nat) (x : Entry) (kind : SkKind) (seed : Nat) (s : State), atBank e x k bk off s → x.op = .skinit kind seed →
    ∃ t, exec (.bankApply e) s = .next t ∧ entriesAfter [x.id] [] s t ∧
      wrote off (keepBits off (initialImage kind seed)) (s.block bk).spad (t.block bk).spad ∧ keepsRegisters s t ∧ keepsMemory s t) ∧
  (∀ (e k bk off ch gid : Nat) (x : Entry) (s : State), atBank e x k bk off s → x.op = .push ch gid → ((s.block bk).chan ch).depth ≠ 0 →
    ∃ t, exec (.bankApply e) s = .next t ∧ entriesAfter [x.id] [] s t ∧
      (let c := (s.block bk).chan ch
       let n := (c.head + c.count) % c.depth
       getKey 0 (t.block bk).pushers (ch * 256 + n) = gid ∧
       (ch < 16 → 0x300 ≤ c.base → readNat (t.block bk).spad (c.base + 4 * n) 4 = x.data % 2 ^ 32) ∧
       keepsRegisters s t ∧ keepsMemory s t)) ∧
  (∀ (e k bk off : Nat) (x : Entry) (kind : SkKind) (vals : List Word) (obj : List Byte) (s : State), atBank e x k bk off s →
    x.op = .insert kind vals → wellFormed kind (readBytes (s.block bk).spad off kind.size) = true →
    skInsert kind (readBytes (s.block bk).spad off kind.size) vals = some obj → ∃ t, exec (.summaryApply e) s = .next t ∧
      entriesAfter [x.id] [] s t ∧ wrote off obj (s.block bk).spad (t.block bk).spad ∧ keepsRegisters s t ∧ keepsMemory s t ∧
      t.groups = s.groups) ∧
  (∀ (e k bk off bar : Nat) (bits : DWord) (x : Entry) (s : State), atBank e x k bk off s → x.op = .arrive bar bits → bar < 16 →
    (s.block bk).barExpect bar ≠ 0 → ∃ t, exec (.barrierArrival e) s = .next t ∧ entriesAfter [x.id] [] s t ∧
      (let b := s.block bk
       let n := readNat b.spad (32 * bar + 4) 2 + 1
       (t.group k).seen.getLsbD bar = decide (b.barPhase bar % 2 = 1) ∧ (t.block bk).barExpect bar = b.barExpect bar ∧
       (n ≠ b.barExpect bar → (t.block bk).barPhase bar = b.barPhase bar ∧ readNat (t.block bk).spad (32 * bar + 4) 2 = n % 2 ^ 16) ∧
       (n = b.barExpect bar → (t.block bk).barPhase bar = (b.barPhase bar + 1) % 2 ^ 32 ∧
         readNat (t.block bk).spad (32 * bar + 4) 2 = 0 ∧ readNat (t.block bk).spad (32 * bar + 8) 8 = 0) ∧
       (∀ o, o < 32 * bar ∨ 32 * bar + 24 ≤ o → readByte (t.block bk).spad o = readByte b.spad o) ∧
       keepsRegisters s t ∧ keepsMemory s t))

/-- LOAD_BIND gives a load its bytes from earlier stores or the L1 (R100); FC_WRAP empties the L1 and lowers the floors (R101);
WALK_COMPLETE of a walk that one of its die's 64 walkers serves fills the TLBs of its core, or for another chip's request the owner's (R23; which TLB that is
is log 54), for CACHE or PREF only says what it has found (R73; log 105), and of an older epoch starts over (R38, R39, R45);
RESULT_WRITEBACK writes a whole result to its destination, or gives the word's push its value, and takes it off the scoreboard (R323, R364). -/
def Obligations.BindingsAndResults : Prop :=
  (∀ (e k : Nat) (x : Entry) (bytes : List Byte) (s : State), s.findEntry e = some x → x.issuer = .group k → bindPlace s x = true →
    earlyBytes s k x = some bytes → ∃ t, exec (.loadBind e) s = .next t ∧ entriesAfter [x.id] [] s t ∧
      bound x (natLE bytes) (s.group k) (t.group k) ∧ floorAfter x (s.core (coreOf k)).fc (s.group k) (t.group k) ∧
      keepsRegisters s t ∧ keepsMemory s t ∧ t.blocks = s.blocks ∧ t.cores = s.cores) ∧
  (∀ (c : Nat) (s : State), 2 ^ 32 ≤ (s.core c).fc → ∃ t, exec (.fcWrap c) s = .next t ∧ (t.core c).fc = 0 ∧ (t.core c).l1 = [] ∧
    (∀ p ∈ s.groups, coreOf p.1 = c → (t.group p.1).floor = 0) ∧ keepsRegisters s t ∧ keepsMemory s t ∧ t.entries = s.entries) ∧
  (∀ (n : Nat) (w : Walk) (l : Leaf) (s : State),
    s.walks.find? (fun w => decide (w.id = n) && decide (w ∈ s.served64 (dieOf w.core))) = some w →
    w.epoch = getKey 0 s.epochs (dieOf w.core) → w.peer = false → w.quiet = false → s.walkVa w.ctx w.va = .inl l → l.allows w.write w.fetch = none →
    ∃ t, exec (.walkComplete n) s = .next t ∧ t.walks = s.walks.filter (fun x => decide (x.id ≠ n)) ∧
      (t.group w.group).waiting ≠ .walk ∧
      (∃ e ∈ (t.core w.core).tlb, e.ctx = w.ctx ∧ e.pa = l.pa ∧ e.bits = l.bits ∧ e.va = w.va / 2 ^ l.bits * 2 ^ l.bits ∧
        (w.write = true → e.d = true)) ∧
      wrote l.entry (if Nat.lor l.raw (if w.write then 0x180 else 0x080) = l.raw then []
        else bytesLE 8 (Nat.lor l.raw (if w.write then 0x180 else 0x080))) s.mem t.mem ∧
      keepsRegisters s t ∧ t.entries = s.entries) ∧
  (∀ (n : Nat) (w : Walk) (l : Leaf) (s : State),
    s.walks.find? (fun w => decide (w.id = n) && decide (w ∈ s.served64 (dieOf w.core))) = some w →
    w.epoch = getKey 0 s.epochs (dieOf w.core) → w.peer = true → s.walkVa w.ctx w.va = .inl l → l.allows w.write false = none →
    ∃ t, exec (.walkComplete n) s = .next t ∧ t.walks = s.walks.filter (fun x => decide (x.id ≠ n)) ∧ t.cores = s.cores ∧
      (∃ e ∈ getKey [] t.l2tlb 0, e.ctx = w.ctx ∧ e.pa = l.pa ∧ e.bits = l.bits ∧ e.va = w.va / 2 ^ l.bits * 2 ^ l.bits ∧
        (w.write = true → e.d = true)) ∧ keepsRegisters s t ∧ t.entries = s.entries) ∧
  (∀ (n : Nat) (w : Walk) (s : State),
    s.walks.find? (fun w => decide (w.id = n) && decide (w ∈ s.served64 (dieOf w.core))) = some w →
    w.epoch = getKey 0 s.epochs (dieOf w.core) → w.peer = false → w.quiet = true → ∃ t, exec (.walkComplete n) s = .next t ∧
      t.walks = s.walks.filter (fun x => decide (x.id ≠ n)) ∧ (t.group w.group).waiting ≠ .walk ∧
      (t.group w.group).probed = some (w.va, match s.walkVa w.ctx w.va with
        | .inl l => some (l.pa + w.va % 2 ^ l.bits, l.kind, l.nc)
        | .inr _ => none) ∧
      t.cores = s.cores ∧ t.l2tlb = s.l2tlb ∧ keepsRegisters s t ∧ keepsMemory s t ∧ t.entries = s.entries) ∧
  (∀ (n : Nat) (w : Walk) (s : State),
    s.walks.find? (fun w => decide (w.id = n) && decide (w ∈ s.served64 (dieOf w.core))) = some w →
    w.epoch ≠ getKey 0 s.epochs (dieOf w.core) → ∃ t, exec (.walkComplete n) s = .next t ∧ t.walks.length = s.walks.length ∧
      (∀ x ∈ t.walks, x.id = n → x.epoch = getKey 0 s.epochs (dieOf w.core)) ∧ t.cores = s.cores ∧ t.groups = s.groups ∧
      keepsMemory s t) ∧
  (∀ (n k : Nat) (g : Group) (r : PendRes) (s : State),
    s.groups.find? (fun p => p.2.results.any (fun r => decide (r.id = n) && r.ready)) = some (k, g) →
    g.results.find? (fun r => decide (r.id = n)) = some r → ∃ t, exec (.resultWriteback n) s = .next t ∧
      (t.group k).results = (s.group k).results.filter (fun x => decide (x.id ≠ n)) ∧
      (∀ l regs, r.dst = .lane l regs → regs.Nodup → l < laneCount → ∀ q m, m < laneCount → (t.group k).vreg q m =
        if m = l ∧ q ∈ regs then BitVec.ofNat 32 (r.value / 2 ^ (32 * regs.idxOf q)) else (s.group k).vreg q m) ∧
      (∀ u rest, r.dst = .uniform (u :: rest) → uniReg u (BitVec.ofNat 64 r.value) (s.group k) (t.group k)) ∧
      (∀ c, r.dst = .push c → t.entries = s.entries.map (fun e =>
        if e.waits = some n then { e with data := r.value % 2 ^ 32, waits := none } else e)) ∧
      keepsMasks (s.group k) (t.group k) ∧ keepsMemory s t ∧ t.blocks = s.blocks)

namespace Sys2Proof.Claim

/-! ### Engine operations (R35, R115, R419 to R422) -/

/-- The operation as its acceptance sees it: a gather's index list has been read (R433). -/
def judged (s : State) (o : EngineOp) : EngineOp := if o.kind = .gather then { o with list := s.readList o } else o

/-- An operation whose command has reached its engine and whose turn it is (R114, R168). -/
def atEngine (n : Nat) (o : EngineOp) (s : State) : Prop :=
  s.findOp n = some o ∧ o.stage = .left ∧ feedbackTurn s o = true ∧ (o.kind ≠ .skmerge ∨ o.typ ≠ 0)

/-- A source that lies on this chip. -/
def nearSource (s : State) (o : EngineOp) : Prop := o.kind = .mst ∨ ∀ pos, s.srcLoc o ≠ .away pos ∧ ∀ i, s.srcLoc o ≠ .window pos i

/-- The operation once its next step has read what it reads (R84, R123, log 11): the elements that it had, and further ones in whole units of its source. -/
def readOn (s : State) (o : EngineOp) : EngineOp :=
  if o.cargo.length < o.count ∧ s.srcGone o = false then
    { o with cargo := o.cargo ++ ((o.reads.flatten.take (s.loadEnd o)).drop o.cargo.length).filterMap (fun i => (s.elementsNow o)[i]?) }
  else o

/-- The elements that the next step gives the `i`-th target: those that may be written by then and have not been given, the target's sectors whole
(R75, R123). -/
def givenNow (s : State) (o : EngineOp) (i : Nat) : List (Nat × Nat × Bool) :=
  if o.full < o.sent i then [] else (readOn s o).ready.drop (o.sent i)

/-- The code of `w` bits at a bit of an operand of this chip as it lies in state `s`, read in state `u`. -/
def codeAt (s : State) (l : Loc) (u : State) (w bit : Nat) : Nat :=
  let byte := fun a =>
    match l with
    | .spad b => readByte (u.block b).spad a
    | .ob b base => readByte (u.block b).ob (base + a)
    | .mem ctx i => readByte u.mem ((s.handle ctx i).pa a)
    | _ => 0
  natLE ((List.range ((w + 7) / 8)).map (fun j => byte (bit / 8 + j))) / 2 ^ (bit % 8) % 2 ^ w

/-- What an operation leaves of an element that it moves where `old` stood (R434, R167): the value itself, the two under the operator, or a decoded
value added. -/
def movedCode (o : EngineOp) (old v : Nat) : Nat :=
  if o.coded then addValue o.dst.fmt old (blockValue (v / 16) (v % 16)) else combine o.dst.fmt (if o.kind = .tilex then o.dst.red else 0) old v

/-- Every byte that elements of `w` bits at these bits do not touch is as before, whatever the operand is; an arrival flag is added in memory. -/
def restKept (o : EngineOp) (l : Loc) (w : Nat) (bits : List Nat) (s t : State) : Prop :=
  match l with
  | .spad b => (∀ a, (∀ x ∈ bits, a < x / 8 ∨ x / 8 + (w + 7) / 8 ≤ a) → readByte (t.block b).spad a = readByte (s.block b).spad a) ∧
      (∀ c, c ≠ b → t.block c = s.block c) ∧ keepsMemory s t
  | .ob b base => (∀ a, (∀ x ∈ bits, a < base + x / 8 ∨ base + x / 8 + (w + 7) / 8 ≤ a) →
      readByte (t.block b).ob a = readByte (s.block b).ob a) ∧ (t.block b).spad = (s.block b).spad ∧ (∀ c, c ≠ b → t.block c = s.block c) ∧
      keepsMemory s t
  | .mem ctx i => (∀ a, (∀ x ∈ bits, ∀ j, j < (w + 7) / 8 → (s.handle ctx i).pa (x / 8 + j) ≠ a) →
      (o.dst.flagOff = 0xFFFFFFFF ∨ ∀ j, j < 4 → (s.handle ctx o.dst.index).pa o.dst.flagOff + j ≠ a) → readByte t.mem a = readByte s.mem a) ∧
      t.blocks = s.blocks
  | _ => True

/-- The bytes of a destination region at these bits are at places of their own, away from the operation's arrival flag. -/
def placesApart (o : EngineOp) (l : Loc) (w : Nat) (bits : List Nat) (s : State) : Prop :=
  match l with
  | .spad _ => ∀ x ∈ bits, 0x300 ≤ x / 8
  | .mem ctx i =>
    (let pa := (s.handle ctx i).pa
     let touched := fun a => ∃ x ∈ bits, ∃ j, j < (w + 7) / 8 ∧ a = x / 8 + j
     (∀ a b, touched a → touched b → pa a = pa b → a = b) ∧ (∀ q ∈ (s.handle ctx i).pins, 12 ≤ q.bits) ∧
     (o.dst.flagOff = 0xFFFFFFFF ∨ ∀ a, touched a → ∀ j, j < 4 → pa a ≠ (s.handle ctx o.dst.index).pa o.dst.flagOff + j))
  | _ => True

/-- No arrival flag of an operation at a slot of this module is due (R435). -/
def noFlagDue (s : State) : Prop := ∀ o ∈ s.fab.slotOps, o.ended = false

/-- What a merge into an object of this chip comes to: its status bit, and the object that it writes (R278, R300, R437). -/
def mergeOutcome (s : State) (o : EngineOp) : DWord × Option (List Byte) :=
  match skKindOfType (o.typ - 1) with
  | none => (0x200, none)
  | some k =>
    if (s.mergeSource o).2.any id = true ∨ s.locBad (s.dstLoc o) o.dst.off k.size = true then (0x008, none)
    else if objType (s.mergeSource o).1 ≠ o.typ - 1 then (0x200, none)
    else
      match mergeObjects k (s.locBytes (s.dstLoc o) o.dst.off k.size) (s.mergeSource o).1 with
      | some obj => (0, some obj)
      | none => (0x200, none)

/-- Elements of `n` bytes at whole, disjoint places. -/
def apart (n : Nat) (bits : List Nat) : Prop :=
  (∀ b ∈ bits, b % 8 = 0) ∧ bits.Pairwise (fun a b => a / 8 + n ≤ b / 8 ∨ b / 8 + n ≤ a / 8)

end Sys2Proof.Claim

/-- ENGINE_ACCEPT turns an operation away with the status of R35, before any byte moves, or accepts it, reading a source on another chip
first, by the path that the source's record asks for (R154, R420, R449; that the request carries that wish is log 91). Of a merge it reads the TYPE byte
before that, and a poisoned one sets POISON_READ (R437, R78). -/
def Obligations.EngineAcceptance : Prop :=
  (∀ (n : Nat) (o : EngineOp) (s : State), atEngine n o s → s.acceptStatus (judged s o) ≠ 0 → ∃ t, exec (.engineAccept n) s = .next t ∧
    (let st := Nat.lor o.status (s.acceptStatus (judged s o)).toNat
     t.findOp n = some { judged s o with stage := .accepted, status := st, dead := decide (Nat.land st 0x386 ≠ 0) }) ∧
    t.handles = s.handles ∧ t.groups = s.groups ∧ t.blocks = s.blocks ∧ keepsMemory s t) ∧
  (∀ (n : Nat) (o : EngineOp) (s : State), atEngine n o s → s.acceptStatus (judged s o) = 0 → nearSource s o →
    ∃ t, exec (.engineAccept n) s = .next t ∧
      t.findOp n = some { judged s o with stage := .accepted, dead := decide (Nat.land o.status 0x386 ≠ 0) } ∧
      (∀ ctx i, o.kind ≠ .tilex → s.dstLoc o = .mem ctx i → (t.handle ctx i).users.contains o.id = true) ∧
      t.groups = s.groups ∧ t.blocks = s.blocks ∧ keepsMemory s t) ∧
  (∀ (n pos via : Nat) (o : EngineOp) (s : State), atEngine n o s → s.acceptStatus (judged s o) = 0 → o.kind ≠ .mst → o.kind ≠ .hostcopy →
    s.srcLoc o = .away pos → s.bulkPath pos o.src.direct = some via → s.fab.fenced.contains pos = false →
    ∃ t, exec (.engineAccept n) s = .next t ∧
      (∃ p, t.findOp n = some p ∧ p.stage = .remoteRead ∧ p.opnum = s.fab.nextOp ∧ p.awaited = [pos]) ∧
      (∃ m r, t.fab.bulkOut = s.fab.bulkOut ++ [m] ∧ m.dst = pos ∧ m.via = via ∧ m.msg = .readReq r ∧ r.opnum = s.fab.nextOp ∧
        r.base = o.src.base ∧ r.direct = o.src.direct) ∧ t.fab.nextOp = (s.fab.nextOp + 1) % 2 ^ 32 ∧ t.groups = s.groups ∧ keepsMemory s t) ∧
  (∀ (n b : Nat) (o : EngineOp) (s : State), s.findOp n = some o → o.stage = .left → o.kind = .skmerge → o.typ = 0 → s.srcLoc o = .spad b →
    s.extent o o.src (.spad b) o.src.off (o.src.off + 64) false = 0 → ∃ t, exec (.engineAccept n) s = .next t ∧
      t.findOp n = some { o with
        typ := 1 + (readByte (s.block b).spad o.src.off).toNat,
        status := Nat.lor o.status (if poisoned (s.block b).spadBad o.src.off 1 then 0x008 else 0) } ∧
      t.groups = s.groups ∧ t.blocks = s.blocks ∧ keepsMemory s t) ∧
  (∀ (n : Nat) (o : EngineOp) (s : State), s.findOp n = some o → o.stage = .remoteRead → s.fetched o = true →
    Nat.land o.status 0x386 = 0 → (o.kind ≠ .skmerge ∨ o.typ ≠ 0) → ∃ t, exec (.engineAccept n) s = .next t ∧ t.findOp n = some { o with stage := .accepted } ∧
      t.groups = s.groups ∧ t.blocks = s.blocks ∧ keepsMemory s t)

/-- ENGINE_COMPLETE moves what an accepted operation moves, piece by piece (R84, R123, log 11): each step reads further elements until all are
read, each of COPY, GATHER or TILEX as it lies at its source, and of MST as the accumulator gave it (R432 to R434, R430), and gives every target what it
may get. At a target of this chip (scratchpad, operand buffer, or memory through its handle) each element given is in its place, of TILEX under its
operator, and every other bit and byte is as it was (R419, R434). An operation that has moved ends in its retire queue (R115, R421), whose head ERQ_REPORT
takes off. -/
def Obligations.EngineCompletion : Prop :=
  (∀ (n : Nat) (o : EngineOp) (s : State), s.findOp n = some o → o.stage = .accepted →
    (o.kind ≠ .skmerge ∨ o.dead = true ∨ isHere (s.dstLoc o) = false) → ∃ t, exec (.engineComplete n) s = .next t ∧
      (∃ p, t.findOp n = some p ∧ (o.coded = true ∨ o.cargo <+: p.cargo) ∧
        (o.cargo.length < o.count → o.cargo.length < p.cargo.length ∨ p.dead = true) ∧
        (p.stage = .moved ∨ p.stage = .accepted) ∧
        (s.srcGone o = true → p.dead = true ∧ p.status = Nat.lor o.status 0x100 ∧ p.cargo = o.cargo) ∧
        (p.stage = .moved → ∀ i, i < (s.goals o).length → p.full < p.sent i)) ∧ keepsRegisters s t) ∧
  (∀ (n k : Nat) (o : EngineOp) (s : State), s.findOp n = some o → o.stage = .accepted → o.dead = false → o.kind ≠ .skmerge → o.coded = false →
    o.cargo.length ≤ k → ∃ t p, exec (.engineComplete n) s = .next t ∧ t.findOp n = some p ∧ (k < p.cargo.length →
      ∃ j, o.reads.flatten[k]? = some j ∧
        (o.kind = .mst → ∃ e, o.elems[j]? = some e ∧ p.cargo[k]? = some (o.dst.bitAt e.1 e.2.1 0, e.2.2, false)) ∧
        (o.kind ≠ .mst → isHere (s.srcLoc o) = true → ∃ m, o.moves[j]? = some m ∧ p.cargo[k]? = some
          (m.2.1, codeAt s (s.srcLoc o) s (fmtBits o.dst.fmt) m.1,
            m.2.2 || s.locBad (s.srcLoc o) (m.1 / 8) ((fmtBits o.dst.fmt + 7) / 8))))) ∧
  (∀ (n b : Nat) (o : EngineOp) (s : State), s.findOp n = some o → o.stage = .accepted → o.kind = .copy → o.dead = false →
    s.dstLoc o = .spad b →
    (let w := fmtBits o.dst.fmt
     let es := givenNow s o 0
     w ≠ 0 → w % 8 = 0 → apart (w / 8) (es.map (fun e => e.1)) → ∃ t, exec (.engineComplete n) s = .next t ∧
       (∃ p, t.findOp n = some p ∧ p.cargo = (readOn s o).cargo) ∧
       (∀ e ∈ es, readBytes (t.block b).spad (e.1 / 8) (w / 8) = keepBits (e.1 / 8) (bytesLE (w / 8) (e.2.1 % 2 ^ w))) ∧
       (∀ a, (∀ e ∈ es, a < e.1 / 8 ∨ e.1 / 8 + w / 8 ≤ a) → readByte (t.block b).spad a = readByte (s.block b).spad a) ∧
       (∀ c, c ≠ b → t.block c = s.block c) ∧ keepsRegisters s t ∧ (noFlagDue s → keepsMemory s t))) ∧
  (∀ (n i : Nat) (o : EngineOp) (g : Goal) (s : State), s.findOp n = some o → o.stage = .accepted → o.dead = false → o.kind ≠ .skmerge →
    (o.kind = .mst → o.amx = 0 ∧ o.qsk = 0) → (o.coded = true → o.count ≤ o.cargo.length) → (s.goals o)[i]? = some g → g.slot = false →
    isHere g.loc = true → (∀ j h, j ≠ i → (s.goals o)[j]? = some h → ∃ pos, h.loc = .away pos) → noFlagDue s →
    (let w := fmtBits o.dst.fmt
     let es := givenNow s o i
     let bits := es.map (fun e => e.1)
     w ≠ 0 → bits.Pairwise (fun x y => x + w ≤ y ∨ y + w ≤ x) → (∀ x ∈ bits, x % 8 = 0 ∨ x % 8 + w ≤ 8) → placesApart o g.loc w bits s →
     ∃ t, exec (.engineComplete n) s = .next t ∧
       (∀ e ∈ es, codeAt s g.loc t w e.1 = movedCode o (codeAt s g.loc s w e.1) e.2.1 % 2 ^ w) ∧ restKept o g.loc w bits s t ∧
       keepsRegisters s t)) ∧
  (∀ (n : Nat) (o : EngineOp) (s : State), s.findOp n = some o → o.stage = .moved → s.written o = true → o.kind ≠ .hostcopy →
    ∃ t, exec (.engineComplete n) s = .next t ∧ t.ops = s.ops.filter (fun p => decide (p.id ≠ o.id)) ∧
      (∀ ctx i, (t.handle ctx i).users.contains o.id = false) ∧
      (t.group o.group).erq = (s.group o.group).erq.map (fun e =>
        if e.op = o.id ∧ e.cls = o.cls then { e with finished := true, status := (BitVec.ofNat 64 o.status).toNat } else e) ∧
      keepsRegisters s t) ∧
  (∀ (g cls : Nat) (e : ErqEnt) (s : State), (s.group g).erq.find? (fun e => decide (e.cls = cls)) = some e → e.finished = true →
    ∃ t, exec (.erqReport g cls) s = .next t ∧ (t.group g).counter cls + 1 = (s.group g).counter cls ∧
      (∀ c, c ≠ cls → (t.group g).counter c = (s.group g).counter c) ∧ (∀ k, k ≠ g → t.group k = s.group k) ∧
      keepsRegisters s t ∧ keepsMemory s t ∧ t.blocks = s.blocks)

/-- SKMERGE_APPLY merges into an object of this chip in one step, or ends with SUMMARY or POISON_READ and writes no byte (R278, R298, R300, R437);
SLOT_CHUNK_COMBINE sends a chunk that every source has contributed to as the segments of one operation, or applies it to the destination here
(R170, R171, log 80; when a source's part of a chunk counts as whole is log 59, the model's reading); and BULK_TIMEOUT of an operation whose limit has passed drops what no link has accepted, sends its end markers with
FABRIC_TIMEOUT, and leaves that bit in the operation's status or in MERR of the group that issued it (R164). -/
def Obligations.MergesSlotsAndTimeouts : Prop :=
  (∀ (n : Nat) (o : EngineOp) (s : State), s.findOp n = some o → o.kind = .skmerge → o.stage = .accepted → o.dead = false →
    isHere (s.dstLoc o) = true → s.srcGone o = false → ∃ t, exec (.skmergeApply n) s = .next t ∧
      t.findOp n = some { o with stage := .moved, status := Nat.lor o.status (mergeOutcome s o).1.toNat } ∧
      keepsRegisters s t ∧ t.entries = s.entries ∧
      ((mergeOutcome s o).2 = none → (∀ a, readByte t.mem a = readByte s.mem a) ∧
        ∀ b, (t.block b).spad = (s.block b).spad ∧ (t.block b).ob = (s.block b).ob) ∧
      (∀ b obj, s.dstLoc o = .spad b → (mergeOutcome s o).2 = some obj →
        wrote o.dst.off (keepBits o.dst.off obj) (s.block b).spad (t.block b).spad ∧ keepsMemory s t) ∧
      (∀ ctx i obj, s.dstLoc o = .mem ctx i → (mergeOutcome s o).2 = some obj →
        (let pa := fun j => (s.handle ctx i).pa (o.dst.off + j)
         (∀ j k, j < obj.length → k < obj.length → pa j = pa k → j = k) →
         (∀ q ∈ (s.handle ctx i).pins, 12 ≤ q.bits) →
         (∀ j, j < obj.length → readByte t.mem (pa j) = obj.getD j 0) ∧
         ∀ a, (∀ j, j < obj.length → pa j ≠ a) → readByte t.mem a = readByte s.mem a))) ∧
  (∀ (slot chunk via : Nat) (p : SlotPart) (rest : List SlotPart) (s : State),
    (let row := s.slotRow s.fab.pos slot
     let pos := s.rankPos row.grid row.dest
     let ps := s.chunkParts slot chunk row
     let es := chunkElems row.format row.red ps
     let n := fmtBits row.format / 8
     ps = p :: rest → row.held = true → row.ranks.all (s.chunkReady slot chunk) = true → pos ≠ s.fab.pos →
     s.bulkPath pos false = some via → s.fab.fenced.contains pos = false → ∃ t, exec (.slotChunkCombine slot chunk) s = .next t ∧
       t.fab.slotParts = s.fab.slotParts.filter (fun p => decide (p ∉ ps)) ∧
       t.fab.slotLost = s.fab.slotLost.filter (fun x => !decide (x.1 = slot ∧ x.2.1 = chunk)) ∧
       (∃ segs more, t.fab.bulkOut = s.fab.bulkOut ++ segs ++ more ∧ segs.map (fun m => (m.dst, m.via, m.msg)) =
         (plainSegs s.fab.pos (64 * s.fab.params.segMax) true
           { dst := pos, ctx := p.ctx, cgen := s.cgen p.ctx, red := row.red, c4 := false, slot := false, slotno := 0, fmt := row.format,
             via := via, reply := false, direct := false, opnum := s.fab.nextOp, handle := p.dest, srcrank := row.srcBase,
             lo := (es.map (fun e => e.1 / 8)).headD 0, hi := (es.map (fun e => e.1 / 8 + n)).foldl max 0, segs := 0 }
           (outBytes (fmtBits row.format) es)).map (fun m => (pos, via, Msg.seg m))) ∧
       keepsRegisters s t ∧ ((∀ o ∈ s.fab.slotOps, o.slot = slot ∨ o.ended = false) → keepsMemory s t))) ∧
  (∀ (slot chunk : Nat) (p : SlotPart) (rest : List SlotPart) (s : State),
    (let row := s.slotRow s.fab.pos slot
     let ps := s.chunkParts slot chunk row
     let es := chunkElems row.format row.red ps
     let n := fmtBits row.format / 8
     let mine := s.fab.slotOps.filter (fun o => ps.any (fun p => decide (p.src = o.src ∧ p.opnum = o.opnum)))
     let pa := fun a => (s.handle p.ctx p.dest).pa a
     ps = p :: rest → row.held = true → row.ranks.all (s.chunkReady slot chunk) = true →
     s.rankPos row.grid row.dest = s.fab.pos → ∃ t, exec (.slotChunkCombine slot chunk) s = .next t ∧
       t.fab.slotParts = s.fab.slotParts.filter (fun p => decide (p ∉ ps)) ∧ keepsRegisters s t ∧
       (s.slotDestStatus p.ctx p.dest ((es.map (fun e => e.1 / 8 + n)).foldl max 0) mine = 0 →
        (∀ o ∈ s.fab.slotOps, o.ended = false ∨ o.flag = 2 ^ 64 - 1) →
        (∀ e ∈ es, ∀ f ∈ es, ∀ j k, j < n → k < n → pa (e.1 / 8 + j) = pa (f.1 / 8 + k) → e.1 = f.1 ∧ j = k) →
        (∀ q ∈ (s.handle p.ctx p.dest).pins, 12 ≤ q.bits) →
        (∀ e ∈ es, ∀ j, j < n → readByte t.mem (pa (e.1 / 8 + j)) =
          (bytesLE n (combine row.format row.red (natLE ((List.range n).map (fun k => readByte s.mem (pa (e.1 / 8 + k))))) e.2.1)).getD j 0) ∧
        ∀ a, (∀ e ∈ es, ∀ j, j < n → pa (e.1 / 8 + j) ≠ a) → readByte t.mem a = readByte s.mem a))) ∧
  (∀ (n : Nat) (b : BulkOp) (s : State), s.fab.bulkOps.find? (fun b => decide (b.opnum = n)) = some b → b.stopped = false →
    b.since + b.limit ≤ s.fab.podtime → ∃ t, exec (.bulkTimeout n) s = .next t ∧
      t.fab.bulkOps = s.fab.bulkOps.filter (fun x => decide (x ≠ b)) ∧
      (∃ ms, t.fab.bulkOut = s.fab.bulkOut.filter (fun m => m.sent || !partOf s.fab.pos n m) ++ ms ∧
        ms.map (fun m => (m.dst, m.via, m.msg)) = (if s.fab.fenced.contains b.dst then [] else
          (b.paths.filter (fun via => !s.fab.fenced.contains via)).map (fun via =>
            (b.dst, via, Msg.marker (bulkMarker s b (Nat.lor b.status 0x080) via))))) ∧
      (∀ o ∈ s.ops, o.id = b.engine → ∃ p ∈ t.ops, p.id = o.id ∧ p.status = Nat.lor o.status 0x080) ∧
      (∀ k, (∀ o ∈ s.ops, o.id ≠ b.engine) → s.issuerOf b = some k → (t.group k).merr = ((s.group k).setMerr 0x080).merr) ∧
      keepsRegisters s t ∧ keepsMemory s t ∧ t.entries = s.entries)

namespace Sys2Proof.Claim

/-! ### Bulk data and messages of other chips (R106 to R117, R154, R155, R459 to R461) -/

/-- One LS message waits at the ports for `dst`, behind those that stood there. -/
def sentLs (m : LsMsg) (s t : State) : Prop := ∃ o, t.fab.lsOut = s.fab.lsOut ++ [o] ∧ o.dst = m.dst ∧ o.msg = .ls m

/-- Bulk messages wait for the path queues, in this order, behind those that stood there. -/
def sentBulk (ms : List (Nat × Nat × Msg)) (s t : State) : Prop :=
  ∃ os, t.fab.bulkOut = s.fab.bulkOut ++ os ∧ os.map (fun o => (o.dst, o.via, o.msg)) = ms

/-- A plain segment of bytes (R154): no reduction, compression, slot, merge or mask, and no answer. -/
def plainSegment (m : SegMsg) : Prop := m.red = 0 ∧ m.c4 = false ∧ m.slot = false ∧ m.mask = 0 ∧ m.fmt ≠ 15 ∧ m.reply = false

/-- An end marker of an operation on one path, of which nothing is known here yet. -/
def loneMarker (m : MarkerMsg) (typ : Nat) (s : State) : Prop :=
  m.dst = s.fab.pos ∧ m.typ = typ ∧ s.refuses m.src m.ctx m.cgen = false ∧ s.markWaits m.src m.ctx = false ∧
  s.fab.gathers.find? (markerKey m) = none

/-- No chip that is present is fenced (R163). -/
def noneFenced (s : State) : Prop := ∀ x ∈ s.fab.fenced, s.fab.occupied.contains x = false

/-- A message of these flows reaches this chip in its turn, of a current generation (R108, R109, R132). -/
def inTurn (m : LsMsg) (flows : List Nat) (s : State) : Prop :=
  m.dst = s.fab.pos ∧ s.fab.shut m.src = false ∧ flows.contains m.flow = true ∧ s.frbTurn m = .go ∧ m.cgen = s.cgen m.ctx

/-- The translation of a request's address that the TLB for other chips' requests holds (R23, log 54). -/
def ownerHit (s : State) (m : LsMsg) (base : Nat) : Option TlbEnt := (getKey [] s.l2tlb 0).find? (tlbCovers m.ctx (base + winOff m.addr))

/-- A reply in its turn whose tag names a request that waits (R137), of an entry of group `k` that is no engine's and no read of a
summary object. -/
def answers (m : LsMsg) (e : Entry) (k : Nat) (s : State) : Prop :=
  inTurn m [4] s ∧ s.answered m = some e ∧ e.issuer = .group k ∧ (∀ op read, e.op ≠ .engWin op read) ∧
  e.summaryRead (s.group k) = false ∧ e.lostRead (s.group k) = false ∧ e.byHandler = false

/-- A request slot is free again (R136). -/
def slotFreed (m : LsMsg) (t : State) : Prop := ((t.core (msgCore m)).slot (m.tag / 16)).inUse = false

/-- An entry is a push that waits for the result of entry `e` of group `k` (R364). -/
def awaits (f e : Entry) (k : Nat) (s : State) : Bool :=
  (s.group k).results.any (fun r => decide (some r.id = e.res ∧ f.waits = some r.id))

/-- The entry has ended without its effect, and a push that waited for its result with it (R364): an asynchronous trap of this code stands
before its group (R138, R241), and no register changes. -/
def endedBy (code : Nat) (e : Entry) (k : Nat) (s t : State) : Prop :=
  t.entries = s.entries.filter (fun f => decide (f.id ≠ e.id) && !awaits f e k s) ∧ (∃ x ∈ (t.group k).async, x.code = code) ∧ keepsRegisters s t ∧ keepsMemory s t ∧ t.blocks = s.blocks

end Sys2Proof.Claim

/-- A segment is counted once for its operation (R161), and a plain one writes its bytes through the region's pins and no others (R459,
R154); a read request is answered with its elements, by the path policy that it asks for (R449), after which its end marker becomes due (R113), or with the
marker's status alone (R36, R154). The answer's one path, its number and the marker's slot 63 are the model's choices (logs 24 and 30), and so is that bulk data
for a rank that the chip is still to take up waits there (R24, R420, log 92). -/
def Obligations.BulkArrivals : Prop :=
  (∀ (m : SegMsg) (s : State), m.dst = s.fab.pos → s.refuses m.src m.ctx m.cgen = false → m.reply = false → s.segWaits m = false →
    (∀ b, s.findBulkIn m.src m.opnum = some b → b.segs.contains m.segnum = false) → ∃ t, exec (.bulkSegment m) s = .next t ∧
      (∃ b, t.findBulkIn m.src m.opnum = some b ∧ m.segnum ∈ b.segs) ∧ keepsRegisters s t ∧ t.entries = s.entries) ∧
  (∀ (m : SegMsg) (b : BulkIn) (s : State), m.dst = s.fab.pos → s.refuses m.src m.ctx m.cgen = false → m.reply = false → s.segWaits m = false →
    s.findBulkIn m.src m.opnum = some b → m.segnum ∈ b.segs → exec (.bulkSegment m) s = .next s) ∧
  (∀ (m : SegMsg) (s : State), m.dst = s.fab.pos → s.refuses m.src m.ctx m.cgen = false → m.reply = false → s.segWaits m = true →
    ∃ t, exec (.bulkSegment m) s = .next t ∧ t.fab.bulkWaits = s.fab.bulkWaits ++ [.seg m] ∧ t.handles = s.handles ∧ t.groups = s.groups ∧
      t.fab.slotParts = s.fab.slotParts ∧ keepsMemory s t) ∧
  (∀ (m : SegMsg) (s : State),
    (let i := m.dest / 2 ^ 48
     let h := s.handle m.ctx i
     let pa := fun j => h.pa (m.dest % 2 ^ 48 + j)
     plainSegment m → m.dst = s.fab.pos → s.refuses m.src m.ctx m.cgen = false → s.segWaits m = false →
     s.findBulkIn m.src m.opnum = none →
     handleStatus h i m.xhi true = 0 → (∀ j k, j < m.nbytes → k < m.nbytes → pa j = pa k → j = k) →
     ∃ t, exec (.bulkSegment m) s = .next t ∧ (∀ j, j < m.nbytes → readByte t.mem (pa j) = m.data.getD j 0) ∧
       (∀ a, (∀ j, j < m.nbytes → pa j ≠ a) → readByte t.mem a = readByte s.mem a) ∧
       (t.handle m.ctx i).users.contains (bulkUser m.src m.opnum) = true ∧ keepsRegisters s t)) ∧
  (∀ (m : ReadReqMsg) (s : State), m.dst = s.fab.pos → s.refuses m.src m.ctx m.cgen = false → s.notYet m.ctx (readReqRecord m).index = true →
    ∃ t, exec (.bulkReadRequest m) s = .next t ∧ t.fab.bulkWaits = s.fab.bulkWaits ++ [.readReq m] ∧ t.fab.bulkOut = s.fab.bulkOut ∧
      t.groups = s.groups ∧ keepsMemory s t) ∧
  (∀ (m : ReadReqMsg) (s : State), m.dst = s.fab.pos → s.refuses m.src m.ctx m.cgen = false → s.notYet m.ctx (readReqRecord m).index = false →
    ∃ t, exec (.bulkReadRequest m) s = .next t ∧
    (let r := readReqRecord m
     let st := handleStatus (s.handle m.ctx r.index) r.index r.last false
     let via := (s.bulkPath m.src m.direct).getD 0xFFFF
     let h : BulkHead := { dst := m.src, ctx := m.ctx, cgen := m.cgen, red := 0, c4 := false, slot := false, slotno := 0, fmt := m.fmt,
                           via := via, reply := true, direct := m.direct, opnum := m.opnum, handle := 0, srcrank := 0, lo := 0, hi := 0, segs := 0 }
     let segs := if st = 0 then replySegs s.fab.pos (64 * s.fab.params.segMax) (fmtBits m.fmt) h (s.packedReply m) else []
     let num := replyNum m.src m.opnum
     let mark : MarkerMsg := { src := s.fab.pos, dst := m.src, ctx := m.ctx, cgen := m.cgen, typ := 1, via := via, core := 0, gslot := 63,
                               number := m.opnum % 2 ^ 32, paths := 1, status := st.toNat, flag := 2 ^ 64 - 1 }
     (∃ os more, t.fab.bulkOut = s.fab.bulkOut ++ os ++ more ∧
       os.map (fun o => (o.dst, o.via, o.msg)) = segs.map (fun g => (m.src, via, Msg.seg g)) ∧
       (segs ≠ [] → ∃ b ∈ t.fab.bulkOps, b.opnum = num ∧ b.dst = m.src ∧ b.paths = [via] ∧ b.whole = true ∧ b.marked = false ∧
         b.status = st.toNat) ∧
       (segs = [] → s.fab.fenced.contains via = false → s.fab.bulkOut.any (fun o => isSeg o.msg && partOf s.fab.pos num o) = false →
         ∃ o ∈ more, o.dst = m.src ∧ o.via = via ∧ o.msg = .marker mark)) ∧
     keepsRegisters s t ∧ (noFlagDue s → keepsMemory s t ∧ t.handles = s.handles)))

/-- Markers (R112, R113, R155, R422): the last end marker of an operation adds its arrival flag, the last flush marker of a flush is
acknowledged, a marker before the last only counts, or where a path by a fenced chip is still awaited ends the flush with PEER_FENCED (R163,
log 44), and an acknowledgement from the last destination ends the flush. The acknowledgement's number and bit are R153's; its tag, the group's slot and
core, is the model's choice (log 31), and an answer's end markers are told apart by slot 63 (log 30). A flag whose handle is free, or drains and has not
accepted the command, adds nothing (R422, R37). -/
def Obligations.MarkersComplete : Prop :=
  (∀ (m : MarkerMsg) (s : State), loneMarker m 1 s → m.paths = 1 → m.gslot ≠ 63 → (m.gslot = 62 → ∀ b ∈ s.fab.bulkIn, b.status = 0) →
    (∀ o ∈ s.fab.slotOps, o.src ≠ m.src ∨ o.opnum ≠ m.number) → s.findBulkIn m.src m.number = none →
    (let i := m.flag / 2 ^ 48
     let off := m.flag % 2 ^ 48
     let h := s.handle m.ctx i
     m.flag ≠ 2 ^ 64 - 1 → off ≠ 0xFFFFFFFF → i ≠ 0 → i < 4096 → h.serves (bulkUser m.src m.number) = true → h.wr = true → off + 4 ≤ h.length → off % 4 = 0 →
     poisoned s.poison (h.pa off) 4 = false → ∃ t, exec (.endMarker m) s = .next t ∧
       wrote (h.pa off) (bytesLE 4 ((readNat s.mem (h.pa off) 4 + if BitVec.ofNat 64 m.status = 0 then 1 else 0x10000) % 2 ^ 32)) s.mem t.mem ∧
       keepsRegisters s t)) ∧
  (∀ (m : MarkerMsg) (s : State), loneMarker m 1 s → m.paths = 1 → m.gslot ≠ 63 → (∀ o ∈ s.fab.slotOps, o.src ≠ m.src ∨ o.opnum ≠ m.number) →
    s.findBulkIn m.src m.number = none →
    (let h := s.handle m.ctx (m.flag / 2 ^ 48)
     m.flag / 2 ^ 48 = 0 ∨ 4096 ≤ m.flag / 2 ^ 48 ∨ h.st = .free ∨ h.st = .draining ∧ h.users.contains (bulkUser m.src m.number) = false →
     ∃ t, exec (.endMarker m) s = .next t ∧ keepsRegisters s t ∧ keepsMemory s t)) ∧
  (∀ (m : MarkerMsg) (s : State), loneMarker m 1 s → 1 < m.paths → noneFenced s → ∃ t, exec (.endMarker m) s = .next t ∧
    (∃ g ∈ t.fab.gathers, markerKey m g = true ∧ g.got = [m.via] ∧ g.status = m.status) ∧ t.groups = s.groups ∧ keepsMemory s t) ∧
  (∀ (m : MarkerMsg) (s : State), loneMarker m 0 s → m.paths = 1 → ∃ t, exec (.flushMarker m) s = .next t ∧
    (∃ a, sentLs a s t ∧ a.op = 0xF5 ∧ a.flow = 4 ∧ a.dst = m.src ∧ a.data = BitVec.ofNat 128 m.number) ∧ t.groups = s.groups ∧
    keepsMemory s t) ∧
  (∀ (m : MarkerMsg) (s : State), loneMarker m 0 s → 1 < m.paths → noneFenced s → ∃ t, exec (.flushMarker m) s = .next t ∧
    t.fab.lsOut = s.fab.lsOut ∧ (∃ g ∈ t.fab.gathers, markerKey m g = true ∧ g.got = [m.via]) ∧ t.groups = s.groups ∧ keepsMemory s t) ∧
  (∀ (m : MarkerMsg) (x : Nat) (s : State), loneMarker m 0 s → 1 < m.paths → s.fab.fenced.contains x = true → s.fab.occupied.contains x = true →
    x ≠ m.via → Config.awaitsVia x m.src m.number = true → ∃ t, exec (.flushMarker m) s = .next t ∧
    (∃ a, sentLs a s t ∧ a.op = 0xF5 ∧ a.flow = 4 ∧ a.dst = m.src ∧ a.data = BitVec.ofNat 128 (m.number + 2 ^ 32)) ∧ t.groups = s.groups ∧
    keepsMemory s t) ∧
  (∀ (m : LsMsg) (f : Flush) (s : State), m.op = 0xF5 → m.dst = s.fab.pos → s.refuses m.src m.ctx m.cgen = false → m.tag / 256 < 32 →
    (let k := m.tag % 256 * 32 + m.tag / 256
     (s.group k).flush = some f → f.number = m.data.toNat % 2 ^ 32 → f.awaited = [m.src] → f.fenced = false →
     m.data.toNat / 2 ^ 32 % 256 ≠ 1 → ∃ t, exec (.flushAcknowledgement m) s = .next t ∧ (t.group k).flush = none ∧
       (∀ j, j ≠ k → t.group j = s.group j) ∧ keepsRegisters s t ∧ keepsMemory s t))

/-- A request of another chip in its flow's turn (R108, R109) stands at its home slice behind this chip's page tables, once its TLB has the translation, and
until then waits for a walk (R23, R39; which TLB, and NOT_HELD where the tables do not let it through, are log 54), or at its gang member's bank, or is
answered NOT_HELD or DEPARTED (R24, R14, R461); one before its turn waits; SKIP counts its number. -/
def Obligations.RequestsDelivered : Prop :=
  (∀ (m : LsMsg) (op : EntOp) (base : Nat) (s : State), inTurn m [0, 1] s → requestOp m = some op →
    findKey s.exports (msgGrid m * 1024 + rankOf m.addr) = some base →
    (ownerHit s m base = none ∨ ∃ x, ownerHit s m base = some x ∧ op.mayWrite = true ∧ x.w = true ∧ x.d = false) →
    ∃ t, exec (.frbDeliver m) s = .next t ∧ t.entries = s.entries ∧ m ∈ t.fab.frb ∧
      (∃ w ∈ t.walks, w.peer = true ∧ w.ctx = m.ctx ∧ w.va / 65536 = (base + winOff m.addr) / 65536 ∧ w.write = op.mayWrite) ∧
      t.groups = s.groups ∧ t.blocks = s.blocks ∧ keepsMemory s t) ∧
  (∀ (m : LsMsg) (op : EntOp) (base : Nat) (x : TlbEnt) (s : State), inTurn m [0, 1] s → requestOp m = some op →
    findKey s.exports (msgGrid m * 1024 + rankOf m.addr) = some base → ownerHit s m base = some x →
    (op.mayWrite = true → x.w = true ∧ x.d = true) → ∃ t, exec (.frbDeliver m) s = .next t ∧
      (∃ e, t.entries = s.entries ++ [e] ∧ e.issuer = .peer m.src m ∧ e.op = op ∧ e.stage = .net ∧ e.kind = x.kind ∧
        e.target = .memory (x.pa + (base + winOff m.addr - x.va))) ∧ t.groups = s.groups ∧ t.blocks = s.blocks ∧ keepsMemory s t) ∧
  (∀ (m : LsMsg) (op : EntOp) (base : Nat) (x : TlbEnt) (s : State), inTurn m [0, 1] s → requestOp m = some op →
    findKey s.exports (msgGrid m * 1024 + rankOf m.addr) = some base → ownerHit s m base = some x → op.mayWrite = true → x.w = false →
    ∃ t, exec (.frbDeliver m) s = .next t ∧ t.entries = s.entries ∧
      (∃ a, sentLs a s t ∧ a.op = 0xF2 ∧ a.dst = m.src ∧ a.tag = m.tag) ∧ keepsRegisters s t ∧ keepsMemory s t) ∧
  (∀ (m : LsMsg) (op : EntOp) (s : State), inTurn m [0, 1] s → requestOp m = some op →
    findKey s.exports (msgGrid m * 1024 + rankOf m.addr) = none → ∃ t, exec (.frbDeliver m) s = .next t ∧ t.entries = s.entries ∧
      (∃ a, sentLs a s t ∧ a.op = 0xF2 ∧ a.dst = m.src ∧ a.tag = m.tag) ∧ keepsRegisters s t ∧ keepsMemory s t) ∧
  (∀ (m : LsMsg) (op : EntOp) (bk : Nat) (s : State), inTurn m [2] s → requestOp m = some op →
    s.gangMember m (m.addr / 2 ^ 19) = some bk → ∃ t, exec (.frbDeliver m) s = .next t ∧
      (∃ e, t.entries = s.entries ++ [e] ∧ e.issuer = .peer m.src m ∧ e.op = op ∧ e.stage = .bank ∧
        e.target = .bank bk (m.addr % 2 ^ 19)) ∧ t.groups = s.groups ∧ t.blocks = s.blocks ∧ keepsMemory s t) ∧
  (∀ (m : LsMsg) (op : EntOp) (s : State), inTurn m [2] s → requestOp m = some op → s.gangMember m (m.addr / 2 ^ 19) = none →
    ∃ t, exec (.frbDeliver m) s = .next t ∧ t.entries = s.entries ∧ (∃ a, sentLs a s t ∧ a.op = 0xF8 ∧ a.dst = m.src ∧ a.tag = m.tag) ∧
      getKey 0 t.fab.nextIn (m.src * 8 + m.flow) = (m.seq + 1) % 2 ^ 32 ∧ t.groups = s.groups ∧ keepsMemory s t) ∧
  (∀ (m : LsMsg) (s : State), m.dst = s.fab.pos → s.fab.shut m.src = false → [0, 1, 2, 3].contains m.flow = true →
    s.frbTurn m = .hold → ∃ t, exec (.frbDeliver m) s = .next t ∧ m ∈ t.fab.frb ∧ t.entries = s.entries ∧ t.groups = s.groups ∧
      t.blocks = s.blocks ∧ keepsMemory s t) ∧
  (∀ (m : LsMsg) (s : State), inTurn m [0, 2, 3] s → m.op = 0xFA → ∃ t, exec (.skip m) s = .next t ∧
    getKey 0 t.fab.nextIn (m.src * 8 + m.flow) = (m.seq + 1) % 2 ^ 32 ∧ t.entries = s.entries ∧ t.groups = s.groups ∧
    t.blocks = s.blocks ∧ keepsMemory s t)

/-- Replies free their request slot (R136, R137): data binds the entry's bytes, and a result that is then whole is written and its lane
RUNs (R172, R176); a MARM's answer arms its monitor or fires it (R117); an acknowledgement ends a write, with POISON_READ in MERR where it says
so (R110); and the others end their entry with the trap that they name (R163, R460, R461). That bit 0 of an acknowledgement's data says POISON_READ is log 55's coding, which core an answer is for log 33's, and how a request is
sent again after NOT_HELD log 54's. -/
def Obligations.RepliesComplete : Prop :=
  (∀ (m : LsMsg) (e : Entry) (k : Nat) (r : PendRes) (l : Nat) (regs : List Nat) (s : State), answers m e k s → m.op = 0xF0 →
    (∀ x, e.op ≠ .marm x) → (s.group k).results.find? (fun r => decide (some r.id = e.res)) = some r →
    ((s.group k).results.map PendRes.id).Nodup → r.left = 1 → r.dst = .lane l regs → e.lane = some l → regs.Nodup → l < laneCount →
    ∃ t, exec (.replyData m) s = .next t ∧
      (let v := r.value + m.data.toNat % 2 ^ (8 * e.size) * 2 ^ (8 * e.off)
       entriesAfter [e.id] [] s t ∧ slotFreed m t ∧ (t.group k).results = (s.group k).results.filter (fun x => decide (x.id ≠ r.id)) ∧
       (∀ q j, j < laneCount → (t.group k).vreg q j =
         if j = l ∧ q ∈ regs then BitVec.ofNat 32 (v / 2 ^ (32 * regs.idxOf q)) else (s.group k).vreg q j) ∧
       ((∀ f ∈ s.entries, f.id ≠ e.id → f.sameGroup e = false) → ((t.group k).lane l).st ≠ .parked) ∧ keepsMemory s t)) ∧
  (∀ (m : LsMsg) (e : Entry) (k v : Nat) (s : State), answers m e k s → m.op = 0xF0 → e.op = .marm v → (s.group k).monEntry = e.id →
    (s.group k).mon = .pending → ∃ t, exec (.replyData m) s = .next t ∧ entriesAfter [e.id] [] s t ∧ slotFreed m t ∧
      (t.group k).mon = (if m.data.toNat % 2 ^ 32 = 0 then .armed else .fired) ∧ keepsRegisters s t ∧ keepsMemory s t) ∧
  (∀ (m : LsMsg) (e : Entry) (k : Nat) (s : State), answers m e k s → m.op = 0xF1 → m.scope ≠ 0 →
    ∃ t, exec (.acknowledgement m) s = .next t ∧ entriesAfter [e.id] [] s t ∧ slotFreed m t ∧
      (t.group k).merr = (if m.data.toNat % 2 = 1 then ((s.group k).setMerr 0x008).merr else (s.group k).merr) ∧
      keepsRegisters s t ∧ keepsMemory s t) ∧
  (∀ (m : LsMsg) (e : Entry) (k : Nat) (s : State), answers m e k s →
    (m.op = 0xF3 → ∃ t, exec (.peerFencedReply m) s = .next t ∧ endedBy 0x0A e k s t ∧ slotFreed m t) ∧
    (m.op = 0xF8 → ∃ t, exec (.departedReply m) s = .next t ∧ endedBy 0x07 e k s t ∧ slotFreed m t) ∧
    (m.op = 0xF9 → ∃ t, exec (.poisonReply m) s = .next t ∧ endedBy 0x06 e k s t ∧ slotFreed m t)) ∧
  (∀ (m : LsMsg) (e : Entry) (k : Nat) (s : State), answers m e k s → m.op = 0xF2 →
    (let grid := (s.block (s.group k).block).grid
     (s.rankPos grid (rankOf e.target.base) = m.src → ∃ t, exec (.notHeld m) s = .next t ∧ t.entries = s.entries ∧
       (∃ a, sentLs a s t ∧ a.op = e.opc ∧ a.tag = e.tag ∧ a.seq = e.fseq ∧ a.addr = e.target.base) ∧
       ((t.core e.core).slot (e.tag / 16)).resent = true ∧ keepsRegisters s t ∧ keepsMemory s t) ∧
     (s.rankPos grid (rankOf e.target.base) ≠ m.src → ∃ t, exec (.notHeld m) s = .next t ∧ endedBy 0x0A e k s t)))

/-- A wake fires its monitor (R117), a notice sets or clears the member's presence in every resident of its gang, and a departure is
acknowledged (R16, R18, R190); a request whose limit has passed ends with FABRIC_TIMEOUT, a release that waited for its store ends with it
(R138), and its slot takes the next generation (R136 to R138), and a slot withheld is given back. That the waiting release traps FABRIC_TIMEOUT itself is
log 66, that a wake names its group and MARM in the data is logs 33 and 55, and the acknowledgement's scope log 60. -/
def Obligations.NoticesAndTimers : Prop :=
  (∀ (m : LsMsg) (k : Nat) (g : Group) (s : State), inTurn m [3] s → m.op = 0xF4 → s.groups.find? (fun p => decide (p.1 = k)) = some (k, g) →
    k = m.data.toNat % 2 ^ 16 → g.monEntry % 2 ^ 64 = m.data.toNat / 2 ^ 64 → g.monTag = m.tag + 1 → g.monPos = some m.src →
    (g.mon = .armed ∨ g.mon = .pending) → ∃ t, exec (.monitorWake m) s = .next t ∧
      (t.group k).mon = .fired ∧ keepsRegisters s t ∧ keepsMemory s t ∧ t.entries = s.entries) ∧
  (∀ (m : LsMsg) (s : State), inTurn m [2] s → m.op = 0xF6 → s.noticed m ≠ [] → ∃ t, exec (.attachNotice m) s = .next t ∧
    (∀ p ∈ s.noticed m, (findKey (s.block p.1).members (noticeIndex m)).isSome = true →
      ((t.block p.1).member (noticeIndex m)).present = true ∧ ((t.block p.1).member (noticeIndex m)).pos = m.src) ∧
    t.groups = s.groups ∧ t.entries = s.entries ∧ keepsMemory s t) ∧
  (∀ (m : LsMsg) (s : State), inTurn m [2] s → m.op = 0xF7 → ∃ t, exec (.departureNotice m) s = .next t ∧
    (∀ p ∈ s.noticed m, (findKey (s.block p.1).members (noticeIndex m)).isSome = true →
      ((t.block p.1).member (noticeIndex m)).present = false ∧ ((t.block p.1).member (noticeIndex m)).departed = true) ∧
    (∃ a, sentLs a s t ∧ a.op = 0xF1 ∧ a.dst = m.src ∧ a.scope = m.scope) ∧ t.groups = s.groups ∧ t.entries = s.entries ∧ keepsMemory s t) ∧
  (∀ (c n k : Nat) (e : Entry) (s : State),
    (let r := (s.core c).slot n
     r.inUse = true → r.since + r.limit ≤ s.fab.podtime → s.findEntry r.entry = some e → e.issuer = .group k → e.core = c →
     e.tag = n * 16 + r.gen → r.gen < 16 → (∀ op read, e.op ≠ .engWin op read) → e.summaryRead (s.group k) = false →
     e.lostRead (s.group k) = false → e.byHandler = false → ∃ t, exec (.requestTimeout c n) s = .next t ∧
       (∀ f ∈ t.entries, f.id ≠ e.id) ∧ (∃ x ∈ (t.group k).async, x.code = 0x09) ∧
       (e.op.mayWrite = true → ∀ r ∈ s.entries, r.waitsFor e = true → ∀ f ∈ t.entries, f.id ≠ r.id) ∧
       (e.op.mayWrite = true → e.ordered = true → (∀ r ∈ s.entries, r.waitsFor e = false) → (s.group k).waiting = .release →
         ∀ pc b, (s.group k).rel = some (pc, b) → (t.group k).rel = some (pc, true)) ∧
       ((∀ r ∈ s.entries, r.waitsFor e = true → e.op.mayWrite = false) → endedBy 0x09 e k s t) ∧ ((t.core c).slot n).inUse = false ∧
       ((t.core c).slot n).gen = (r.gen + 1) % 16 ∧ ((t.core c).slot n).withheld = decide ((r.gen + 1) % 16 = 0))) ∧
  (∀ (c n : Nat) (s : State), ((s.core c).slot n).withheld = true → ((s.core c).slot n).since + ((s.core c).slot n).limit ≤ s.fab.podtime →
    ∃ t, exec (.slotWithholdExpire c n) s = .next t ∧ ((t.core c).slot n).withheld = false ∧
      ((t.core c).slot n).gen = ((s.core c).slot n).gen ∧ t.groups = s.groups ∧ t.entries = s.entries ∧ t.blocks = s.blocks ∧ keepsMemory s t)

namespace Sys2Proof.Claim

/-! ### Links and ports (R142 to R161) -/

/-- Nothing but the fabric, the agenda and the telemetry changes. -/
def keepsCompute (s t : State) : Prop :=
  t.groups = s.groups ∧ t.blocks = s.blocks ∧ t.entries = s.entries ∧ t.ops = s.ops ∧ keepsMemory s t

/-- Payloads stand behind what a link has to send and in its replay buffer, under the next numbers, and take their flit times (R146, R158, R160). -/
def linkSent (ps : List (List Byte)) (l k : Link) : Prop :=
  let fs := ps.zipIdx.map (fun p => (l.txNext + p.2, ({ payload := p.1, crc := crcOf (l.txNext + p.2) p.1 } : Flit)))
  k.txNext = l.txNext + ps.length ∧ k.ticks = l.ticks + ps.length ∧ k.replayBuf = l.replayBuf ++ fs ∧ k.toSend = l.toSend ++ fs.map Prod.snd

/-- A message has gone out on a port's link by the path `via`, marked as sent and awaited; a segment that leaves its path queue for another
path adds that one to the paths of its operation (R111). -/
def msgSent (port via : Nat) (m : OutMsg) (s t : State) : Prop :=
  (∃ hop, linkSent (encodeMsg hop (if m.relayed then m.msg else onPath via m.msg)) (s.link port) (t.link port)) ∧
  (t.link port).unacked = (s.link port).unacked ++ [(m.id, (t.link port).txNext - 1, msgClass m.msg)] ∧
  (∀ x ∈ t.fab.lsOut ++ t.fab.bulkOut ++ t.fab.ctlOut, x.id = m.id → x.sent = true) ∧
  keepsRegisters s t ∧ keepsMemory s t ∧ t.blocks = s.blocks ∧ t.entries = s.entries ∧
  (m.via = via ∨ m.relayed = true ∨ msgClass m.msg ≠ 1 → keepsCompute s t)

/-- The port owes its partner nothing: no link message, and no relay credit. -/
def noneOwed (port j : Nat) (s : State) : Prop :=
  s.sender port = some j ∧ (s.link port).dueNak = false ∧ (s.link port).dueAck = false ∧
  getKey 0 s.fab.lsOwed j = 0 ∧ getKey 0 s.fab.bulkOwed j = 0

/-- The first control-share message for the partner of a port that may go now (R146). -/
def nextControl (port j : Nat) (s : State) : Option OutMsg :=
  s.fab.ctlOut.find? (fun m => s.unsent m && decide (m.dst = j) && fitsControl s (s.link port) m)

/-- Nothing is owed to the partner of a port, and no control message for it may go. -/
def portIdle (port j : Nat) (s : State) : Prop := noneOwed port j s ∧ nextControl port j s = none ∧ s.fab.shut j = false

/-! ### Groups and blocks (R240 to R245, R180, R172) -/

/-- Every lane has its PC and state in the shadow, and the live lanes RUN at a handler (R240). -/
def atHandler (p : Word) (g h : Group) : Prop :=
  ∀ l, l < laneCount → h.lane l = { g.lane l with
    shPc := (g.lane l).pc, shSt := (g.lane l).st, pc := if (g.lane l).st ≠ .exited then p else (g.lane l).pc,
    st := if (g.lane l).st ≠ .exited then .run else .exited }

/-- One event waits for the next contribution, behind those that stood there (R201). -/
def contributed (typ : Nat) (fields : List (Nat × Nat × Nat)) (s t : State) : Prop :=
  ∃ e, t.duc.pendEvents = s.duc.pendEvents ++ [e] ∧ e.typ = typ ∧ e.origin = s.fab.pos ∧ e.seq = s.duc.nextEvSeq ∧ e.body = evBody fields

/-- A group whose lanes have all exited, with nothing left in flight (R180). -/
def exhausted (k : Nat) (s : State) : Prop :=
  (s.group k).resident = true ∧ (s.group k).ended = false ∧ (s.group k).stopped = false ∧ (s.group k).liveLanes = [] ∧
  (s.group k).erq = [] ∧ (s.block (s.group k).block).started = true ∧ (s.group k).endsTrapped = false ∧
  s.entries.all (fun f => decide (f.issuer ≠ .group k) || !f.ordered || f.performedAt 5) = true ∧ s.owed k (s.group k).nextSeq = false

end Sys2Proof.Claim

/-- The retry machine (R158 to R161): a flit whose CRC fits the expected number is accepted and the number goes on, another one is
answered with NAK; a whole message whose HOP number is new is passed up; the NAK timer repeats the NAK and after eight times takes the link
down; ACK drops what it covers, NAK sends the rest again before anything new, as far as the slot's flit times go (R146), and at the tail the last acknowledgement goes out, what is
unacknowledged goes back to its queue for a later slot, and the link sends nothing more. -/
def Obligations.LinksComplete : Prop :=
  (∀ (port j : Nat) (f : Flit) (s : State), s.ctl.phase ≠ .fatalHeld → s.fab.partner port = some j → (s.link port).rx ≠ .down →
    f.crc = crcOf (s.link port).e f.payload → ∃ t, exec (.flitArrive port f) s = .next t ∧ (t.link port).e = (s.link port).e + 1 ∧
      (t.link port).rx = .run ∧ (t.link port).timer = false ∧ keepsCompute s t) ∧
  (∀ (port j : Nat) (f : Flit) (m : Msg) (s : State), s.ctl.phase ≠ .fatalHeld → s.fab.partner port = some j → (s.link port).rx ≠ .down →
    f.crc = crcOf (s.link port).e f.payload →
    (let ps := (s.link port).partialMsg ++ [f.payload]
     let h := ps.headD []
     ps.length = recNat h 1 1 + 1 → recNat h 0 1 ≠ 0 → recNat h 0 1 ≠ 15 → decodeMsg ps = some m →
     (getKey [] s.fab.hopSeen (j * 4 + msgClass m)).contains (recNat h 4 4) = false → s.fab.fenced.contains j = false → s.fab.shut j = false →
     (msgEnds s.fab.pos m).2 = s.fab.pos → ∃ t, exec (.flitArrive port f) s = .next t ∧ t.agenda = s.agenda ++ [.message m] ∧
       (t.link port).partialMsg = [] ∧ (getKey [] t.fab.hopSeen (j * 4 + msgClass m)).contains (recNat h 4 4) = true)) ∧
  (∀ (port j : Nat) (f : Flit) (s : State), s.ctl.phase ≠ .fatalHeld → s.fab.partner port = some j → (s.link port).rx = .run →
    f.crc ≠ crcOf (s.link port).e f.payload → ∃ t, exec (.flitArrive port f) s = .next t ∧ (t.link port).rx = .nak ∧
      (t.link port).n = 1 ∧ (t.link port).timer = true ∧ (t.link port).e = (s.link port).e ∧
      ((s.link port).room 1 = true → (s.link port).ticks < s.fab.params.flits → linkSent [linkPayload 2 (s.link port).e 0 0] (s.link port) (t.link port)) ∧ keepsCompute s t) ∧
  (∀ (port : Nat) (s : State), s.ctl.phase ≠ .fatalHeld → (s.link port).rx = .nak → (s.link port).timer = true → ∃ t, exec (.nakTimerExpire port) s = .next t ∧
    ((s.link port).n < 8 → (t.link port).n = (s.link port).n + 1 ∧ (t.link port).rx = .nak) ∧
    (8 ≤ (s.link port).n → (t.link port).rx = .down ∧ t.ctl.log = s.ctl.log ++ [.linkFault port]) ∧ keepsCompute s t) ∧
  (∀ (port a : Nat) (s : State), ∃ t, exec (.linkAck port a) s = .next t ∧
    (t.link port).replayBuf = (s.link port).replayBuf.filter (fun f => decide (a ≤ f.1)) ∧
    (∀ u ∈ (s.link port).unacked, u.2.1 < a → ∀ x ∈ t.fab.lsOut ++ t.fab.bulkOut ++ t.fab.ctlOut, x.id = u.1 → s.nextId ≤ x.id) ∧
    keepsRegisters s t ∧ (noFlagDue s → keepsCompute s t)) ∧
  (∀ (port a : Nat) (s : State), s.ctl.phase ≠ .fatalHeld → ∃ t, exec (.linkNak port a) s = .next t ∧
    (let p := s.fab.params
     let own := (s.link port).unacked.all (fun u => decide (u.2.1 < a))
     (t.link port).toSend = (((s.link port).replayBuf.filter (fun f => decide (a ≤ f.1))).take
       ((if own = true then p.flits else p.flits - p.tail) - (s.link port).ticks)).map Prod.snd) ∧
    (t.link port).ticks = (s.link port).ticks + (t.link port).toSend.length ∧
    (t.link port).replayBuf = (s.link port).replayBuf.filter (fun f => decide (a ≤ f.1)) ∧
    keepsRegisters s t ∧ (noFlagDue s → keepsCompute s t)) ∧
  (∀ (port a : Nat) (s : State), s.ctl.phase = .fatalHeld → exec (.linkNak port a) s = .next s ∧ exec (.tailEnd port) s = .next s ∧
    exec (.nakTimerExpire port) s = .next s) ∧
  (∀ (port : Nat) (s : State), s.ctl.phase ≠ .fatalHeld → ∃ t, exec (.tailEnd port) s = .next t ∧ (t.link port).replayBuf = [] ∧
    (t.link port).unacked = [] ∧ (t.link port).closed = true ∧
    ((s.link port).room 1 = true → (s.link port).ticks < s.fab.params.flits → (t.link port).toSend = (s.link port).toSend ++
      (let p := linkPayload 1 (s.link port).e 0 0
       [{ payload := p, crc := crcOf (s.link port).txNext p }])) ∧
    (∀ u ∈ (s.link port).unacked, ∀ x ∈ t.fab.lsOut ++ t.fab.bulkOut ++ t.fab.ctlOut, x.id = u.1 →
      x.sent = false ∧ x.after = some s.fab.slot) ∧ keepsCompute s t)

/-- Ports (R142, R146, R148 to R152): a due link message and owed relay credit go first, then the control share, and then LS or bulk data on
its path, an idle flit where there is nothing (R153), and a flit time without a flit while the replay buffer is full (R160); a relay hands on the first message for the port's partner that came in an earlier
slot and owes its credit; a port that fails is dark from then on. -/
def Obligations.PortsComplete : Prop :=
  (∀ (port j : Nat) (s : State), s.sender port = some j → ((s.link port).dueNak || (s.link port).dueAck) = true →
    (s.link port).room 1 = true → ∃ t, exec (.portSend port) s = .next t ∧
      linkSent [linkPayload (if (s.link port).dueNak then 2 else 1) (s.link port).e 0 0] (s.link port) (t.link port) ∧
      (if (s.link port).dueNak then (t.link port).dueNak = false ∧ (t.link port).dueAck = (s.link port).dueAck
       else (t.link port).dueAck = false) ∧ keepsCompute s t) ∧
  (∀ (port j : Nat) (s : State), s.sender port = some j → (s.link port).dueNak = false → (s.link port).dueAck = false →
    getKey 0 s.fab.lsOwed j + getKey 0 s.fab.bulkOwed j ≠ 0 →
    (s.link port).room 1 = true → ∃ t, exec (.portSend port) s = .next t ∧ getKey 0 t.fab.lsOwed j = 0 ∧ getKey 0 t.fab.bulkOwed j = 0 ∧
      linkSent [linkPayload 4 0 (getKey 0 s.fab.lsOwed j) (getKey 0 s.fab.bulkOwed j)] (s.link port) (t.link port) ∧ keepsCompute s t) ∧
  (∀ (port j : Nat) (m : OutMsg) (s : State), noneOwed port j s → nextControl port j s = some m →
    ∃ t, exec (.portSend port) s = .next t ∧ msgSent port 0xFFFF m s t) ∧
  (∀ (port j : Nat) (m : OutMsg) (s : State), portIdle port j s → fitsSlot s (s.link port) 1 = true →
    s.fab.lsOut.find? (fun m => (lsVia s port m).isSome) = some m → oldestBulk s port s.fab.bulkOut [] = none →
    ∃ t, exec (.portSend port) s = .next t ∧ msgSent port ((lsVia s port m).getD 0xFFFF) m s t) ∧
  (∀ (port j : Nat) (b : OutMsg × Nat) (s : State), portIdle port j s → s.fab.lsOut.find? (fun m => (lsVia s port m).isSome) = none →
    oldestBulk s port s.fab.bulkOut [] = some b → ∃ t, exec (.portSend port) s = .next t ∧ msgSent port b.2 b.1 s t) ∧
  (∀ (port j : Nat) (m : OutMsg) (b : OutMsg × Nat) (s : State), portIdle port j s → fitsSlot s (s.link port) 1 = true →
    s.fab.lsOut.find? (fun m => (lsVia s port m).isSome) = some m → oldestBulk s port s.fab.bulkOut [] = some b →
    ∃ t, exec (.portSend port) s = .next t ∧
      (if (s.link port).lsUsed ≤ (s.link port).bkUsed then msgSent port ((lsVia s port m).getD 0xFFFF) m s t else msgSent port b.2 b.1 s t)) ∧
  (∀ (port j : Nat) (s : State), noneOwed port j s → nextControl port j s = none → (s.link port).room 1 = true →
    (s.fab.shut j = true ∨
      s.fab.lsOut.find? (fun m => (lsVia s port m).isSome) = none ∧ oldestBulk s port s.fab.bulkOut [] = none) →
    ∃ t, exec (.portSend port) s = .next t ∧ linkSent [header 0 0 0 []] (s.link port) (t.link port) ∧ keepsCompute s t) ∧
  (∀ (port j : Nat) (s : State), s.sender port = some j → 2048 ≤ (s.link port).replayBuf.length → ∃ t, exec (.portSend port) s = .next t ∧
    t.link port = { s.link port with ticks := (s.link port).ticks + 1 } ∧ keepsCompute s t) ∧
  (∀ (port : Nat) (s : State), s.sender port = none → exec (.portSend port) s = .next s) ∧
  (∀ (port j ls bulk : Nat) (s : State), s.fab.partner port = some j → ∃ t, exec (.linkCredit port ls bulk) s = .next t ∧
    getKey 0 t.fab.lsDebt j = getKey 0 s.fab.lsDebt j - ls ∧ getKey 0 t.fab.bulkDebt j = getKey 0 s.fab.bulkDebt j - bulk ∧
    keepsCompute s t) ∧
  (∀ (port j : Nat) (r : RelayItem) (s : State), s.fab.circuit port = some j →
    s.fab.relay.find? (fun r => decide (r.dst = j ∧ r.slot < s.fab.slot)) = some r →
    ∃ t, exec (.relayForward port) s = .next t ∧ t.fab.relay = s.fab.relay.erase r ∧
      (∃ o : OutMsg, o.msg = r.msg ∧ o.dst = j ∧ o.relayed = true ∧ o.sent = false ∧ o.after = none ∧
        (if r.bulk then t.fab.bulkOut = s.fab.bulkOut ++ [o] ∧ getKey 0 t.fab.bulkOwed r.src = getKey 0 s.fab.bulkOwed r.src + r.flits
         else t.fab.lsOut = s.fab.lsOut ++ [o] ∧ getKey 0 t.fab.lsOwed r.src = getKey 0 s.fab.lsOwed r.src + r.flits)) ∧ keepsCompute s t) ∧
  (∀ (port : Nat) (s : State), ∃ t, exec (.laneFault port) s = .next t ∧ t.fab.dark.contains port = true ∧ t.fab.partner port = none ∧
    keepsCompute s t)

/-- A trap that stands before a group that is settled is taken (R240, R241), PREEMPT enters the save handler with its record (R243, R196),
a replay goes on once its pages are mapped and kills the context where they cannot be (R42; that an empty list of entries stands for this is log 56, and that
the group then issues nothing more is log 37), and a block whose groups have all been saved or ended is frozen (R60). -/
def Obligations.GroupBoundaries : Prop :=
  (∀ (k : Nat) (x : TrapInfo) (s : State), (s.group k).alive = true → (s.group k).settled s.clock = true → (s.group k).handler = .none →
    (lowestTrap (s.group k).async = some x ∨ (s.group k).async = [] ∧ (s.group k).sync = some x) →
    (let p := (s.ctxDesc (s.block (s.group k).block).ctx).traph
     p ≠ 0 → ∃ t, exec (.trapDeliver k) s = .next t ∧ atHandler (BitVec.ofNat 32 p) (s.group k) (t.group k) ∧
       (t.group k).handler = .trap ∧ (t.group k).hf0 = true ∧ (t.group k).hf1 = decide ((s.group k).async.erase x ≠ []) ∧
       (t.group k).trecWord 0 % 256 = BitVec.ofNat 64 (x.code % 256) ∧ (t.group k).trecWord 1 = x.lanes ∧
       (t.group k).trecWord 2 = x.addr ∧ (t.group k).trecWord 5 = (s.group k).merr ∧ (t.group k).trecWord 6 = x.aux ∧
       keepsRegisters s t ∧ keepsMemory s t ∧ t.blocks = s.blocks ∧ ∀ j, j ≠ k → t.group j = s.group j)) ∧
  (∀ (k : Nat) (s : State), (s.group k).preemptible s.clock = true → (s.block (s.group k).block).started = true → (s.group k).handler = .none →
    ∃ t, exec (.preemptDeliver k) s = .next t ∧
      atHandler (BitVec.ofNat 32 (s.ctxDesc (s.block (s.group k).block).ctx).saveh) (s.group k) (t.group k) ∧
      (t.group k).handler = .save ∧ (t.group k).preempt = false ∧ (t.group k).mon ≠ .armed ∧ (t.group k).mon ≠ .pending ∧
      (t.group k).trecWord 0 % 256 = 0x11 ∧ keepsRegisters s t ∧ keepsMemory s t) ∧
  (∀ (k : Nat) (ptes : List PteWrite) (r : Replay) (s : State), (s.group k).replay = some r →
    s.ptesGood ptes = true →
    r.pages.all ((s.writePtes ptes).mapped (s.block (s.group k).block).ctx) = true → ∃ t, exec (.pageFaultReplay k ptes) s = .next t ∧
      (t.group k).replay = none ∧ (t.group k).waiting = .nothing ∧ (t.group k).lanes = (s.group k).lanes ∧ keepsRegisters s t ∧
      t.blocks = s.blocks) ∧
  (∀ (k : Nat) (r : Replay) (s : State), (s.group k).replay = some r →
    r.pages.all (s.mapped (s.block (s.group k).block).ctx) = false → ∃ t, exec (.pageFaultReplay k []) s = .next t ∧
      contributed 0x0006 [(16, 2, (s.block (s.group k).block).ctx), (18, 1, 0x20)] s t ∧ (t.group k).stopped = true ∧
      keepsRegisters s t ∧ keepsMemory s t) ∧
  (∀ (bk : Nat) (s : State), (s.block bk).resident = true → (s.block bk).preempting = true → (s.block bk).frozen = false →
    (s.block bk).groups.all (fun k => (s.group k).drained) = true → ∃ t, exec (.blockFreeze bk) s = .next t ∧
      t.block bk = { s.block bk with frozen := true } ∧ (∀ b, b ≠ bk → t.block b = s.block b) ∧ t.groups = s.groups ∧ keepsMemory s t)

/-- A group that has nothing left ends, after the flush of its release side (R180); one that a trap stands before which no handler can take kills its
context (R138, R240; that the trap of a group without live lanes comes to this is log 107). The last one of a block that is no gang member returns the
block's resources and contributes BLOCK_DONE (R182, R202). BLOCK_START sets every lane RUN at the kernel's entry, or in the restore handler
(R172, R245), and RANK_PREPARE fills the export and the grid tables, or kills the context (R21, R25, R232); what bulk data waited for the rank is looked at
again (log 92), and a held module prepares nothing (R247). -/
def Obligations.BlocksComplete : Prop :=
  (∀ (k : Nat) (s : State), exhausted k s → (s.group k).flushed = false → (s.group k).flush = none → ∃ t, exec (.groupEnd k) s = .next t ∧
    (t.group k).paths = [] ∧ (t.group k).flush.isSome = true ∧ (t.group k).ended = false ∧ keepsRegisters s t ∧ keepsMemory s t) ∧
  (∀ (k : Nat) (x : TrapInfo) (s : State), (s.group k).resident = true → (s.group k).ended = false → (s.group k).stopped = false →
    (s.group k).liveLanes = [] → (s.group k).erq = [] → (s.block (s.group k).block).started = true → (s.group k).handler = .none →
    (s.group k).settled s.clock = true → lowestTrap (s.group k).async = some x → (s.ctxDesc (s.block (s.group k).block).ctx).traph = 0 →
    ∃ t, exec (.groupEnd k) s = .next t ∧ (t.group k).stopped = true ∧ (t.group k).ended = false ∧
      contributed 0x0006 [(16, 2, (s.block (s.group k).block).ctx), (18, 1, x.code)] s t ∧ keepsRegisters s t ∧ keepsMemory s t) ∧
  (∀ (k j : Nat) (s : State), exhausted k s → (s.group k).flushed = true → j ∈ (s.block (s.group k).block).groups → j ≠ k →
    (s.group j).ended = false → (s.block (s.group k).block).preempting = false → ∃ t, exec (.groupEnd k) s = .next t ∧
      (t.group k).ended = true ∧ (t.group k).block = (s.group k).block ∧ (∀ r l, (t.group k).vreg r l = 0) ∧
      (∀ i, i ≠ k → t.group i = s.group i) ∧ keepsMemory s t) ∧
  (∀ (k : Nat) (s : State), exhausted k s → (s.group k).flushed = true → (s.block (s.group k).block).gsz ≤ 1 →
    (∀ j ∈ (s.block (s.group k).block).groups, j ≠ k → (s.group j).ended = true) → (s.block (s.group k).block).preempting = false →
    ∃ t, exec (.groupEnd k) s = .next t ∧ t.block (s.group k).block = Block.empty ∧
      (let b := s.block (s.group k).block
       contributed 0x0002 [(16, 2, b.grid), (18, 1, 0), (20, 4, b.blockId), (24, 2, b.ctx)] s t) ∧ keepsMemory s t) ∧
  (∀ (bk : Nat) (p : GridPrep) (s : State),
    (let b := s.block bk
     let d := s.ctxDesc b.ctx
     b.resident = true → b.started = false → b.tStart ≤ s.fab.podtime → d.state = 1 → findKey s.grids b.grid = some p →
     ∃ t, exec (.blockStart bk) s = .next t ∧ (t.block bk).started = true ∧ (t.block bk).frozen = b.restoring ∧
       (∀ k ∈ b.groups, (t.group k).resident = true ∧ (t.group k).block = bk ∧
         (t.group k).handler = (if b.restoring then .restore else .none) ∧ (∀ n, (t.group k).sreg n = 0) ∧
         ∀ l, l < laneCount → ((t.group k).lane l).st = .run ∧
           ((t.group k).lane l).pc = BitVec.ofNat 32 (if b.restoring then d.resth else p.entry)) ∧
       (∀ k, k ∉ b.groups → t.group k = s.group k) ∧ keepsMemory s t)) ∧
  (∀ (grid rank : Nat) (img : RankImage) (s : State), s.ctl.phase ≠ .fatalHeld → s.rankHere grid rank = true →
    ((s.ctxDesc (s.gridRow grid).ctx).state ≠ 1 ∨ s.rankSource grid img = none) → ∃ t, exec (.rankPrepare grid rank img) s = .next t ∧
      contributed 0x0006 [(16, 2, (s.gridRow grid).ctx), (18, 1, 0x21)] s t ∧ keepsCompute s t) ∧
  (∀ (grid rank : Nat) (img src : RankImage) (s u : State), s.ctl.phase ≠ .fatalHeld → s.rankHere grid rank = true →
    (s.ctxDesc (s.gridRow grid).ctx).state = 1 → s.rankSource grid img = some src → img.winBase % 65536 = 0 →
    (let row := s.gridRow grid
     let v := s.writePtes img.tables
     let ls := v.leavesOf row.ctx (row.expLen / 65536 + 1) img.winBase (img.winBase + row.expLen)
     s.ptesGood img.tables = true → ls.all (fun l => windowLeaf row.flags l.2) = true →
     row.expLen ≤ coveredBy ls img.winBase (img.winBase + row.expLen) → v.prepareRank grid rank src ls = some u →
     ∃ t, exec (.rankPrepare grid rank img) s = .next t ∧ findKey t.exports (grid * 1024 + rank) = some img.winBase ∧
       findKey t.grids grid = some (prepOf src.desc src.bank) ∧ t.mem = u.mem ∧
       t.agenda = s.agenda ++ s.fab.bulkWaits.map Item.message ∧ t.fab.bulkWaits = [] ∧ keepsRegisters s t ∧ t.blocks = s.blocks)) ∧
  (∀ (grid rank : Nat) (img : RankImage) (s : State), s.ctl.phase = .fatalHeld → exec (.rankPrepare grid rank img) s = .next s)

namespace Sys2Proof.Claim

/-! ### The Ductus (R206 to R225) -/

/-- Control-share messages wait for the ports, in this order, behind those that stood there. -/
def sentCtl (ms : List (Nat × CtlMsg)) (s t : State) : Prop :=
  ∃ os, t.fab.ctlOut = s.fab.ctlOut ++ os ∧ os.map (fun o => (o.dst, o.msg)) = ms.map (fun m => (m.1, Msg.ctl m.2))

/-- The chip may start its next slot (R147): it runs, its slot is over, and no round waits to be finalised. -/
def slotDue (slew : Nat) (s : State) : Prop :=
  s.ctl.phase = .running ∧ s.duc.role ≠ .off ∧ s.duc.role ≠ .fencedOff ∧ slew ≤ s.fab.params.slotLen / 1000 ∧
  s.fab.nextStart ≤ s.fab.podtime + slew ∧ s.roundDue = false

/-- The chip has fenced itself (R214, R225): nothing of a program is left, its Timetable is zeros, and it observes. -/
def selfFenced (s t : State) : Prop :=
  t.groups = [] ∧ t.blocks = [] ∧ t.entries = [] ∧ t.ops = [] ∧ t.duc.role = .observer ∧ t.tt.memberList = [] ∧ t.tt.grids = [] ∧
  keepsMemory s t

/-- What computes and what it holds is unchanged, whatever the Ductus does. -/
def keepsPrograms (s t : State) : Prop :=
  t.groups = s.groups ∧ t.blocks = s.blocks ∧ t.entries = s.entries ∧ t.ops = s.ops ∧ t.handles = s.handles ∧ t.tt = s.tt ∧
  keepsMemory s t

/-- What an observer holds of a snapshot once a chunk has come (R225). -/
def withChunk (m : CtlMsg) (d : Ductus) : Ductus :=
  { d with snapIn := writeBytes d.snapIn m.offset m.chunk, snapGot := d.snapGot + m.chunk.length }

end Sys2Proof.Claim

/-- SLOT_START starts the next slot with fresh links, and a member closes C of the slot's number over at most 64 pending events (R147, R208; that
contributions are kept for rounds below the round + 64 alone is the model's choice, log 47);
ROUND_FINALISE applies the set of the lowest round with a quorum, fetches what it lacks, or makes the record of the next attempt (R209); a round's rule
is applied once and its digest kept, and a chip that loses by its digest enacts nothing of it (R210, R214); SELF_FENCE after 64 slots without one (R209), and
a chip that rejoins asks its next sponsor after 64 slots in which it heard nothing (log 47); CHARGE_CONTRIBUTE reports residency (R223). -/
def Obligations.RoundsComplete : Prop :=
  (∀ (slew : Nat) (s : State), slotDue slew s → ∃ t, exec (.slotStart slew) s = .next t ∧ t.fab.podtime = s.fab.podtime + slew ∧
    t.fab.slot = s.fab.slot + 1 ∧ t.fab.links = [] ∧ t.groups = s.groups ∧ t.entries = s.entries ∧ t.tt = s.tt ∧ keepsMemory s t ∧
    (s.duc.role = .member → s.duc.start ≤ s.fab.slot + 1 → ∃ c ∈ t.duc.mine, c.origin = s.fab.pos ∧ c.round = s.fab.slot + 1 ∧
      ∃ more, c.events = ((s.duc.pendEvents ++ more).take 64).map (fun e => { e with round := s.fab.slot + 1 }))) ∧
  (∀ (set : List Contribution) (s : State), s.duc.role = .member → s.verdict = .apply set →
    (let n := s.duc.lowest
     let r := applyRound s.tt n s.duc.formation (s.membersAt n) set
     s.losing n set = false → (∀ a ∈ r.acts, a ≠ .lost s.fab.pos) → ∃ t, exec .roundFinalise s = .next t ∧ t.tt = r.tt ∧ t.duc.lowest = n + 1 ∧
       t.duc.attempt = 0 ∧ findKey t.duc.digests n = some r.tt.digest ∧ (∀ c ∈ t.duc.contribs, c ∈ s.duc.contribs ∧ n < c.round + 64) ∧
       (∀ c ∈ s.duc.contribs, n < c.round → c ∈ t.duc.contribs))) ∧
  (∀ (set : List Contribution) (s : State), s.duc.role = .member → s.verdict = .apply set → s.losing s.duc.lowest set = true →
    ∃ t, exec .roundFinalise s = .next t ∧ selfFenced s t) ∧
  (∀ (names : List Nat) (s : State), s.duc.role = .member → s.verdict = .fetch names → ∃ t, exec .roundFinalise s = .next t ∧
    t.duc.lowest = s.duc.lowest ∧ t.duc.contribs = s.duc.contribs ∧ keepsPrograms s t ∧
    (∀ o ∈ names, (s.holderOf s.duc.lowest o).isSome = true → ∃ a ∈ t.duc.asked, a.1 = s.duc.lowest ∧ a.2.1 = o)) ∧
  (∀ (s : State), s.duc.role = .member → s.verdict = .again → ∃ t, exec .roundFinalise s = .next t ∧
    t.duc.attempt = s.duc.attempt + 1 ∧ t.duc.lowest = s.duc.lowest ∧
    (∃ r ∈ t.duc.acks, r.1 = s.fab.pos ∧ r.2.round = s.duc.lowest ∧ r.2.attempt = s.duc.attempt + 1) ∧ keepsPrograms s t) ∧
  (∀ (s : State), s.duc.role = .member → 64 ≤ s.duc.idleSlots → ∃ t, exec .selfFence s = .next t ∧ selfFenced s t) ∧
  (∀ (s : State), s.duc.role = .observer → 64 ≤ s.duc.idleSlots →
    (let known := if s.tt.memberList = [] then s.duc.formation else s.tt.memberList
     ∃ t, exec .selfFence s = .next t ∧ t.duc.role = .observer ∧ t.duc.snapGot = 0 ∧ t.duc.idleSlots = 0 ∧ t.groups = s.groups ∧ keepsMemory s t ∧
      t.duc.sponsor = nextAbove ((known.filter (fun p => decide (some p ≠ s.duc.sponsor))).filter (fun p => decide (p ≠ s.fab.pos))) s.fab.pos ∧
      ∀ p, t.duc.sponsor = some p → ∃ c, c.typ = 3 ∧ sentCtl [(p, c)] s t)) ∧
  (∀ (s : State), s.duc.role = .member → s.ctl.charged < s.fab.slot / 64 → ∃ t, exec .chargeContribute s = .next t ∧
    t.ctl.charged = s.fab.slot / 64 ∧ keepsPrograms s t ∧
    ∃ es, t.duc.pendEvents = s.duc.pendEvents ++ es ∧ es.map (fun e => (e.typ, e.body)) =
      (s.ctl.residency.filter (fun p => decide (chargeOf p.2 ≠ 0))).map
        (fun p => (0x0008, evBody [(16, 2, p.1), (20, 4, chargeOf p.2)])))

/-- Control-share messages (R157, R206, R225): a new contribution and its records are kept, also where a fetch has brought the contribution before, a wanted one is answered, a snapshot goes out in chunks
and is loaded once it is whole, and a sponsor contributes JOIN after two consecutive equal digests. That a snapshot request opens the links to the chip
that asks is the model's choice (log 47), as are the image with its marks (log 40) and what a rejoined chip starts from (log 48). -/
def Obligations.ProctorMessages : Prop :=
  (∀ (m : CtlMsg) (s : State), m.typ = 0 → s.hears m = true → m.observer = false → s.duc.lowest ≤ (contributionOf m).round →
    s.held (contributionOf m).round (contributionOf m).origin = none → ∃ t, exec (.roundMessage m) s = .next t ∧
      t.held (contributionOf m).round (contributionOf m).origin = some (contributionOf m) ∧
      (∀ a ∈ m.acks, s.duc.lowest ≤ a.round + 64 → ∃ r ∈ t.duc.acks, r.1 = m.origin ∧ r.2.round = a.round ∧ r.2.attempt = a.attempt) ∧
      (s.duc.holdsMessage (contributionOf m).origin (contributionOf m).round = false →
        t.duc.recordsOf (contributionOf m).origin (contributionOf m).round = m.acks) ∧ keepsPrograms s t) ∧
  (∀ (m : CtlMsg) (s : State), m.typ = 0 → s.hears m = true → m.observer = false →
    (s.held (contributionOf m).round (contributionOf m).origin).isSome = true →
    s.duc.holdsMessage (contributionOf m).origin (contributionOf m).round = false → ∃ t, exec (.roundMessage m) s = .next t ∧
      t.duc.contribs = s.duc.contribs ∧ t.duc.recordsOf (contributionOf m).origin (contributionOf m).round = m.acks ∧ keepsPrograms s t) ∧
  (∀ (m : CtlMsg) (s : State), m.typ = 0 → s.hears m = true → m.observer = true → s.duc.clients.contains m.src = true → 2 ≤ m.round →
    m.digest ≠ 0 → ∃ t, exec (.roundMessage m) s = .next t ∧
      t.duc.peerDigests = s.duc.peerDigests ++ [(m.src, m.round - 2, m.digest)] ∧ t.duc.acks = s.duc.acks ∧ keepsPrograms s t) ∧
  (∀ (m : CtlMsg) (s : State), m.typ = 1 → s.hears m = true → ∃ t, exec (.contributionFetchRequest m) s = .next t ∧
    sentCtl ((m.wanted.filterMap (s.anyHeld m.round)).map (fun c => (m.src, c.message 2 s.fab.pos (decide (s.duc.role = .observer)) []))) s t ∧ keepsPrograms s t) ∧
  (∀ (m : CtlMsg) (s : State), m.typ = 2 → s.hears m = true → s.duc.lowest ≤ (contributionOf m).round →
    s.held (contributionOf m).round (contributionOf m).origin = none → ∃ t, exec (.contributionFetchReply m) s = .next t ∧
      t.held (contributionOf m).round (contributionOf m).origin = some (contributionOf m) ∧ keepsPrograms s t) ∧
  (∀ (m : CtlMsg) (n : Nat) (image : List Host.Cell) (s : State), m.typ = 3 → s.duc.role = .member → s.hears m = true →
    s.duc.snapshots.getLast? = some (n, image) → ∃ t, exec (.snapshotRequest m) s = .next t ∧ t.duc.clients.contains m.src = true ∧
      t.fab.shut m.src = false ∧
      (let whole := snapshotSize image
       ∃ os, t.fab.ctlOut = s.fab.ctlOut ++ os ∧ (whole + 4095) / 4096 ≤ os.length ∧
        ∀ i, i < (whole + 4095) / 4096 → ∃ o c, os[i]? = some o ∧ o.dst = m.src ∧ o.msg = .ctl c ∧ c.typ = 4 ∧ c.round = n ∧
          c.offset = 4096 * i ∧ c.chunk = readBytes image (4096 * i) (min 4096 (whole - 4096 * i))) ∧ keepsPrograms s t) ∧
  (∀ (m : CtlMsg) (s : State), m.typ = 4 → s.duc.role = .observer → s.duc.sponsor = some m.src → s.duc.snapWhole = false →
    (withChunk m s.duc).snapWhole = false → ∃ t, exec (.snapshotChunk m) s = .next t ∧
      wrote m.offset m.chunk s.duc.snapIn t.duc.snapIn ∧ t.duc.snapGot = s.duc.snapGot + m.chunk.length ∧ keepsPrograms s t) ∧
  (∀ (m : CtlMsg) (s : State), m.typ = 4 → s.duc.role = .observer → s.duc.sponsor = some m.src → s.duc.snapWhole = false →
    (withChunk m s.duc).snapWhole = true → findKey s.duc.finalSets (m.round + 1) = none →
    ∃ t, exec (.snapshotChunk m) s = .next t ∧
      t.tt = readImage (writeBytes s.duc.snapIn m.offset m.chunk) ∧ t.duc.lowest = m.round + 1 ∧
      t.groups = s.groups ∧ keepsMemory s t) ∧
  (∀ (m : CtlMsg) (s : State), m.typ = 5 → s.duc.role = .observer → s.duc.sponsor = some m.src →
    (m.origin ≠ 0xFFFF → ∃ t, exec (.finalSetContribution m) s = .next t ∧
      t.duc.replaySet = s.duc.replaySet ++ [contributionOf m] ∧ keepsPrograms s t) ∧
    (m.origin = 0xFFFF → s.duc.snapWhole = false → ∃ t, exec (.finalSetContribution m) s = .next t ∧
      findKey t.duc.finalSets m.round = some (s.duc.replaySet.filter (fun c => decide (c.round = m.round))) ∧ keepsPrograms s t)) ∧
  (∀ (p n : Nat) (x y : BitVec 256) (s : State), s.duc.role = .member →
    s.duc.clients.contains p = true → s.duc.sponsored.contains p = false → s.duc.peerDigests = [(p, n, x), (p, n + 1, y)] →
    findKey s.duc.digests n = some x → findKey s.duc.digests (n + 1) = some y → ∃ t, exec (.joinContribute p) s = .next t ∧
      contributed 0x000A [(16, 2, p), (24, 32, y.toNat)] s t ∧ t.duc.sponsored.contains p = true ∧ keepsPrograms s t)

namespace Sys2Proof.Claim

/-! ### The control complex (R227 to R252) -/

/-- The packet at the head of a queue's ring lies in a poisoned sector (R235). -/
def headPoisoned (q : Nat) (s : State) : Bool := poisoned s.poison ((s.subq q).base + 64 * (s.subq q).head) 64

/-- A queue's packet of TYPE `typ` is in progress or may start, and its context lives (R234 to R237). -/
def packetReady (q typ : Nat) (p : List Byte) (s : State) : Prop :=
  s.packetOf q typ = some p ∧ ((s.subq q).busy && s.dying (s.subq q).ctx) = false ∧ ((s.subq q).busy = true ∨ headPoisoned q s = false)

/-- A packet asks for no record, and its queue's descriptor lies in HBM. -/
def lastPacket (q : Nat) (p : List Byte) (s : State) : Prop := recNat p 1 1 % 2 = 0 ∧ inHbm ((s.subq q).desc + 20) = true

/-- The packet is over: HEAD has moved on, in the queue and in memory, from what its effect `u` left. -/
def packetDone (q : Nat) (s u t : State) : Prop :=
  (t.subq q).head = ((s.subq q).head + 1) % (s.subq q).size ∧ (t.subq q).busy = false ∧ (t.subq q).tail = (s.subq q).tail ∧
  wrote ((s.subq q).desc + 20) (bytesLE 4 (((s.subq q).head + 1) % (s.subq q).size)) u.mem t.mem ∧ keepsRegisters s t

/-- A reply of a control core stands last of those that wait for its ring to the host, or, where none waits, last in that ring (R227, R228). -/
def replied (core : Nat) (msg : List Byte) (status : Nat) (t : State) : Prop :=
  let waiting := t.ctl.replies.filter (fun r => decide (r.1 = core))
  if waiting = [] then (t.ring (core * 16 + 8)).getLast? = some (replyBytes msg status)
  else waiting.getLast? = some (core, replyBytes msg status)

/-- The request that a control core had at hand, where it had one, is answered (R228, log 68). -/
def answered (core status : Nat) (s t : State) : Prop := ∀ m, (s.takeAsk core).1 = some m → replied core m status t

/-- The sites of a group that hold one value each, with what is bad after an uncorrectable error there (R62, R77). -/
def registerSites (k : Nat) : List (SoftErr × BadReg) := [(.accumulator k, .accumulator), (.array k, .array), (.obRead k, .obRead)]

/-- A dump that the host has not acknowledged stands. -/
def dumpKept (s : State) : Prop := ∃ d, s.ctl.dump = some d ∧ d.finished = true ∧ d.acknowledged = false

/-- The module is held after a fatal error (R247, R248): it runs nothing, it is fenced, and a dump stands, which each die's area holds with its
cause first and DONE last; one that waits for its acknowledgement stays instead. -/
def heldFatal (cause : FatalCause) (s t : State) : Prop :=
  t.ctl.phase = .fatalHeld ∧ t.groups = [] ∧ t.blocks = [] ∧ t.duc.role = .fencedOff ∧
  (dumpKept s → t.ctl.dump = s.ctl.dump ∧ keepsMemory s t) ∧
  (¬ dumpKept s → (∃ d, t.ctl.dump = some d ∧ d.finished = true ∧ d.acknowledged = false ∧ d.cause = cause ∧ d.podtime = s.fab.podtime ∧
      d.groups = s.groups) ∧
    (∀ die, die < 4 → readNat t.mem (dumpArea die) 8 = causeCode cause % 2 ^ 64 ∧ readNat t.mem (dumpArea die + 4092) 4 = 1) ∧
    ∀ a, a < dumpArea 0 → readByte t.mem a = readByte s.mem a)

end Sys2Proof.Claim

/-- The submission queues (R227, R228, R234 to R237): a message enters its ring, a request to register a queue gives it its descriptor, the
doorbell reads TAIL, and each packet does what its TYPE says and
moves HEAD on: LAUNCH contributes SUBMIT or has its refusal written, WRITE and SIGNAL store, WAIT passes once its value is reached, WRITE_SIGNAL
takes two steps, HOSTCOPY goes by MiB and then flushes, and a bad packet is skipped and logged; a turn ends after its 20 µs. The model's choices here: TAIL modulo SIZE and
an invalid descriptor are log 74, the queue's context in the SUBMIT, which names no parent, is log 71, and the mailbox codes and the layout and order of the replies are
logs 48 and 68. -/
def Obligations.QueuesComplete : Prop :=
  (∀ (a b : Nat) (msg : List Byte) (s : State), s.ctl.phase = .running → a < 8 → b ≤ 8 → (b = 3 ∨ (s.ring (a * 16 + b)).length < 16) →
    (b = 8 → ∀ r ∈ s.ctl.replies, r.1 ≠ a) →
    ∃ t, exec (.mailboxMessage a b msg) s = .next t ∧ (t.ring (a * 16 + b)).getLast? = some (sliceBytes msg 0 64) ∧ keepsPrograms s t) ∧
  (∀ (b : Nat) (msg : List Byte) (s : State), s.ctl.phase = .running → b ∈ [0, 2, 6, 7] → (s.ring (8 * 16 + b)).length < 16 →
    ∃ t, exec (.mailboxMessage 8 b msg) s = .next t ∧
      (let m := sliceBytes msg 0 64
       (t.ring (8 * 16 + b)).getLast? = some m ∧ keepsPrograms s t ∧
       (Config.knownRequest b (m.headD 0) = false → replied b m 0xFF t) ∧
       (Config.knownRequest b (m.headD 0) = true → (b = 2 ∨ b = 7) → t.ctl.asks = s.ctl.asks ++ [(b, sliceBytes m 0 4)]) ∧
       (Config.knownRequest b (m.headD 0) = true → b = 6 → replied 6 m 0 t) ∧
       (∀ q d, Config.knownRequest 0 (m.headD 0) = true → b = 0 → Config.requestQueue m = some (q, d) → q < 256 → (s.subq q).busy = false →
         (t.subq q) = { SubQueue.empty with desc := d } ∧ replied 0 m 0 t) ∧
       (∀ typ body, Config.knownRequest 0 (m.headD 0) = true → b = 0 → Config.requestQueue m = none →
         Config.requestEvent m = some (typ, body) → osEvent typ body = true → replied 0 m 0 t ∧
         ∃ e, t.duc.pendEvents = s.duc.pendEvents ++ [e] ∧ e.typ = typ ∧ e.origin = s.fab.pos ∧ e.seq = s.duc.nextEvSeq ∧
           e.body = sliceBytes body 0 48))) ∧
  (∀ (q : Nat) (s : State), (s.subq q).desc ≠ 0 → inHbm (s.subq q).desc = true → s.ctl.phase = .running → (s.subq q).busy = true →
    ∃ t, exec (.doorbell q) s = .next t ∧
      (t.subq q).tail = (if (s.subq q).size = 0 then 0 else readNat s.mem ((s.subq q).desc + 16) 4 % (s.subq q).size) ∧
      (t.subq q).base = (s.subq q).base ∧ (t.subq q).size = (s.subq q).size ∧ answered 0 0 s t ∧ keepsPrograms s t) ∧
  (∀ (q : Nat) (s : State), (s.subq q).desc ≠ 0 → inHbm (s.subq q).desc = true → s.ctl.phase = .running → (s.subq q).busy = false →
    ∃ t, exec (.doorbell q) s = .next t ∧
      (let n := readNat s.mem
       let d := (s.subq q).desc
       let size := if queueOk (n d 8) (n (d + 8) 4) then n (d + 8) 4 else 0
       (t.subq q).base = n d 8 ∧ (t.subq q).size = size ∧ (t.subq q).ctx = n (d + 12) 2 ∧
       (t.subq q).tail = (if size = 0 then 0 else n (d + 16) 4 % size) ∧ (t.subq q).head = (s.subq q).head ∧ answered 0 0 s t ∧ keepsPrograms s t)) ∧
  (∀ (q w : Nat) (s : State), s.turnOf q = true → (s.subq q).busy = false →
    (if headPoisoned q s then some 6 else skipReason (s.subq q).ctx (s.headPacket (s.subq q))) = some w →
    ((s.subq q).head + 1) % (s.subq q).size = (s.subq q).tail → inHbm ((s.subq q).desc + 20) = true →
    ∃ t, exec (.write q) s = .next t ∧ t.ctl.log = s.ctl.log ++ [.packet q w] ∧ packetDone q s s t) ∧
  (∀ (q : Nat) (p : List Byte) (s : State), packetReady q 1 p s → (s.subq q).op = 0 →
    (let b := bytesLE 2 (s.subq q).ctx ++ bytesLE 2 0xFFFF ++ (sliceBytes p 16 48).drop 4
     submitRefusal s b = none → ∃ t, exec (.launchGrid q) s = .next t ∧
       (∃ e, t.duc.pendEvents = s.duc.pendEvents ++ [e] ∧ e.typ = 0x0001 ∧ e.seq = s.duc.nextEvSeq ∧ e.body = sliceBytes b 0 48) ∧
       (t.subq q).busy = true ∧ (t.subq q).op = s.duc.nextEvSeq + 1 ∧ keepsPrograms s t)) ∧
  (∀ (q r : Nat) (p : List Byte) (s : State), packetReady q 1 p s → (s.subq q).op = 0 → inHbm ((s.subq q).desc + 20) = true →
    (let b := bytesLE 2 (s.subq q).ctx ++ bytesLE 2 0xFFFF ++ (sliceBytes p 16 48).drop 4
     submitRefusal s b = some r → ∃ t, exec (.launchGrid q) s = .next t ∧ t.duc.pendEvents = s.duc.pendEvents ∧
       packetDone q s (s.complete (subField b 16 2) (subField b 56 8)
         { status := 2, reason := r, grid := none, round := none, packet := some (recNat p 8 8) }) t)) ∧
  (∀ (q : Nat) (p : List Byte) (u s : State), packetReady q 2 p s → lastPacket q p s → s.packetWrite (s.subq q).ctx p = some u →
    ∃ t, exec (.write q) s = .next t ∧ packetDone q s u t) ∧
  (∀ (q : Nat) (p : List Byte) (u s : State), packetReady q 3 p s → lastPacket q p s →
    s.packetSignal (s.subq q).ctx (recNat p 16 8) = some u → ∃ t, exec (.signal q) s = .next t ∧ packetDone q s u t) ∧
  (∀ (q v : Nat) (p : List Byte) (s : State), packetReady q 4 p s → (s.subq q).step ≠ 1 → s.served (s.subq q).ctx = true →
    (s.subq q).ctx = s.ctl.turnCtx → s.ctlLoad (s.subq q).ctx (recNat p 16 8) 8 = some v →
    (recNat p 24 8 ≤ v → lastPacket q p s → ∃ t, exec (.wait q) s = .next t ∧ packetDone q s s t) ∧
    (v < recNat p 24 8 → ∃ t, exec (.wait q) s = .next t ∧ (t.subq q).busy = true ∧ (t.subq q).step = 1 ∧
      (t.subq q).head = (s.subq q).head ∧ keepsPrograms s t)) ∧
  (∀ (q : Nat) (p : List Byte) (u s : State), packetReady q 5 p s →
    ((s.subq q).step = 0 → s.packetWrite (s.subq q).ctx p = some u → ∃ t, exec (.writeSignal q) s = .next t ∧
      (t.subq q).step = 1 ∧ (t.subq q).busy = true ∧ t.mem = u.mem ∧ keepsRegisters s t) ∧
    ((s.subq q).step ≠ 0 → lastPacket q p s → s.packetSignal (s.subq q).ctx (recNat p 40 8) = some u →
      ∃ t, exec (.writeSignal q) s = .next t ∧ packetDone q s u t)) ∧
  (∀ (q : Nat) (p : List Byte) (s : State), packetReady q 6 p s →
    ((s.subq q).flush = none → (s.copies q).length = (s.subq q).step →
      (∀ o ∈ s.copies q, o.stage = .finished ∧ o.faulted = false) → (s.subq q).step * 2 ^ 20 < recNat p 40 8 →
      ∃ t, exec (.hostcopy q) s = .next t ∧ (t.subq q).step = (s.subq q).step + 1 ∧
        (∃ o, t.ops = s.ops ++ [o] ∧ o.kind = .hostcopy ∧ o.core = q ∧ o.stage = .left ∧ o.ctx = (s.subq q).ctx ∧
          o.src.d0 = min (2 ^ 20) (recNat p 40 8 - (s.subq q).step * 2 ^ 20)) ∧ keepsRegisters s t ∧ keepsMemory s t) ∧
    (∀ f, (s.subq q).flush = some f → f.awaited = [] → f.fenced = false → (∀ o ∈ s.copies q, o.faulted = false) → lastPacket q p s →
      ∃ t, exec (.hostcopy q) s = .next t ∧ packetDone q s s t ∧ t.copies q = [])) ∧
  (∀ (used : Nat) (s : State), 20000 ≤ used + getKey 0 s.ctl.overrun s.ctl.turnCtx → (∀ x ∈ s.ctl.queues, x.2.midway = false) →
    ∃ t, exec (.turnEnd used) s = .next t ∧
      getKey 0 t.ctl.overrun s.ctl.turnCtx = used + getKey 0 s.ctl.overrun s.ctl.turnCtx - 20000 ∧
      t.ctl.turnCtx = ((s.servedList.find? (fun x => decide (s.ctl.turnCtx < x))).getD (s.servedList.headD s.ctl.turnCtx)) ∧
      keepsPrograms s t)

/-- Requests of software to the control cores: KILL with a software REASON and slot requests become events (R204, R224), gating changes timing only
(R252), a page-table change stores its entry and empties the TLBs of what it names, and of what it alters, under a new epoch (R44 to R47),
a handle is created, drained and freed (R33, R37), and a valid context descriptor is taken (R229), unless the tables that it makes live break R72, which is where the model makes that check (log 106); what the host asked for is answered (R228), with
the status, layout and order of logs 48 and 68, the model's choices. -/
def Obligations.SystemRequests : Prop :=
  (∀ (c reason : Nat) (s : State), s.ctl.phase = .running → 0x80 ≤ reason → reason ≤ 0xFF → ∃ t, exec (.killRequest c reason) s = .next t ∧
    contributed 0x0006 [(16, 2, c), (18, 1, reason)] s t ∧ answered 0 0 s t ∧ keepsPrograms s t) ∧
  (∀ (r : SlotReq) (s : State), s.ctl.phase = .running → ∃ t, exec (.slotRequest r) s = .next t ∧ keepsPrograms s t ∧
    (if r.release then contributed 0x000C [(16, 2, r.ctx), (18, 2, r.module), (20, 1, r.slotno)] s t
     else contributed 0x000B [(16, 2, r.ctx), (18, 2, r.grid), (20, 2, r.module), (22, 2, r.dest), (24, 2, r.srcBase), (26, 1, r.fmt),
       (27, 1, r.op), (28, 8, r.srcMask), (40, 8, r.result)] s t)) ∧
  (∀ (on : Bool) (s : State), exec (.issueGating on) s = .next { s with ctl := { s.ctl with gating := on } }) ∧
  (∀ (c : PteChange) (s : State), s.ctl.phase = .running → s.inval = none → s.refusesChange c = false →
    ∃ t, exec (.pageTableChange c) s = .next t ∧
    wrote c.entry.pa (bytesLE 8 c.entry.val.toNat) s.mem t.mem ∧ t.inval = some (s.freedBy c) ∧
    (∀ k, ∀ e ∈ (t.core k).tlb, invKeeps c.form c.ctx e = true ∧ t.walkVa e.ctx e.va = s.walkVa e.ctx e.va) ∧
    (∀ d, ∀ e ∈ getKey [] t.l2tlb d, invKeeps c.form c.ctx e = true ∧ t.walkVa e.ctx e.va = s.walkVa e.ctx e.va) ∧
    (∀ d, d < 4 → getKey 0 t.epochs d = getKey 0 s.epochs d + 1) ∧ keepsRegisters s t ∧ t.blocks = s.blocks) ∧
  (∀ (c : PteChange) (s : State), s.ctl.phase = .running → s.inval = none → s.refusesChange c = true →
    ∃ t, exec (.pageTableChange c) s = .next t ∧ answered 2 0xFF s t ∧ t.inval = none ∧ keepsPrograms s t) ∧
  (∀ (i : Inval) (s : State), s.ctl.phase ≠ .fatalHeld → s.inval = some i → s.entries.any (Entry.stale i.before) = false → ∃ t, exec .invalidationComplete s = .next t ∧
    t.inval = none ∧ (∀ m, i.req = some m → replied 2 m 0 t) ∧ keepsPrograms s t) ∧
  (∀ (r : HandleReq) (pins : List Pin) (s : State), s.ctl.phase = .running → s.ptesGood r.tables = true →
    s.handleAsked r = true →
    (s.writePtes r.tables).pinPages r.ctx r.wr (r.length / 65536 + 2) r.base (r.base + r.length) = some pins →
    ∃ t, exec (.handleCreate r) s = .next t ∧
      t.handle r.ctx r.index = { base := r.base, length := r.length, rd := r.rd, wr := r.wr, st := .live, pins := pins, users := [] } ∧
      answered 2 0 s t ∧ keepsRegisters s t ∧ t.blocks = s.blocks) ∧
  (∀ (c i : Nat) (s : State), s.ctl.phase = .running → (s.handle c i).st = .live → ∃ t, exec (.handleDestroy c i) s = .next t ∧
    t.handle c i = { s.handle c i with st := .draining } ∧
    (∀ m, (s.takeAsk 2).1 = some m → findKey t.ctl.handleAsks (c * 4096 + i) = some m) ∧ t.groups = s.groups ∧ keepsMemory s t) ∧
  (∀ (c i : Nat) (s : State), s.ctl.phase ≠ .fatalHeld → (s.handle c i).st = .draining → (s.handle c i).users = [] → ∃ t, exec (.handleFree c i) s = .next t ∧
    t.handle c i = HandleEnt.empty ∧ (∀ m, findKey s.ctl.handleAsks (c * 4096 + i) = some m → replied 2 m 0 t) ∧ t.groups = s.groups ∧ keepsMemory s t) ∧
  (∀ (c : Nat) (b : List Byte) (s : State), s.ctl.phase = .running → c < 4096 → recNat b 0 2 = c → 
    (recNat b 2 1 ≠ 1 ∨ (descriptorValid b = true ∧ s.mapsBad c b = false)) → ∃ t, exec (.contextDescriptorWrite c b) s = .next t ∧
      t.ctxDesc c = readCtxDesc b ∧ (∀ k, k ≠ c → t.ctxDesc k = s.ctxDesc k) ∧ answered 2 0 s t ∧ keepsPrograms s t)

/-- Boot and errors: POWER_ON runs when every image verifies and stays in recovery otherwise (R249 to R251), attestation signs the sixteen
registers (R250), a fatal cause holds the module with a dump (R247, R248), warm reset keeps memory (R248), soft errors
mark what they hit, at every site of R62, R74, R77 and R79, and a host core's access is one step at its home slice (R139, R140). The model's choices here:
the layout of the dump's header and its cause codes, the security controller's answer, and the poison kept at a warm reset are log 50; one-step accesses
of any alignment are log 70, the unit that LR reserves is log 99, the fault of an access outside HBM is log 62, and the position and the formation in
POWER_ON's operand, and image i's register i for the measurement, are log 48. -/
def Obligations.BootAndErrors : Prop :=
  (∀ (b : BootInput) (s : State), s.ctl.phase = .off → b.position < 1024 → (∀ p ∈ b.formation, p < 1024) →
    ∃ t, exec (.powerOn b) s = .next t ∧
    t.ctl.measure = (measureAll b.images 0 s.ctl.measure).1 ∧ keepsMemory s t ∧
    ((measureAll b.images 0 s.ctl.measure).2 = true → t.ctl.phase = .running ∧ t.fab.pos = b.position ∧ t.duc.formation = b.formation ∧
      (s.duc.role = .off → ¬ dumpKept s → t.duc.role = (if b.formation.contains b.position then .member else .observer) ∧
        (b.formation.contains b.position = false →
          ∃ since, t.fab.podtime = t.fab.t0 + since ∧ t.fab.slot = t.fab.s0 + since / t.fab.params.slotLen))) ∧
    ((measureAll b.images 0 s.ctl.measure).2 = false → t.ctl.phase = .recovery ∧ t.fab = s.fab ∧ t.duc = s.duc)) ∧
  (∀ (nonce : BitVec 256) (s : State), s.ctl.phase = .running → ∃ t, exec (.attestationRequest nonce) s = .next t ∧ keepsPrograms s t ∧
    (let regs := (List.range 16).map (getKey 0 s.ctl.measure)
     t.ctl.attested = some (regs, nonce, Config.deviceSign regs nonce) ∧ answered 7 0 s t)) ∧
  (∀ (s : State), s.ctl.phase = .running →
    (∀ c, c < 8 → ∃ t, exec (.watchdogExpire c) s = .next t ∧ heldFatal (.watchdog c) s t) ∧
    (∀ n, ∃ t, exec (.thermalTrip n) s = .next t ∧ heldFatal (.thermal n) s t) ∧
    (∃ t, exec .dumpCommand s = .next t ∧ heldFatal .dump s t) ∧
    (∀ f, f ≠ .mailbox ∨ 2 ≤ s.ctl.overflows → ∃ t, exec (.fatalError f) s = .next t ∧ heldFatal f s t)) ∧
  (∀ (d : Dump) (s : State), s.ctl.dump = some d → ∃ t, exec .dumpAcknowledge s = .next t ∧
    t.ctl.dump = some { d with acknowledged := true } ∧ keepsMemory s t) ∧
  (∀ (s : State), s.ctl.phase ≠ .off → ∃ t, exec .warmReset s = .next t ∧ t.ctl.phase = .off ∧ t.groups = [] ∧ t.blocks = [] ∧
    t.ctl.dump = s.ctl.dump ∧ t.mem = s.mem ∧ t.poison = s.poison) ∧
  (∀ (site : Nat) (s : State), ∃ t, exec (.softError (.corrected site)) s = .next t ∧
    getKey 0 t.ctl.counts site = getKey 0 s.ctl.counts site + 1 ∧ keepsPrograms s t) ∧
  (∀ (k : Nat) (x : SoftErr × BadReg) (s : State), (s.group k).resident = true → x ∈ registerSites k →
    ∃ t, exec (.softError x.1) s = .next t ∧ (∀ y, y ∈ (t.group k).bad ↔ y = x.2 ∨ y ∈ (s.group k).bad) ∧ keepsRegisters s t ∧ keepsMemory s t) ∧
  (∀ (k l r : Nat) (s : State), (s.group k).resident = true →
    (∃ t, exec (.softError (.laneReg k l r)) s = .next t ∧ (t.group k).bad.contains (.lane l r) = true ∧ keepsRegisters s t ∧ keepsMemory s t) ∧
    (∃ t, exec (.softError (.uniformReg k r)) s = .next t ∧ (t.group k).bad.contains (.uniform r) = true ∧ keepsRegisters s t ∧ keepsMemory s t) ∧
    (∃ t, exec (.softError (.maskReg k r)) s = .next t ∧ (t.group k).bad.contains (.mask r) = true ∧ keepsRegisters s t ∧ keepsMemory s t)) ∧
  (∀ (b off : Nat) (s : State), (s.block b).resident = true → off < (s.block b).scr → ∃ t, exec (.softError (.scratchpad b off)) s = .next t ∧
    (∀ x, x ∈ (t.block b).spadBad ↔ x = off / 32 ∨ x ∈ (s.block b).spadBad) ∧ (t.block b).spad = (s.block b).spad ∧
    t.groups = s.groups ∧ t.entries = s.entries ∧ keepsMemory s t) ∧
  (∀ (b h off : Nat) (r : ObHandle) (s : State), (s.block b).handle h = some r → off < r.gran * 4096 →
    ∃ t, exec (.softError (.operandBuffer b h off)) s = .next t ∧
    (∀ x, x ∈ (t.block b).obBad ↔ x = (r.base + off) / 32 ∨ x ∈ (s.block b).obBad) ∧ (t.block b).ob = (s.block b).ob ∧
    t.groups = s.groups ∧ t.entries = s.entries ∧ keepsMemory s t) ∧
  (∀ (c pa : Nat) (s : State), ∃ t, exec (.softError (.l1 c pa)) s = .next t ∧ (t.core c).l1 = l1Drop (s.core c).l1 pa 1 ∧
    getKey 0 t.ctl.counts 0x2000 = getKey 0 s.ctl.counts 0x2000 + 1 ∧ t.groups = s.groups ∧ t.blocks = s.blocks ∧ keepsMemory s t) ∧
  (∀ (grid off : Nat) (p : GridPrep) (s : State), findKey s.grids grid = some p → off < 65536 →
    ∃ t, exec (.softError (.bank grid off)) s = .next t ∧ t.groups = s.groups ∧ t.blocks = s.blocks ∧ keepsMemory s t ∧
      ∃ u, findKey t.grids grid = some { p with bankBad := u } ∧ ∀ x, x ∈ u ↔ x = off / 32 ∨ x ∈ p.bankBad) ∧
  (∀ (c ctx va : Nat) (s : State), ∃ t, exec (.softError (.tlb c ctx va)) s = .next t ∧
    (t.core c).tlb = (s.core c).tlb.filter (fun e => !tlbCovers ctx va e) ∧
    getKey [] t.l2tlb (dieOf c) = (getKey [] s.l2tlb (dieOf c)).filter (fun e => !tlbCovers ctx va e) ∧ keepsPrograms s t) ∧
  (∀ (s : State), s.duc.role = .member → ∃ t, exec (.softError .timetable) s = .next t ∧ selfFenced s t) ∧
  (∀ (s : State), s.ctl.phase = .running → ∃ t, exec (.softError .firmware) s = .next t ∧ heldFatal .firmware s t) ∧
  (∀ (pa : Nat) (s : State), inHbm pa = true → inReserve pa = false → ∃ t, exec (.softError (.memory pa)) s = .next t ∧
    t.poison.contains (pa / 32) = true ∧ (∀ x ∈ s.poison, x ∈ t.poison) ∧ t.mem = s.mem ∧ t.groups = s.groups) ∧
  (∀ (a : HostAcc) (s : State), s.ctl.phase = .running → a.core < 32 → hostAsks a = true → inHbm a.pa = true →
    inHbm (a.pa + a.size - 1) = true → poisoned s.poison a.pa a.size = false →
    (let old := readNat s.mem a.pa a.size
     (a.op = .load → ∃ t, exec (.hostCoreAccess a) s = .next t ∧ t.ctl.hostData = some (BitVec.ofNat 64 old) ∧ keepsPrograms s t) ∧
     (a.op = .store → ∃ t, exec (.hostCoreAccess a) s = .next t ∧ wrote a.pa (bytesLE a.size a.data.toNat) s.mem t.mem ∧
       keepsRegisters s t) ∧
     (a.op = .amoAdd → ∃ t, exec (.hostCoreAccess a) s = .next t ∧ wrote a.pa (bytesLE a.size (old + a.data.toNat)) s.mem t.mem ∧
       t.ctl.hostData = some (BitVec.ofNat 64 old) ∧ keepsRegisters s t) ∧
     (a.op ∈ [.amoSwap, .amoAnd, .amoOr, .amoXor, .amoMin, .amoMax, .amoMinu, .amoMaxu] → ∃ t, exec (.hostCoreAccess a) s = .next t ∧
       wrote a.pa (bytesLE a.size (amoResult a.op a.size old (a.data.toNat % 2 ^ (8 * a.size)))) s.mem t.mem ∧
       t.ctl.hostData = some (BitVec.ofNat 64 old) ∧ keepsRegisters s t) ∧
     (a.op = .lr → ∃ t, exec (.hostCoreAccess a) s = .next t ∧ findKey t.ctl.hostResv a.core = some (a.pa / 8 * 8) ∧
       t.ctl.hostData = some (BitVec.ofNat 64 old) ∧ keepsPrograms s t) ∧
     (a.op = .sc → findKey s.ctl.hostResv a.core ≠ some (a.pa / 8 * 8) → ∃ t, exec (.hostCoreAccess a) s = .next t ∧
       t.ctl.hostData = some 1 ∧ keepsPrograms s t) ∧
     (a.op = .sc → findKey s.ctl.hostResv a.core = some (a.pa / 8 * 8) → ∃ t, exec (.hostCoreAccess a) s = .next t ∧
       t.ctl.hostData = some 0 ∧ wrote a.pa (bytesLE a.size a.data.toNat) s.mem t.mem ∧ keepsRegisters s t))) ∧
  (∀ (a : HostAcc) (s : State), s.ctl.phase = .running → a.core < 32 → hostAsks a = true → a.op ≠ .fence → inHbm a.pa = false →
    exec (.hostCoreAccess a) s = .fault (.outsideHbm a.pa))

namespace Sys2Proof.Claim

/-! ### Encoding (R302 to R328) -/

/-- Words that the spec's examples give, each with the instruction that it stands for. -/
def specWords : List (Nat × Instr) := [
  (0x00310D00, .pfx { mask := 1, z := true, neg := false, rnd := 1, vc := .reg 13, space := 0, scope := 0, order := 0, sat := false }),
  (0x01050607, .iadd (.reg 5) (.reg 6) (.reg 7)), (0x0182C105, .iadd (.push 2) (.ch true 1) (.reg 5)),
  (0x01828105, .iadd (.push 2) (.ch false 1) (.reg 5)), (0x230404FD, .imuli (.reg 4) (.reg 4) (-3)),
  (0x26240302, .icmp 1 2 (.reg 3) (.reg 2)), (0x2D0A0B0C, .ffma (.reg 10) (.reg 11) (.reg 12)),
  (0x3A060820, .cvtpk (.reg 6) (.reg 8) 2 0), (0x3C088207, .tanh (.reg 8) (.ch false 2)),
  (0x4407062D, .scan (.reg 7) (.reg 6) 2 true 5), (0x470C0240, .obst (.reg 12) (.reg 2) 4 0),
  (0x4B0A0462, .stg (.reg 10) (.reg 4) 3 2), (0x53060272, .lda (.reg 6) (.reg 2) 3 2 2), (0x55060407, .aadd (.reg 6) (.reg 4) (.reg 7)),
  (0x65000407, .radd (.reg 4) (.reg 7)), (0x6C000581, .skh (.reg 5) (.ch false 1)), (0x6F30FFFE, .bra 1 true (-2)),
  (0x81061028, .sadd (.reg 3) (.reg 4) (.reg 5)), (0x97080982, .sldl (.reg 4) (.reg 2) 3 2), (0xA5082800, .v2s (.reg 4) 10 (.reg 0)),
  (0xA90BFFFD, .brnz (.reg 5) (-3)), (0xB600000C, .fence false 1 4), (0xB70A0801, .marm (.reg 5) (.reg 2) (.reg 0) 0 1),
  (0xBF40008C, .mma 32 0 2 false false true true), (0xC40C0838, .skqrd (.reg 6) (.reg 2) (.reg 7) 0), (0xCE000007, .trap 7)]

/-! ### What a step runs (R84, R173, R174, R314) -/

/-- The primary port's outcome, with the ages of the lanes that ran (R173). -/
def aged (k : Nat) (run : List Nat) (o : Out) : Out :=
  match o with
  | .next t => .next (afterPrimary k run t)
  | o => o

/-- The word at `b`'s PC, as its two fetches give it: no prefix and no fused sequence. -/
def plainAt (b : State) (w : Word) : Prop :=
  fetchWord b b.iss.group b.iss.pc = .word w ∧ isPfxWord w = false ∧ fusedHere w b = .no

/-- The pair at `b`'s PC. -/
def pairAt (b : State) (w v : Word) : Prop :=
  fetchWord b b.iss.group b.iss.pc = .word w ∧ isPfxWord w = true ∧ fetchWord b b.iss.group (b.iss.pc + 4) = .word v

/-- The state in which a fetched word executes. -/
def fetched (b : State) (w : Word) : State := { b with iss := { b.iss with word := w } }

/-- The state in which the second word of a pair executes: the prefix of its first is latched (R312). -/
def latched (b : State) (p : Pfx) (w v : Word) : State := { b with iss := { b.iss with word := v, pfx := some p, pfxWord := w } }

/-! ### Words that trap (R326, R40, R41) -/

/-- The lane words with one result. -/
def laneTable (s : State) (i : Instr) : Option LaneForm :=
  (arithForm s i).orElse (fun _ => (logicForm s i).orElse (fun _ => (floatForm s i).orElse (fun _ => (sfuForm i).orElse (fun _ => crossForm s i))))

/-- ILLEGAL_OP is taken at the PC of the word or pair, and the word has no effect (R326). -/
def takesIllegal (uniform : Bool) (s t : State) : Prop :=
  entersTrap 0x01 ((if uniform then 2 else 0) + (if s.iss.pfx.isSome then 8 else 0)) 0 (s.ctxDesc s.issuingBlock.ctx).traph s s.issuing
    (t.group s.iss.group) ∧ keepsOthers s.iss.group s t ∧ t.entries = s.entries

/-- The lane memory words with their forms (R366 to R373). -/
def memTable (s : State) (i : Instr) : Option MemForm :=
  match loadTable i, storeTable i, atomTable i, reduceTable i with
  | some (m, d, a, off), _, _, _ => some (loadForm m d a off)
  | _, some (m, v, a, off), _, _ => some (storeForm m v a off)
  | _, _, some (op, w, opc, r, a, b), _ =>
    if baseOk (prefixWord s w opc).space a then some (atomForm op (prefixWord s w opc) r a b) else none
  | _, _, _, some (op, opc, a, b) => if baseOk (prefixWord s 2 opc).space a then some (reduceForm op (prefixWord s 2 opc) a b) else none
  | _, _, _, _ => none

/-- An address that R9 refuses: unaligned, and not a plain access to local virtual or grid-global memory. -/
def crooked (u : MemUse) (a : Nat) : Prop := a % u.n ≠ 0 ∧ (u.atomic = true ∨ u.space ≠ .virt ∧ u.space ≠ .global)

/-- An access beyond its space (R11, R13, R14, R20, R22, R60). -/
def beyond (u : MemUse) (s : State) (a : Nat) : Prop :=
  let b := s.issuingBlock
  let row := s.gridRow b.grid
  match u.space with
  | .priv => (s.grid b.grid).psize < a + u.n
  | .scratch => b.scr < a + u.n ∨ u.write = true ∧ a < 0x300 ∧ b.frozen = false
  | .virt => 2 ^ 56 < a + u.n
  | .global => row.nranks ≤ a / 2 ^ 54 ∨ row.expLen < a % 2 ^ 54 + u.n ∨ u.write = true ∧ row.flags / 8 % 2 = 1
  | .window => b.gsz ≤ a / 2 ^ 19 ∨ (if b.gsz ≤ 1 then b.scr else (b.member (a / 2 ^ 19)).alloc) < a % 2 ^ 19 + u.n

/-- A condition of R41 taken as a trap: its code, the lanes that raised it, and the address of the lowest. -/
def takesCondition (f : MemForm) (code : Nat) (lanes : List Nat) (s t : State) : Prop :=
  let g := s.issuing
  let h := t.group s.iss.group
  (∀ l, l < laneCount → h.lane l = { g.lane l with
    shPc := (g.lane l).pc, shSt := (g.lane l).st,
    pc := if (g.lane l).st ≠ .exited then BitVec.ofNat 32 (s.ctxDesc s.issuingBlock.ctx).traph else (g.lane l).pc,
    st := if (g.lane l).st ≠ .exited then .run else .exited }) ∧
  h.trecWord 0 = BitVec.ofNat 64 (code + (if s.iss.pfx.isSome then 8 else 0) * 256 + s.iss.pc.toNat * 2 ^ 32) ∧
  h.trecWord 1 = maskOf lanes ∧ h.trecWord 2 = BitVec.ofNat 64 (f.at s (lanes.headD 0)) ∧ h.trecWord 6 = 0 ∧ h.handler = .trap ∧
  keepsLaneRegs g h ∧ keepsUniform g h ∧ keepsMasks g h ∧ keepsOthers s.iss.group s t ∧ t.entries = s.entries

/-! ### Distinct counts (R292, R293) -/

/-- A well-formed DCR object. -/
def isDcr (l : List Byte) : Prop := l.length = 2112 ∧ wellFormed .dcr l = true

/-! ### The final set of a round (R210) -/

/-- One contribution of each position, each with event numbers of its own (R201, R208). -/
def finalSet (cs : List Contribution) : Prop := (cs.map Contribution.origin).Nodup ∧ ∀ c ∈ cs, (c.events.map EvRec.seq).Nodup

end Sys2Proof.Claim

/-- Words of the spec's examples decode to the instructions that it gives them for (a sanity check of one or two of each format). -/
def Obligations.SpecWordsDecode : Prop := ∀ p ∈ specWords, decodeWord p.1 = .ok p.2

/-- Every well-formed word, with every operand at every value that its fields allow, is read back from its encoding, which has 32 bits
(R302 to R320). -/
def Obligations.EncodingsDecode : Prop :=
  ∀ (i : Instr), i.isWord = true → i.wf = true → encode i < 2 ^ 32 ∧ decodeWord (encode i) = .ok i

/-- Whatever a 32-bit word decodes to is a well-formed word whose encoding is that word: no bit of it is dropped, and no two words stand
for one instruction. -/
def Obligations.DecodedWordsEncode : Prop :=
  ∀ (w : Nat) (i : Instr), w < 2 ^ 32 → decodeWord w = .ok i → i.isWord = true ∧ i.wf = true ∧ encode i = w

/-- A step whose agenda says that a group issues runs the word that the primary port fetched (R173), the pair of a prefix and its word
(R314), or the fused sequence (R360), which waits for the walk that a page of its words needs (R39), and the second port its own word in the step after (R174); a step whose agenda names an event runs
that event. What the model adds is the ages of the lanes and the time that passes (log 4, log 9). -/
def Obligations.StepRunsDecoded : Prop :=
  (∀ (k p1 : Nat) (sel : List Nat) (p2 : Option Nat) (rest : List Item) (s a b : State), s.agenda = .issue k :: rest → a = { s with agenda := rest } →
    (a.group k).port2 = none → a.mayIssue k = true → a.vote k = some (p1, sel, p2) → b = a.primary k p1 sel p2 →
    (∀ (w : Word) (i : Instr), plainAt b w → decodeWord w.toNat = .ok i →
      step s = timed (aged k ((a.group k).lanesIn .run) (exec i (fetched b w)))) ∧
    (∀ (w v : Word) (p : Pfx) (i : Instr), pairAt b w v → decodeWord w.toNat = .ok (.pfx p) → decodeWord v.toNat = .ok i →
      step s = timed (aged k ((a.group k).lanesIn .run) (exec i (latched b p w v)))) ∧
    (∀ (w : Word) (f : Fused), fetchWord b k b.iss.pc = .word w → isPfxWord w = false → fusedHere w b = .yes f →
      step s = timed (aged k ((a.group k).lanesIn .run)
        (exec (.fusedSoftmax f.d1 f.a1 f.b1 f.d2 f.a2 f.d3 f.d4 f.a4 f.b4) (fetched b w)))) ∧
    (∀ (w : Word) (va : Nat), fetchWord b k b.iss.pc = .word w → isPfxWord w = false → fusedHere w b = .walk va →
      step s = timed (aged k ((a.group k).lanesIn .run) (onFetch (.walk va) (fun _ => .next b) b)))) ∧
  (∀ (k : Nat) (p w : Word) (ls : List Nat) (i : Instr) (rest : List Item) (s a b t : State), s.agenda = .issue k :: rest →
    a = { s with agenda := rest } → (a.group k).port2 = some (p, ls) → (a.group k).sync = none → (a.group k).stopped = false →
    b = (a.setGroup k { a.group k with port2 := none }).startIssue k p ls true → plainAt b w → decodeWord w.toNat = .ok i →
    exec i (fetched b w) = .next t → t.iss.issued = true →
    step s = timed (.next (t.setGroup k ((t.group k).mapLanes (fun _ x => { x with age := 0 }) t.iss.sel)))) ∧
  (∀ (e : Instr) (rest : List Item) (s : State), s.agenda = .event e :: rest → e.isEvent = true →
    step s = timed (exec e { s with agenda := rest }))

/-- From every state with memory in canonical form and issued lanes that exist (those that a group keeps for its next issue too), a step that goes on leaves such a state (the model's own
invariant: log 2). -/
def Obligations.StepKeepsInvariant : Prop := ∀ (s t : State), Inv s → step s = .next t → Inv t

/-- Reset has the invariant; no group, block, handle or entry exists, the module is in no pod, and the fabric parameters are the defaults
of R144. That memory reads 0 is log 2, and other registers at 0 is log 1. -/
def Obligations.ResetState : Prop :=
  Inv State.reset ∧ State.reset.groups = [] ∧ State.reset.blocks = [] ∧ State.reset.handles = [] ∧ State.reset.entries = [] ∧
  State.reset.duc.role = .off ∧ State.reset.tt.members = [] ∧
  State.reset.fab.params = { slotLen := 10000, guard := 500, span := 2, active := 64, rateDiv := 1 } ∧
  (∀ a, readByte State.reset.mem a = 0) ∧ (∀ k, (State.reset.group k).alive = false)

/-- Every instruction and event goes on, but for an access that is applied where no memory is, and no step ends in a refusal. R70 says where memory is;
that an access elsewhere stops the machine as the fault outsideHbm is the model's choice (log 62). -/
def Obligations.StopsOnlyOutsideHbm : Prop :=
  (∀ (i : Instr) (s : State), goesOn (exec i s) ∨
    ((∃ e, i = .hsApply e) ∨ ∃ a, i = .hostCoreAccess a) ∧ ∃ pa, exec i s = .fault (.outsideHbm pa)) ∧
  (∀ (s : State), goesOn (step s) ∨ ∃ pa, step s = .fault (.outsideHbm pa))

/-- A word that decodes to nothing traps ILLEGAL_OP without an effect, and so do a misplaced prefix (PFX before PFX, before BRA and before
a uniform word that computes) and a prefix field that a lane word does not accept (R326, R313). -/
def Obligations.IllegalWordsTrap : Prop :=
  (∀ (w : Word) (r : Reject) (s : State), decodeWord w.toNat = .error r → canTrap s →
    ∃ t, execWord w s = .next t ∧ takesIllegal (decide (0x80 ≤ w.toNat / 2 ^ 24)) s t) ∧
  (∀ (p : Pfx) (s : State), s.iss.pfx.isSome = true → canTrap s → ∃ t, exec (.pfx p) s = .next t ∧ takesIllegal false s t) ∧
  (∀ (m : Nat) (neg : Bool) (off : BitVec 16) (s : State), s.iss.pfx.isSome = true → canTrap s →
    ∃ t, exec (.bra m neg off) s = .next t ∧ takesIllegal false s t) ∧
  (∀ (i : Instr) (f : LaneForm) (s : State), laneTable s i = some f → pfxOk f.acc s.iss.pfx = false → canTrap s →
    ∃ t, exec i s = .next t ∧ takesIllegal false s t) ∧
  (∀ (i : Instr) (f : UniForm) (s : State), uniTable s i = some f → s.iss.pfx.isSome = true → canTrap s →
    ∃ t, exec i s = .next t ∧ takesIllegal true s t)

/-- Before any lane's access performs, a lane memory word traps MISALIGNED for the lanes of act whose address R9 refuses; with none of
those, PROTECTION (in the gang window WINDOW_RANGE) for the lanes whose access passes its space's limits. A private access with
off + size beyond PSIZE is one of these, and with PSIZE 0 every private access is (R11). Nothing is placed or written (R40, R41). -/
def Obligations.AccessLimitsTrap : Prop :=
  ∀ (i : Instr) (f : MemForm) (bad far : List Nat) (s : State), memTable s i = some f → lanesOk s → laneReady f.acc f.uses s = true →
    canTrap s → (∀ l, l ∈ bad ↔ l ∈ actLanes s ∧ crooked f.use (f.at s l)) → bad.Sublist (actLanes s) →
    (∀ l, l ∈ far ↔ l ∈ actLanes s ∧ beyond f.use s (f.at s l)) → far.Sublist (actLanes s) →
    (bad ≠ [] → ∃ t, exec i s = .next t ∧ takesCondition f 0x03 bad s t) ∧
    (bad = [] → far ≠ [] → (f.use.space = .window → f.use.write = true → ∀ l ∈ actLanes s, 0x300 ≤ f.at s l % 2 ^ 19) →
      ∃ t, exec i s = .next t ∧ takesCondition f (if f.use.space = .window then 0x08 else 0x05) far s t) ∧
    (f.use.space = .priv → (s.grid s.issuingBlock.grid).psize = 0 → ∀ l ∈ actLanes s, beyond f.use s (f.at s l))

/-- SKMERGE of two DCR objects of one SEED sets each register to the larger of the two, recomputes ZEROS and adds WEIGHT with saturation;
the result is a DCR of that SEED, and the merge is commutative and associative (R293). -/
def Obligations.DistinctCountMerge : Prop :=
  (∀ (d t : List Byte), isDcr d → isDcr t → objSeed d = objSeed t → ∃ m, mergeObjects .dcr d t = some m ∧ isDcr m ∧
    objSeed m = objSeed d ∧ (∀ j, j < 2048 → recNat m (64 + j) 1 = max (recNat d (64 + j) 1) (recNat t (64 + j) 1)) ∧
    recNat m 2 2 = ((List.range 2048).filter (fun j => decide (recNat m (64 + j) 1 = 0))).length ∧
    objWeight m = min (objWeight d + objWeight t) (2 ^ 64 - 1) ∧ mergeObjects .dcr t d = some m) ∧
  (∀ (d t u : List Byte), isDcr d → isDcr t → isDcr u → objSeed d = objSeed t → objSeed t = objSeed u →
    (mergeObjects .dcr d t).bind (fun m => mergeObjects .dcr m u) = (mergeObjects .dcr t u).bind (fun m => mergeObjects .dcr d m))

/-- The next Timetable, and what the chips enact, depend on the final set alone and not on the order in which a chip holds its
contributions (R210). -/
def Obligations.RoundsIgnoreOrder : Prop :=
  ∀ (t : Timetable) (n : Nat) (formation m : List Nat) (cs ds : List Contribution), finalSet cs → cs.Perm ds →
    applyRound t n formation m cs = applyRound t n formation m ds
end

