-- ==== Sys2Proof/Laws/Sparse.lean ====
section
/-! SUPPORT. The laws of the maps in canonical form: a read after a write, and that every operation keeps the form. -/

namespace Sys2Proof.Machine

variable {α : Type}

theorem getKey_delKey_self (d : α) (m : List (Nat × α)) (k : Nat) : getKey d (delKey m k) k = d := by
  induction m with
  | nil => rfl
  | cons e rest ih =>
    obtain ⟨j, v⟩ := e
    by_cases h : k = j
    · simp [delKey, h]; simpa [h] using ih
    · simp [delKey, getKey, h, ih]

theorem getKey_delKey_ne (d : α) (m : List (Nat × α)) {k j : Nat} (h : j ≠ k) : getKey d (delKey m k) j = getKey d m j := by
  induction m with
  | nil => rfl
  | cons e rest ih =>
    obtain ⟨i, v⟩ := e
    by_cases hk : k = i
    · subst hk; simp [delKey, getKey, h, ih]
    · simp [delKey, getKey, hk, ih]

theorem getKey_insKey_self (d : α) (m : List (Nat × α)) (k : Nat) (v : α) : getKey d (insKey m k v) k = v := by
  induction m with
  | nil => simp [insKey, getKey]
  | cons e rest ih =>
    obtain ⟨j, w⟩ := e
    simp only [insKey]
    split
    · simp [getKey]
    · split
      · simp [getKey]
      · rename_i h; simp [getKey, h, ih]

theorem getKey_insKey_ne (d : α) (m : List (Nat × α)) {k j : Nat} (v : α) (h : j ≠ k) :
    getKey d (insKey m k v) j = getKey d m j := by
  induction m with
  | nil => simp [insKey, getKey, h]
  | cons e rest ih =>
    obtain ⟨i, w⟩ := e
    simp only [insKey]
    split
    · simp [getKey, h]
    · split
      · rename_i hk; subst hk; simp [getKey, h]
      · simp [getKey, ih]

variable [DecidableEq α]

@[simp] theorem getKey_setKey_self (d : α) (m : List (Nat × α)) (k : Nat) (v : α) : getKey d (setKey d m k v) k = v := by
  unfold setKey; split
  · rename_i h; rw [getKey_delKey_self, h]
  · exact getKey_insKey_self d m k v

theorem getKey_setKey_ne (d : α) (m : List (Nat × α)) {k j : Nat} (v : α) (h : j ≠ k) :
    getKey d (setKey d m k v) j = getKey d m j := by
  unfold setKey; split
  · exact getKey_delKey_ne d m h
  · exact getKey_insKey_ne d m v h

/-- A read after a write, in one line. -/
theorem getKey_setKey (d : α) (m : List (Nat × α)) (k j : Nat) (v : α) :
    getKey d (setKey d m k v) j = if j = k then v else getKey d m j := by
  by_cases h : j = k
  · subst h; simp
  · simp [h, getKey_setKey_ne]

omit [DecidableEq α] in
theorem risingFrom_mono (m : List (Nat × α)) {lo lo' : Nat} (h : lo' ≤ lo) (hm : risingFrom lo m = true) : risingFrom lo' m = true := by
  cases m with
  | nil => rfl
  | cons e rest =>
    simp only [risingFrom, Bool.and_eq_true, decide_eq_true_eq] at hm ⊢
    exact ⟨by omega, hm.2⟩

omit [DecidableEq α] in
theorem risingFrom_delKey (m : List (Nat × α)) (lo k : Nat) (hm : risingFrom lo m = true) : risingFrom lo (delKey m k) = true := by
  induction m generalizing lo with
  | nil => rfl
  | cons e rest ih =>
    obtain ⟨j, v⟩ := e
    simp only [risingFrom, Bool.and_eq_true, decide_eq_true_eq] at hm
    simp only [delKey]
    split
    · exact risingFrom_mono _ (by omega) (ih _ hm.2)
    · simp only [risingFrom, Bool.and_eq_true, decide_eq_true_eq]; exact ⟨hm.1, ih _ hm.2⟩

omit [DecidableEq α] in
theorem risingFrom_insKey (m : List (Nat × α)) (lo k : Nat) (v : α) (hk : lo ≤ k) (hm : risingFrom lo m = true) :
    risingFrom lo (insKey m k v) = true := by
  induction m generalizing lo with
  | nil => simp [insKey, risingFrom, hk]
  | cons e rest ih =>
    obtain ⟨j, w⟩ := e
    simp only [risingFrom, Bool.and_eq_true, decide_eq_true_eq] at hm
    simp only [insKey]
    split
    · simp only [risingFrom, Bool.and_eq_true, decide_eq_true_eq]; exact ⟨hk, by omega, hm.2⟩
    · split
      · rename_i h; subst h; simp only [risingFrom, Bool.and_eq_true, decide_eq_true_eq]; exact ⟨hk, hm.2⟩
      · simp only [risingFrom, Bool.and_eq_true, decide_eq_true_eq]; exact ⟨hm.1, ih _ (by omega) hm.2⟩

omit [DecidableEq α] in
theorem mem_delKey (m : List (Nat × α)) (k : Nat) {e : Nat × α} (h : e ∈ delKey m k) : e ∈ m := by
  induction m with
  | nil => simp [delKey] at h
  | cons x rest ih =>
    obtain ⟨j, w⟩ := x
    simp only [delKey] at h
    split at h
    · exact List.mem_cons_of_mem _ (ih h)
    · rcases List.mem_cons.1 h with h | h
      · exact h ▸ List.mem_cons_self
      · exact List.mem_cons_of_mem _ (ih h)

omit [DecidableEq α] in
theorem mem_insKey (m : List (Nat × α)) (k : Nat) (v : α) {e : Nat × α} (h : e ∈ insKey m k v) : e = (k, v) ∨ e ∈ m := by
  induction m with
  | nil => exact .inl (by simpa [insKey] using h)
  | cons x rest ih =>
    obtain ⟨j, w⟩ := x
    simp only [insKey] at h
    split at h
    · exact (List.mem_cons.1 h)
    · split at h
      · rcases List.mem_cons.1 h with h | h
        · exact .inl h
        · exact .inr (List.mem_cons_of_mem _ h)
      · rcases List.mem_cons.1 h with h | h
        · exact .inr (h ▸ List.mem_cons_self)
        · rcases ih h with h | h
          · exact .inl h
          · exact .inr (List.mem_cons_of_mem _ h)

/-- Every write of a map keeps its canonical form. -/
theorem canonical_setKey (d : α) (m : List (Nat × α)) (k : Nat) (v : α) (hm : canonical d m = true) :
    canonical d (setKey d m k v) = true := by
  simp only [canonical, Bool.and_eq_true, List.all_eq_true, decide_eq_true_eq] at hm ⊢
  unfold setKey; split
  · exact ⟨risingFrom_delKey m 0 k hm.1, fun e he => hm.2 e (mem_delKey m k he)⟩
  · rename_i hv
    refine ⟨risingFrom_insKey m 0 k v (by omega) hm.1, fun e he => ?_⟩
    rcases mem_insKey m k v he with h | h
    · subst h; exact hv
    · exact hm.2 e h

omit [DecidableEq α] in
theorem risingFrom_filter (p : Nat × α → Bool) (m : List (Nat × α)) (lo : Nat) (hm : risingFrom lo m = true) :
    risingFrom lo (m.filter p) = true := by
  induction m generalizing lo with
  | nil => rfl
  | cons e rest ih =>
    obtain ⟨j, v⟩ := e
    simp only [risingFrom, Bool.and_eq_true, decide_eq_true_eq] at hm
    simp only [List.filter]
    split
    · simp only [risingFrom, Bool.and_eq_true, decide_eq_true_eq]; exact ⟨hm.1, ih _ hm.2⟩
    · exact risingFrom_mono _ (by omega) (ih _ hm.2)

/-- Dropping entries keeps the canonical form. -/
theorem canonical_filter (d : α) (p : Nat × α → Bool) (m : List (Nat × α)) (hm : canonical d m = true) :
    canonical d (m.filter p) = true := by
  simp only [canonical, Bool.and_eq_true, List.all_eq_true] at hm ⊢
  exact ⟨risingFrom_filter p m 0 hm.1, fun e he => hm.2 e (List.mem_filter.1 he).1⟩

/-! ### Memories -/

theorem readByte_writeByte (m : List Host.Cell) (a b : Nat) (x : Byte) :
    readByte (writeByte m a x) b = if b = a then x else readByte m b := getKey_setKey unwritten m a b x

/-- One byte written keeps the canonical form. -/
theorem wf_writeByte (m : List Host.Cell) (a : Nat) (x : Byte) (h : Memory.wf m = true) : Memory.wf (writeByte m a x) = true :=
  canonical_setKey unwritten m a x h

/-- Bytes written keep the canonical form. -/
theorem wf_writeBytes (bs : List Byte) (m : List Host.Cell) (a : Nat) (h : Memory.wf m = true) : Memory.wf (writeBytes m a bs) = true := by
  induction bs generalizing m a with
  | nil => exact h
  | cons b rest ih => exact ih _ _ (wf_writeByte m a b h)

/-- A number written keeps the canonical form. -/
theorem wf_writeNat (m : List Host.Cell) (a n v : Nat) (h : Memory.wf m = true) : Memory.wf (writeNat m a n v) = true :=
  wf_writeBytes _ m a h

/-- Bytes dropped keep the canonical form. -/
theorem wf_filter (p : Host.Cell → Bool) (m : List Host.Cell) (h : Memory.wf m = true) : Memory.wf (m.filter p) = true :=
  canonical_filter unwritten p m h

/-- What a byte reads as after bytes are written: the byte written there, or what it was. -/
theorem readByte_writeBytes (bs : List Byte) (m : List Host.Cell) (a b : Nat) :
    readByte (writeBytes m a bs) b = if a ≤ b ∧ b < a + bs.length then bs.getD (b - a) 0 else readByte m b := by
  induction bs generalizing m a with
  | nil =>
    simp only [writeBytes, List.length_nil, Nat.add_zero]
    rw [if_neg (by omega)]
  | cons x rest ih =>
    simp only [writeBytes, ih, readByte_writeByte, List.length_cons]
    by_cases h1 : a + 1 ≤ b ∧ b < a + 1 + rest.length
    · have h2 : a ≤ b ∧ b < a + (rest.length + 1) := by omega
      rw [if_pos h1, if_pos h2, show b - a = (b - (a + 1)) + 1 by omega]
      simp
    · by_cases h2 : b = a
      · subst h2; rw [if_neg h1]; simp
      · rw [if_neg h1, if_neg h2, if_neg (by omega)]

theorem length_bytesLE (n v : Nat) : (bytesLE n v).length = n := by
  induction n generalizing v with
  | zero => rfl
  | succ n ih => simp [bytesLE, ih]

/-- Bytes outside those written are as before. -/
theorem readByte_writeNat_out (m : List Host.Cell) (a n v b : Nat) (h : b < a ∨ a + n ≤ b) :
    readByte (writeNat m a n v) b = readByte m b := by
  rw [writeNat, readByte_writeBytes, length_bytesLE, if_neg (by omega)]

end Sys2Proof.Machine
end

