-- ==== Sys2Proof/Laws/State.lean ====
section
/-! SUPPORT. One lemma for each field of the state, a group or a block and each update: what the update leaves and what it sets. -/

namespace Sys2Proof.Machine

/-! ### State.setGroup -/

@[simp] theorem State.setGroup_clock (s : State) (k : Nat) (g : Group) : (s.setGroup k g).clock = s.clock := rfl
@[simp] theorem State.setGroup_groups (s : State) (k : Nat) (g : Group) : (s.setGroup k g).groups = setKey Group.empty s.groups k g := rfl
@[simp] theorem State.setGroup_blocks (s : State) (k : Nat) (g : Group) : (s.setGroup k g).blocks = s.blocks := rfl
@[simp] theorem State.setGroup_cores (s : State) (k : Nat) (g : Group) : (s.setGroup k g).cores = s.cores := rfl
@[simp] theorem State.setGroup_mem (s : State) (k : Nat) (g : Group) : (s.setGroup k g).mem = s.mem := rfl
@[simp] theorem State.setGroup_poison (s : State) (k : Nat) (g : Group) : (s.setGroup k g).poison = s.poison := rfl
@[simp] theorem State.setGroup_l2 (s : State) (k : Nat) (g : Group) : (s.setGroup k g).l2 = s.l2 := rfl
@[simp] theorem State.setGroup_watches (s : State) (k : Nat) (g : Group) : (s.setGroup k g).watches = s.watches := rfl
@[simp] theorem State.setGroup_l2tlb (s : State) (k : Nat) (g : Group) : (s.setGroup k g).l2tlb = s.l2tlb := rfl
@[simp] theorem State.setGroup_walks (s : State) (k : Nat) (g : Group) : (s.setGroup k g).walks = s.walks := rfl
@[simp] theorem State.setGroup_epochs (s : State) (k : Nat) (g : Group) : (s.setGroup k g).epochs = s.epochs := rfl
@[simp] theorem State.setGroup_inval (s : State) (k : Nat) (g : Group) : (s.setGroup k g).inval = s.inval := rfl
@[simp] theorem State.setGroup_handles (s : State) (k : Nat) (g : Group) : (s.setGroup k g).handles = s.handles := rfl
@[simp] theorem State.setGroup_ctxs (s : State) (k : Nat) (g : Group) : (s.setGroup k g).ctxs = s.ctxs := rfl
@[simp] theorem State.setGroup_exports (s : State) (k : Nat) (g : Group) : (s.setGroup k g).exports = s.exports := rfl
@[simp] theorem State.setGroup_grids (s : State) (k : Nat) (g : Group) : (s.setGroup k g).grids = s.grids := rfl
@[simp] theorem State.setGroup_saved (s : State) (k : Nat) (g : Group) : (s.setGroup k g).saved = s.saved := rfl
@[simp] theorem State.setGroup_entries (s : State) (k : Nat) (g : Group) : (s.setGroup k g).entries = s.entries := rfl
@[simp] theorem State.setGroup_ops (s : State) (k : Nat) (g : Group) : (s.setGroup k g).ops = s.ops := rfl
@[simp] theorem State.setGroup_fab (s : State) (k : Nat) (g : Group) : (s.setGroup k g).fab = s.fab := rfl
@[simp] theorem State.setGroup_tt (s : State) (k : Nat) (g : Group) : (s.setGroup k g).tt = s.tt := rfl
@[simp] theorem State.setGroup_duc (s : State) (k : Nat) (g : Group) : (s.setGroup k g).duc = s.duc := rfl
@[simp] theorem State.setGroup_ctl (s : State) (k : Nat) (g : Group) : (s.setGroup k g).ctl = s.ctl := rfl
@[simp] theorem State.setGroup_nextId (s : State) (k : Nat) (g : Group) : (s.setGroup k g).nextId = s.nextId := rfl
@[simp] theorem State.setGroup_free (s : State) (k : Nat) (g : Group) : (s.setGroup k g).free = s.free := rfl
@[simp] theorem State.setGroup_agenda (s : State) (k : Nat) (g : Group) : (s.setGroup k g).agenda = s.agenda := rfl
@[simp] theorem State.setGroup_cur (s : State) (k : Nat) (g : Group) : (s.setGroup k g).cur = s.cur := rfl
@[simp] theorem State.setGroup_iss (s : State) (k : Nat) (g : Group) : (s.setGroup k g).iss = s.iss := rfl

/-! ### State.setBlock -/

@[simp] theorem State.setBlock_clock (s : State) (k : Nat) (b : Block) : (s.setBlock k b).clock = s.clock := rfl
@[simp] theorem State.setBlock_groups (s : State) (k : Nat) (b : Block) : (s.setBlock k b).groups = s.groups := rfl
@[simp] theorem State.setBlock_blocks (s : State) (k : Nat) (b : Block) : (s.setBlock k b).blocks = setKey Block.empty s.blocks k b := rfl
@[simp] theorem State.setBlock_cores (s : State) (k : Nat) (b : Block) : (s.setBlock k b).cores = s.cores := rfl
@[simp] theorem State.setBlock_mem (s : State) (k : Nat) (b : Block) : (s.setBlock k b).mem = s.mem := rfl
@[simp] theorem State.setBlock_poison (s : State) (k : Nat) (b : Block) : (s.setBlock k b).poison = s.poison := rfl
@[simp] theorem State.setBlock_l2 (s : State) (k : Nat) (b : Block) : (s.setBlock k b).l2 = s.l2 := rfl
@[simp] theorem State.setBlock_watches (s : State) (k : Nat) (b : Block) : (s.setBlock k b).watches = s.watches := rfl
@[simp] theorem State.setBlock_l2tlb (s : State) (k : Nat) (b : Block) : (s.setBlock k b).l2tlb = s.l2tlb := rfl
@[simp] theorem State.setBlock_walks (s : State) (k : Nat) (b : Block) : (s.setBlock k b).walks = s.walks := rfl
@[simp] theorem State.setBlock_epochs (s : State) (k : Nat) (b : Block) : (s.setBlock k b).epochs = s.epochs := rfl
@[simp] theorem State.setBlock_inval (s : State) (k : Nat) (b : Block) : (s.setBlock k b).inval = s.inval := rfl
@[simp] theorem State.setBlock_handles (s : State) (k : Nat) (b : Block) : (s.setBlock k b).handles = s.handles := rfl
@[simp] theorem State.setBlock_ctxs (s : State) (k : Nat) (b : Block) : (s.setBlock k b).ctxs = s.ctxs := rfl
@[simp] theorem State.setBlock_exports (s : State) (k : Nat) (b : Block) : (s.setBlock k b).exports = s.exports := rfl
@[simp] theorem State.setBlock_grids (s : State) (k : Nat) (b : Block) : (s.setBlock k b).grids = s.grids := rfl
@[simp] theorem State.setBlock_saved (s : State) (k : Nat) (b : Block) : (s.setBlock k b).saved = s.saved := rfl
@[simp] theorem State.setBlock_entries (s : State) (k : Nat) (b : Block) : (s.setBlock k b).entries = s.entries := rfl
@[simp] theorem State.setBlock_ops (s : State) (k : Nat) (b : Block) : (s.setBlock k b).ops = s.ops := rfl
@[simp] theorem State.setBlock_fab (s : State) (k : Nat) (b : Block) : (s.setBlock k b).fab = s.fab := rfl
@[simp] theorem State.setBlock_tt (s : State) (k : Nat) (b : Block) : (s.setBlock k b).tt = s.tt := rfl
@[simp] theorem State.setBlock_duc (s : State) (k : Nat) (b : Block) : (s.setBlock k b).duc = s.duc := rfl
@[simp] theorem State.setBlock_ctl (s : State) (k : Nat) (b : Block) : (s.setBlock k b).ctl = s.ctl := rfl
@[simp] theorem State.setBlock_nextId (s : State) (k : Nat) (b : Block) : (s.setBlock k b).nextId = s.nextId := rfl
@[simp] theorem State.setBlock_free (s : State) (k : Nat) (b : Block) : (s.setBlock k b).free = s.free := rfl
@[simp] theorem State.setBlock_agenda (s : State) (k : Nat) (b : Block) : (s.setBlock k b).agenda = s.agenda := rfl
@[simp] theorem State.setBlock_cur (s : State) (k : Nat) (b : Block) : (s.setBlock k b).cur = s.cur := rfl
@[simp] theorem State.setBlock_iss (s : State) (k : Nat) (b : Block) : (s.setBlock k b).iss = s.iss := rfl

/-! ### State.setCore -/

@[simp] theorem State.setCore_clock (s : State) (k : Nat) (c : Core) : (s.setCore k c).clock = s.clock := rfl
@[simp] theorem State.setCore_groups (s : State) (k : Nat) (c : Core) : (s.setCore k c).groups = s.groups := rfl
@[simp] theorem State.setCore_blocks (s : State) (k : Nat) (c : Core) : (s.setCore k c).blocks = s.blocks := rfl
@[simp] theorem State.setCore_cores (s : State) (k : Nat) (c : Core) : (s.setCore k c).cores = setKey Core.empty s.cores k c := rfl
@[simp] theorem State.setCore_mem (s : State) (k : Nat) (c : Core) : (s.setCore k c).mem = s.mem := rfl
@[simp] theorem State.setCore_poison (s : State) (k : Nat) (c : Core) : (s.setCore k c).poison = s.poison := rfl
@[simp] theorem State.setCore_l2 (s : State) (k : Nat) (c : Core) : (s.setCore k c).l2 = s.l2 := rfl
@[simp] theorem State.setCore_watches (s : State) (k : Nat) (c : Core) : (s.setCore k c).watches = s.watches := rfl
@[simp] theorem State.setCore_l2tlb (s : State) (k : Nat) (c : Core) : (s.setCore k c).l2tlb = s.l2tlb := rfl
@[simp] theorem State.setCore_walks (s : State) (k : Nat) (c : Core) : (s.setCore k c).walks = s.walks := rfl
@[simp] theorem State.setCore_epochs (s : State) (k : Nat) (c : Core) : (s.setCore k c).epochs = s.epochs := rfl
@[simp] theorem State.setCore_inval (s : State) (k : Nat) (c : Core) : (s.setCore k c).inval = s.inval := rfl
@[simp] theorem State.setCore_handles (s : State) (k : Nat) (c : Core) : (s.setCore k c).handles = s.handles := rfl
@[simp] theorem State.setCore_ctxs (s : State) (k : Nat) (c : Core) : (s.setCore k c).ctxs = s.ctxs := rfl
@[simp] theorem State.setCore_exports (s : State) (k : Nat) (c : Core) : (s.setCore k c).exports = s.exports := rfl
@[simp] theorem State.setCore_grids (s : State) (k : Nat) (c : Core) : (s.setCore k c).grids = s.grids := rfl
@[simp] theorem State.setCore_saved (s : State) (k : Nat) (c : Core) : (s.setCore k c).saved = s.saved := rfl
@[simp] theorem State.setCore_entries (s : State) (k : Nat) (c : Core) : (s.setCore k c).entries = s.entries := rfl
@[simp] theorem State.setCore_ops (s : State) (k : Nat) (c : Core) : (s.setCore k c).ops = s.ops := rfl
@[simp] theorem State.setCore_fab (s : State) (k : Nat) (c : Core) : (s.setCore k c).fab = s.fab := rfl
@[simp] theorem State.setCore_tt (s : State) (k : Nat) (c : Core) : (s.setCore k c).tt = s.tt := rfl
@[simp] theorem State.setCore_duc (s : State) (k : Nat) (c : Core) : (s.setCore k c).duc = s.duc := rfl
@[simp] theorem State.setCore_ctl (s : State) (k : Nat) (c : Core) : (s.setCore k c).ctl = s.ctl := rfl
@[simp] theorem State.setCore_nextId (s : State) (k : Nat) (c : Core) : (s.setCore k c).nextId = s.nextId := rfl
@[simp] theorem State.setCore_free (s : State) (k : Nat) (c : Core) : (s.setCore k c).free = s.free := rfl
@[simp] theorem State.setCore_agenda (s : State) (k : Nat) (c : Core) : (s.setCore k c).agenda = s.agenda := rfl
@[simp] theorem State.setCore_cur (s : State) (k : Nat) (c : Core) : (s.setCore k c).cur = s.cur := rfl
@[simp] theorem State.setCore_iss (s : State) (k : Nat) (c : Core) : (s.setCore k c).iss = s.iss := rfl

/-! ### State.fresh -/

@[simp] theorem State.fresh_clock (s : State) : (s.fresh).clock = s.clock := rfl
@[simp] theorem State.fresh_groups (s : State) : (s.fresh).groups = s.groups := rfl
@[simp] theorem State.fresh_blocks (s : State) : (s.fresh).blocks = s.blocks := rfl
@[simp] theorem State.fresh_cores (s : State) : (s.fresh).cores = s.cores := rfl
@[simp] theorem State.fresh_mem (s : State) : (s.fresh).mem = s.mem := rfl
@[simp] theorem State.fresh_poison (s : State) : (s.fresh).poison = s.poison := rfl
@[simp] theorem State.fresh_l2 (s : State) : (s.fresh).l2 = s.l2 := rfl
@[simp] theorem State.fresh_watches (s : State) : (s.fresh).watches = s.watches := rfl
@[simp] theorem State.fresh_l2tlb (s : State) : (s.fresh).l2tlb = s.l2tlb := rfl
@[simp] theorem State.fresh_walks (s : State) : (s.fresh).walks = s.walks := rfl
@[simp] theorem State.fresh_epochs (s : State) : (s.fresh).epochs = s.epochs := rfl
@[simp] theorem State.fresh_inval (s : State) : (s.fresh).inval = s.inval := rfl
@[simp] theorem State.fresh_handles (s : State) : (s.fresh).handles = s.handles := rfl
@[simp] theorem State.fresh_ctxs (s : State) : (s.fresh).ctxs = s.ctxs := rfl
@[simp] theorem State.fresh_exports (s : State) : (s.fresh).exports = s.exports := rfl
@[simp] theorem State.fresh_grids (s : State) : (s.fresh).grids = s.grids := rfl
@[simp] theorem State.fresh_saved (s : State) : (s.fresh).saved = s.saved := rfl
@[simp] theorem State.fresh_entries (s : State) : (s.fresh).entries = s.entries := rfl
@[simp] theorem State.fresh_ops (s : State) : (s.fresh).ops = s.ops := rfl
@[simp] theorem State.fresh_fab (s : State) : (s.fresh).fab = s.fab := rfl
@[simp] theorem State.fresh_tt (s : State) : (s.fresh).tt = s.tt := rfl
@[simp] theorem State.fresh_duc (s : State) : (s.fresh).duc = s.duc := rfl
@[simp] theorem State.fresh_ctl (s : State) : (s.fresh).ctl = s.ctl := rfl
@[simp] theorem State.fresh_nextId (s : State) : (s.fresh).nextId = s.nextId + 1 := rfl
@[simp] theorem State.fresh_free (s : State) : (s.fresh).free = s.free := rfl
@[simp] theorem State.fresh_agenda (s : State) : (s.fresh).agenda = s.agenda := rfl
@[simp] theorem State.fresh_cur (s : State) : (s.fresh).cur = s.cur := rfl
@[simp] theorem State.fresh_iss (s : State) : (s.fresh).iss = s.iss := rfl

/-! ### State.logError -/

@[simp] theorem State.logError_clock (s : State) (i : LogItem) : (s.logError i).clock = s.clock := rfl
@[simp] theorem State.logError_groups (s : State) (i : LogItem) : (s.logError i).groups = s.groups := rfl
@[simp] theorem State.logError_blocks (s : State) (i : LogItem) : (s.logError i).blocks = s.blocks := rfl
@[simp] theorem State.logError_cores (s : State) (i : LogItem) : (s.logError i).cores = s.cores := rfl
@[simp] theorem State.logError_mem (s : State) (i : LogItem) : (s.logError i).mem = s.mem := rfl
@[simp] theorem State.logError_poison (s : State) (i : LogItem) : (s.logError i).poison = s.poison := rfl
@[simp] theorem State.logError_l2 (s : State) (i : LogItem) : (s.logError i).l2 = s.l2 := rfl
@[simp] theorem State.logError_watches (s : State) (i : LogItem) : (s.logError i).watches = s.watches := rfl
@[simp] theorem State.logError_l2tlb (s : State) (i : LogItem) : (s.logError i).l2tlb = s.l2tlb := rfl
@[simp] theorem State.logError_walks (s : State) (i : LogItem) : (s.logError i).walks = s.walks := rfl
@[simp] theorem State.logError_epochs (s : State) (i : LogItem) : (s.logError i).epochs = s.epochs := rfl
@[simp] theorem State.logError_inval (s : State) (i : LogItem) : (s.logError i).inval = s.inval := rfl
@[simp] theorem State.logError_handles (s : State) (i : LogItem) : (s.logError i).handles = s.handles := rfl
@[simp] theorem State.logError_ctxs (s : State) (i : LogItem) : (s.logError i).ctxs = s.ctxs := rfl
@[simp] theorem State.logError_exports (s : State) (i : LogItem) : (s.logError i).exports = s.exports := rfl
@[simp] theorem State.logError_grids (s : State) (i : LogItem) : (s.logError i).grids = s.grids := rfl
@[simp] theorem State.logError_saved (s : State) (i : LogItem) : (s.logError i).saved = s.saved := rfl
@[simp] theorem State.logError_entries (s : State) (i : LogItem) : (s.logError i).entries = s.entries := rfl
@[simp] theorem State.logError_ops (s : State) (i : LogItem) : (s.logError i).ops = s.ops := rfl
@[simp] theorem State.logError_fab (s : State) (i : LogItem) : (s.logError i).fab = s.fab := rfl
@[simp] theorem State.logError_tt (s : State) (i : LogItem) : (s.logError i).tt = s.tt := rfl
@[simp] theorem State.logError_duc (s : State) (i : LogItem) : (s.logError i).duc = s.duc := rfl
@[simp] theorem State.logError_nextId (s : State) (i : LogItem) : (s.logError i).nextId = s.nextId := rfl
@[simp] theorem State.logError_free (s : State) (i : LogItem) : (s.logError i).free = s.free := rfl
@[simp] theorem State.logError_agenda (s : State) (i : LogItem) : (s.logError i).agenda = s.agenda := rfl
@[simp] theorem State.logError_cur (s : State) (i : LogItem) : (s.logError i).cur = s.cur := rfl
@[simp] theorem State.logError_iss (s : State) (i : LogItem) : (s.logError i).iss = s.iss := rfl

/-! ### State.count -/

@[simp] theorem State.count_clock (s : State) (n : Nat) : (s.count n).clock = s.clock := rfl
@[simp] theorem State.count_groups (s : State) (n : Nat) : (s.count n).groups = s.groups := rfl
@[simp] theorem State.count_blocks (s : State) (n : Nat) : (s.count n).blocks = s.blocks := rfl
@[simp] theorem State.count_cores (s : State) (n : Nat) : (s.count n).cores = s.cores := rfl
@[simp] theorem State.count_mem (s : State) (n : Nat) : (s.count n).mem = s.mem := rfl
@[simp] theorem State.count_poison (s : State) (n : Nat) : (s.count n).poison = s.poison := rfl
@[simp] theorem State.count_l2 (s : State) (n : Nat) : (s.count n).l2 = s.l2 := rfl
@[simp] theorem State.count_watches (s : State) (n : Nat) : (s.count n).watches = s.watches := rfl
@[simp] theorem State.count_l2tlb (s : State) (n : Nat) : (s.count n).l2tlb = s.l2tlb := rfl
@[simp] theorem State.count_walks (s : State) (n : Nat) : (s.count n).walks = s.walks := rfl
@[simp] theorem State.count_epochs (s : State) (n : Nat) : (s.count n).epochs = s.epochs := rfl
@[simp] theorem State.count_inval (s : State) (n : Nat) : (s.count n).inval = s.inval := rfl
@[simp] theorem State.count_handles (s : State) (n : Nat) : (s.count n).handles = s.handles := rfl
@[simp] theorem State.count_ctxs (s : State) (n : Nat) : (s.count n).ctxs = s.ctxs := rfl
@[simp] theorem State.count_exports (s : State) (n : Nat) : (s.count n).exports = s.exports := rfl
@[simp] theorem State.count_grids (s : State) (n : Nat) : (s.count n).grids = s.grids := rfl
@[simp] theorem State.count_saved (s : State) (n : Nat) : (s.count n).saved = s.saved := rfl
@[simp] theorem State.count_entries (s : State) (n : Nat) : (s.count n).entries = s.entries := rfl
@[simp] theorem State.count_ops (s : State) (n : Nat) : (s.count n).ops = s.ops := rfl
@[simp] theorem State.count_fab (s : State) (n : Nat) : (s.count n).fab = s.fab := rfl
@[simp] theorem State.count_tt (s : State) (n : Nat) : (s.count n).tt = s.tt := rfl
@[simp] theorem State.count_duc (s : State) (n : Nat) : (s.count n).duc = s.duc := rfl
@[simp] theorem State.count_nextId (s : State) (n : Nat) : (s.count n).nextId = s.nextId := rfl
@[simp] theorem State.count_free (s : State) (n : Nat) : (s.count n).free = s.free := rfl
@[simp] theorem State.count_agenda (s : State) (n : Nat) : (s.count n).agenda = s.agenda := rfl
@[simp] theorem State.count_cur (s : State) (n : Nat) : (s.count n).cur = s.cur := rfl
@[simp] theorem State.count_iss (s : State) (n : Nat) : (s.count n).iss = s.iss := rfl

/-! ### State.contribute -/

@[simp] theorem State.contribute_clock (s : State) (typ : Nat) (fs : List (Nat × Nat × Nat)) : (s.contribute typ fs).clock = s.clock := rfl
@[simp] theorem State.contribute_groups (s : State) (typ : Nat) (fs : List (Nat × Nat × Nat)) : (s.contribute typ fs).groups = s.groups := rfl
@[simp] theorem State.contribute_blocks (s : State) (typ : Nat) (fs : List (Nat × Nat × Nat)) : (s.contribute typ fs).blocks = s.blocks := rfl
@[simp] theorem State.contribute_cores (s : State) (typ : Nat) (fs : List (Nat × Nat × Nat)) : (s.contribute typ fs).cores = s.cores := rfl
@[simp] theorem State.contribute_mem (s : State) (typ : Nat) (fs : List (Nat × Nat × Nat)) : (s.contribute typ fs).mem = s.mem := rfl
@[simp] theorem State.contribute_poison (s : State) (typ : Nat) (fs : List (Nat × Nat × Nat)) : (s.contribute typ fs).poison = s.poison := rfl
@[simp] theorem State.contribute_l2 (s : State) (typ : Nat) (fs : List (Nat × Nat × Nat)) : (s.contribute typ fs).l2 = s.l2 := rfl
@[simp] theorem State.contribute_watches (s : State) (typ : Nat) (fs : List (Nat × Nat × Nat)) : (s.contribute typ fs).watches = s.watches := rfl
@[simp] theorem State.contribute_l2tlb (s : State) (typ : Nat) (fs : List (Nat × Nat × Nat)) : (s.contribute typ fs).l2tlb = s.l2tlb := rfl
@[simp] theorem State.contribute_walks (s : State) (typ : Nat) (fs : List (Nat × Nat × Nat)) : (s.contribute typ fs).walks = s.walks := rfl
@[simp] theorem State.contribute_epochs (s : State) (typ : Nat) (fs : List (Nat × Nat × Nat)) : (s.contribute typ fs).epochs = s.epochs := rfl
@[simp] theorem State.contribute_inval (s : State) (typ : Nat) (fs : List (Nat × Nat × Nat)) : (s.contribute typ fs).inval = s.inval := rfl
@[simp] theorem State.contribute_handles (s : State) (typ : Nat) (fs : List (Nat × Nat × Nat)) : (s.contribute typ fs).handles = s.handles := rfl
@[simp] theorem State.contribute_ctxs (s : State) (typ : Nat) (fs : List (Nat × Nat × Nat)) : (s.contribute typ fs).ctxs = s.ctxs := rfl
@[simp] theorem State.contribute_exports (s : State) (typ : Nat) (fs : List (Nat × Nat × Nat)) : (s.contribute typ fs).exports = s.exports := rfl
@[simp] theorem State.contribute_grids (s : State) (typ : Nat) (fs : List (Nat × Nat × Nat)) : (s.contribute typ fs).grids = s.grids := rfl
@[simp] theorem State.contribute_saved (s : State) (typ : Nat) (fs : List (Nat × Nat × Nat)) : (s.contribute typ fs).saved = s.saved := rfl
@[simp] theorem State.contribute_entries (s : State) (typ : Nat) (fs : List (Nat × Nat × Nat)) : (s.contribute typ fs).entries = s.entries := rfl
@[simp] theorem State.contribute_ops (s : State) (typ : Nat) (fs : List (Nat × Nat × Nat)) : (s.contribute typ fs).ops = s.ops := rfl
@[simp] theorem State.contribute_fab (s : State) (typ : Nat) (fs : List (Nat × Nat × Nat)) : (s.contribute typ fs).fab = s.fab := rfl
@[simp] theorem State.contribute_tt (s : State) (typ : Nat) (fs : List (Nat × Nat × Nat)) : (s.contribute typ fs).tt = s.tt := rfl
@[simp] theorem State.contribute_ctl (s : State) (typ : Nat) (fs : List (Nat × Nat × Nat)) : (s.contribute typ fs).ctl = s.ctl := rfl
@[simp] theorem State.contribute_nextId (s : State) (typ : Nat) (fs : List (Nat × Nat × Nat)) : (s.contribute typ fs).nextId = s.nextId := rfl
@[simp] theorem State.contribute_free (s : State) (typ : Nat) (fs : List (Nat × Nat × Nat)) : (s.contribute typ fs).free = s.free := rfl
@[simp] theorem State.contribute_agenda (s : State) (typ : Nat) (fs : List (Nat × Nat × Nat)) : (s.contribute typ fs).agenda = s.agenda := rfl
@[simp] theorem State.contribute_cur (s : State) (typ : Nat) (fs : List (Nat × Nat × Nat)) : (s.contribute typ fs).cur = s.cur := rfl
@[simp] theorem State.contribute_iss (s : State) (typ : Nat) (fs : List (Nat × Nat × Nat)) : (s.contribute typ fs).iss = s.iss := rfl

/-! ### State.writeMem -/

@[simp] theorem State.writeMem_clock (s : State) (pa : Nat) (bs : List Byte) (bad : Bool) : (s.writeMem pa bs bad).clock = s.clock := rfl
@[simp] theorem State.writeMem_groups (s : State) (pa : Nat) (bs : List Byte) (bad : Bool) : (s.writeMem pa bs bad).groups = s.groups := rfl
@[simp] theorem State.writeMem_blocks (s : State) (pa : Nat) (bs : List Byte) (bad : Bool) : (s.writeMem pa bs bad).blocks = s.blocks := rfl
@[simp] theorem State.writeMem_cores (s : State) (pa : Nat) (bs : List Byte) (bad : Bool) : (s.writeMem pa bs bad).cores = s.cores := rfl
@[simp] theorem State.writeMem_mem (s : State) (pa : Nat) (bs : List Byte) (bad : Bool) : (s.writeMem pa bs bad).mem = writeBytes s.mem pa bs := rfl
@[simp] theorem State.writeMem_poison (s : State) (pa : Nat) (bs : List Byte) (bad : Bool) : (s.writeMem pa bs bad).poison = poisonAfter s.poison pa bs.length bad := rfl
@[simp] theorem State.writeMem_l2 (s : State) (pa : Nat) (bs : List Byte) (bad : Bool) : (s.writeMem pa bs bad).l2 = s.l2 := rfl
@[simp] theorem State.writeMem_watches (s : State) (pa : Nat) (bs : List Byte) (bad : Bool) : (s.writeMem pa bs bad).watches = s.watches := rfl
@[simp] theorem State.writeMem_l2tlb (s : State) (pa : Nat) (bs : List Byte) (bad : Bool) : (s.writeMem pa bs bad).l2tlb = s.l2tlb := rfl
@[simp] theorem State.writeMem_walks (s : State) (pa : Nat) (bs : List Byte) (bad : Bool) : (s.writeMem pa bs bad).walks = s.walks := rfl
@[simp] theorem State.writeMem_epochs (s : State) (pa : Nat) (bs : List Byte) (bad : Bool) : (s.writeMem pa bs bad).epochs = s.epochs := rfl
@[simp] theorem State.writeMem_inval (s : State) (pa : Nat) (bs : List Byte) (bad : Bool) : (s.writeMem pa bs bad).inval = s.inval := rfl
@[simp] theorem State.writeMem_handles (s : State) (pa : Nat) (bs : List Byte) (bad : Bool) : (s.writeMem pa bs bad).handles = s.handles := rfl
@[simp] theorem State.writeMem_ctxs (s : State) (pa : Nat) (bs : List Byte) (bad : Bool) : (s.writeMem pa bs bad).ctxs = s.ctxs := rfl
@[simp] theorem State.writeMem_exports (s : State) (pa : Nat) (bs : List Byte) (bad : Bool) : (s.writeMem pa bs bad).exports = s.exports := rfl
@[simp] theorem State.writeMem_grids (s : State) (pa : Nat) (bs : List Byte) (bad : Bool) : (s.writeMem pa bs bad).grids = s.grids := rfl
@[simp] theorem State.writeMem_saved (s : State) (pa : Nat) (bs : List Byte) (bad : Bool) : (s.writeMem pa bs bad).saved = s.saved := rfl
@[simp] theorem State.writeMem_entries (s : State) (pa : Nat) (bs : List Byte) (bad : Bool) : (s.writeMem pa bs bad).entries = s.entries := rfl
@[simp] theorem State.writeMem_ops (s : State) (pa : Nat) (bs : List Byte) (bad : Bool) : (s.writeMem pa bs bad).ops = s.ops := rfl
@[simp] theorem State.writeMem_fab (s : State) (pa : Nat) (bs : List Byte) (bad : Bool) : (s.writeMem pa bs bad).fab = s.fab := rfl
@[simp] theorem State.writeMem_tt (s : State) (pa : Nat) (bs : List Byte) (bad : Bool) : (s.writeMem pa bs bad).tt = s.tt := rfl
@[simp] theorem State.writeMem_duc (s : State) (pa : Nat) (bs : List Byte) (bad : Bool) : (s.writeMem pa bs bad).duc = s.duc := rfl
@[simp] theorem State.writeMem_ctl (s : State) (pa : Nat) (bs : List Byte) (bad : Bool) : (s.writeMem pa bs bad).ctl = s.ctl := rfl
@[simp] theorem State.writeMem_nextId (s : State) (pa : Nat) (bs : List Byte) (bad : Bool) : (s.writeMem pa bs bad).nextId = s.nextId := rfl
@[simp] theorem State.writeMem_free (s : State) (pa : Nat) (bs : List Byte) (bad : Bool) : (s.writeMem pa bs bad).free = s.free := rfl
@[simp] theorem State.writeMem_agenda (s : State) (pa : Nat) (bs : List Byte) (bad : Bool) : (s.writeMem pa bs bad).agenda = s.agenda := rfl
@[simp] theorem State.writeMem_cur (s : State) (pa : Nat) (bs : List Byte) (bad : Bool) : (s.writeMem pa bs bad).cur = s.cur := rfl
@[simp] theorem State.writeMem_iss (s : State) (pa : Nat) (bs : List Byte) (bad : Bool) : (s.writeMem pa bs bad).iss = s.iss := rfl

/-! ### State.touchL2 -/

theorem State.touchLine_eq (s : State) (line : Nat) (m : BitVec 4) (dirty : Bool) :
    ∃ l2 free, s.touchLine line m dirty = { s with l2 := l2, free := free } := by
  unfold State.touchLine
  split
  · exact ⟨_, s.free, rfl⟩
  · dsimp only
    split
    · exact ⟨_, s.free, rfl⟩
    · exact ⟨_, _, rfl⟩

/-- Touching the home slices changes their lines, and takes free values for the lines that they give up. -/
theorem State.touchL2_eq (s : State) (pa n : Nat) (dirty : Bool) :
    ∃ l2 free, s.touchL2 pa n dirty = { s with l2 := l2, free := free } := by
  unfold State.touchL2
  generalize List.range ((pa + n - 1) / 128 + 1 - pa / 128) = is
  induction is generalizing s with
  | nil => exact ⟨s.l2, s.free, rfl⟩
  | cons i is ih =>
    obtain ⟨l2, free, h⟩ := s.touchLine_eq (pa / 128 + i) (lineSectors (pa / 128 + i) pa n) dirty
    obtain ⟨l2', free', h'⟩ := ih (s.touchLine (pa / 128 + i) (lineSectors (pa / 128 + i) pa n) dirty)
    exact ⟨l2', free', by rw [List.foldl_cons, h', h]⟩

@[simp] theorem State.touchL2_clock (s : State) (pa n : Nat) (dirty : Bool) : (s.touchL2 pa n dirty).clock = s.clock := by
  obtain ⟨_, _, h⟩ := s.touchL2_eq pa n dirty; rw [h]
@[simp] theorem State.touchL2_groups (s : State) (pa n : Nat) (dirty : Bool) : (s.touchL2 pa n dirty).groups = s.groups := by
  obtain ⟨_, _, h⟩ := s.touchL2_eq pa n dirty; rw [h]
@[simp] theorem State.touchL2_blocks (s : State) (pa n : Nat) (dirty : Bool) : (s.touchL2 pa n dirty).blocks = s.blocks := by
  obtain ⟨_, _, h⟩ := s.touchL2_eq pa n dirty; rw [h]
@[simp] theorem State.touchL2_cores (s : State) (pa n : Nat) (dirty : Bool) : (s.touchL2 pa n dirty).cores = s.cores := by
  obtain ⟨_, _, h⟩ := s.touchL2_eq pa n dirty; rw [h]
@[simp] theorem State.touchL2_mem (s : State) (pa n : Nat) (dirty : Bool) : (s.touchL2 pa n dirty).mem = s.mem := by
  obtain ⟨_, _, h⟩ := s.touchL2_eq pa n dirty; rw [h]
@[simp] theorem State.touchL2_poison (s : State) (pa n : Nat) (dirty : Bool) : (s.touchL2 pa n dirty).poison = s.poison := by
  obtain ⟨_, _, h⟩ := s.touchL2_eq pa n dirty; rw [h]
@[simp] theorem State.touchL2_watches (s : State) (pa n : Nat) (dirty : Bool) : (s.touchL2 pa n dirty).watches = s.watches := by
  obtain ⟨_, _, h⟩ := s.touchL2_eq pa n dirty; rw [h]
@[simp] theorem State.touchL2_l2tlb (s : State) (pa n : Nat) (dirty : Bool) : (s.touchL2 pa n dirty).l2tlb = s.l2tlb := by
  obtain ⟨_, _, h⟩ := s.touchL2_eq pa n dirty; rw [h]
@[simp] theorem State.touchL2_walks (s : State) (pa n : Nat) (dirty : Bool) : (s.touchL2 pa n dirty).walks = s.walks := by
  obtain ⟨_, _, h⟩ := s.touchL2_eq pa n dirty; rw [h]
@[simp] theorem State.touchL2_epochs (s : State) (pa n : Nat) (dirty : Bool) : (s.touchL2 pa n dirty).epochs = s.epochs := by
  obtain ⟨_, _, h⟩ := s.touchL2_eq pa n dirty; rw [h]
@[simp] theorem State.touchL2_inval (s : State) (pa n : Nat) (dirty : Bool) : (s.touchL2 pa n dirty).inval = s.inval := by
  obtain ⟨_, _, h⟩ := s.touchL2_eq pa n dirty; rw [h]
@[simp] theorem State.touchL2_handles (s : State) (pa n : Nat) (dirty : Bool) : (s.touchL2 pa n dirty).handles = s.handles := by
  obtain ⟨_, _, h⟩ := s.touchL2_eq pa n dirty; rw [h]
@[simp] theorem State.touchL2_ctxs (s : State) (pa n : Nat) (dirty : Bool) : (s.touchL2 pa n dirty).ctxs = s.ctxs := by
  obtain ⟨_, _, h⟩ := s.touchL2_eq pa n dirty; rw [h]
@[simp] theorem State.touchL2_exports (s : State) (pa n : Nat) (dirty : Bool) : (s.touchL2 pa n dirty).exports = s.exports := by
  obtain ⟨_, _, h⟩ := s.touchL2_eq pa n dirty; rw [h]
@[simp] theorem State.touchL2_grids (s : State) (pa n : Nat) (dirty : Bool) : (s.touchL2 pa n dirty).grids = s.grids := by
  obtain ⟨_, _, h⟩ := s.touchL2_eq pa n dirty; rw [h]
@[simp] theorem State.touchL2_saved (s : State) (pa n : Nat) (dirty : Bool) : (s.touchL2 pa n dirty).saved = s.saved := by
  obtain ⟨_, _, h⟩ := s.touchL2_eq pa n dirty; rw [h]
@[simp] theorem State.touchL2_entries (s : State) (pa n : Nat) (dirty : Bool) : (s.touchL2 pa n dirty).entries = s.entries := by
  obtain ⟨_, _, h⟩ := s.touchL2_eq pa n dirty; rw [h]
@[simp] theorem State.touchL2_ops (s : State) (pa n : Nat) (dirty : Bool) : (s.touchL2 pa n dirty).ops = s.ops := by
  obtain ⟨_, _, h⟩ := s.touchL2_eq pa n dirty; rw [h]
@[simp] theorem State.touchL2_fab (s : State) (pa n : Nat) (dirty : Bool) : (s.touchL2 pa n dirty).fab = s.fab := by
  obtain ⟨_, _, h⟩ := s.touchL2_eq pa n dirty; rw [h]
@[simp] theorem State.touchL2_tt (s : State) (pa n : Nat) (dirty : Bool) : (s.touchL2 pa n dirty).tt = s.tt := by
  obtain ⟨_, _, h⟩ := s.touchL2_eq pa n dirty; rw [h]
@[simp] theorem State.touchL2_duc (s : State) (pa n : Nat) (dirty : Bool) : (s.touchL2 pa n dirty).duc = s.duc := by
  obtain ⟨_, _, h⟩ := s.touchL2_eq pa n dirty; rw [h]
@[simp] theorem State.touchL2_ctl (s : State) (pa n : Nat) (dirty : Bool) : (s.touchL2 pa n dirty).ctl = s.ctl := by
  obtain ⟨_, _, h⟩ := s.touchL2_eq pa n dirty; rw [h]
@[simp] theorem State.touchL2_nextId (s : State) (pa n : Nat) (dirty : Bool) : (s.touchL2 pa n dirty).nextId = s.nextId := by
  obtain ⟨_, _, h⟩ := s.touchL2_eq pa n dirty; rw [h]
@[simp] theorem State.touchL2_agenda (s : State) (pa n : Nat) (dirty : Bool) : (s.touchL2 pa n dirty).agenda = s.agenda := by
  obtain ⟨_, _, h⟩ := s.touchL2_eq pa n dirty; rw [h]
@[simp] theorem State.touchL2_cur (s : State) (pa n : Nat) (dirty : Bool) : (s.touchL2 pa n dirty).cur = s.cur := by
  obtain ⟨_, _, h⟩ := s.touchL2_eq pa n dirty; rw [h]
@[simp] theorem State.touchL2_iss (s : State) (pa n : Nat) (dirty : Bool) : (s.touchL2 pa n dirty).iss = s.iss := by
  obtain ⟨_, _, h⟩ := s.touchL2_eq pa n dirty; rw [h]

/-! ### State.placeEntry -/

@[simp] theorem State.placeEntry_clock (s : State) (e : Entry) : (s.placeEntry e).clock = s.clock := rfl
@[simp] theorem State.placeEntry_groups (s : State) (e : Entry) : (s.placeEntry e).groups = s.groups := rfl
@[simp] theorem State.placeEntry_blocks (s : State) (e : Entry) : (s.placeEntry e).blocks = s.blocks := rfl
@[simp] theorem State.placeEntry_cores (s : State) (e : Entry) : (s.placeEntry e).cores = s.cores := rfl
@[simp] theorem State.placeEntry_mem (s : State) (e : Entry) : (s.placeEntry e).mem = s.mem := rfl
@[simp] theorem State.placeEntry_poison (s : State) (e : Entry) : (s.placeEntry e).poison = s.poison := rfl
@[simp] theorem State.placeEntry_l2 (s : State) (e : Entry) : (s.placeEntry e).l2 = s.l2 := rfl
@[simp] theorem State.placeEntry_watches (s : State) (e : Entry) : (s.placeEntry e).watches = s.watches := rfl
@[simp] theorem State.placeEntry_l2tlb (s : State) (e : Entry) : (s.placeEntry e).l2tlb = s.l2tlb := rfl
@[simp] theorem State.placeEntry_walks (s : State) (e : Entry) : (s.placeEntry e).walks = s.walks := rfl
@[simp] theorem State.placeEntry_epochs (s : State) (e : Entry) : (s.placeEntry e).epochs = s.epochs := rfl
@[simp] theorem State.placeEntry_inval (s : State) (e : Entry) : (s.placeEntry e).inval = s.inval := rfl
@[simp] theorem State.placeEntry_handles (s : State) (e : Entry) : (s.placeEntry e).handles = s.handles := rfl
@[simp] theorem State.placeEntry_ctxs (s : State) (e : Entry) : (s.placeEntry e).ctxs = s.ctxs := rfl
@[simp] theorem State.placeEntry_exports (s : State) (e : Entry) : (s.placeEntry e).exports = s.exports := rfl
@[simp] theorem State.placeEntry_grids (s : State) (e : Entry) : (s.placeEntry e).grids = s.grids := rfl
@[simp] theorem State.placeEntry_saved (s : State) (e : Entry) : (s.placeEntry e).saved = s.saved := rfl
@[simp] theorem State.placeEntry_entries (s : State) (e : Entry) : (s.placeEntry e).entries = s.entries ++ [e] := rfl
@[simp] theorem State.placeEntry_ops (s : State) (e : Entry) : (s.placeEntry e).ops = s.ops := rfl
@[simp] theorem State.placeEntry_fab (s : State) (e : Entry) : (s.placeEntry e).fab = s.fab := rfl
@[simp] theorem State.placeEntry_tt (s : State) (e : Entry) : (s.placeEntry e).tt = s.tt := rfl
@[simp] theorem State.placeEntry_duc (s : State) (e : Entry) : (s.placeEntry e).duc = s.duc := rfl
@[simp] theorem State.placeEntry_ctl (s : State) (e : Entry) : (s.placeEntry e).ctl = s.ctl := rfl
@[simp] theorem State.placeEntry_nextId (s : State) (e : Entry) : (s.placeEntry e).nextId = s.nextId + 1 := rfl
@[simp] theorem State.placeEntry_free (s : State) (e : Entry) : (s.placeEntry e).free = s.free := rfl
@[simp] theorem State.placeEntry_agenda (s : State) (e : Entry) : (s.placeEntry e).agenda = s.agenda := rfl
@[simp] theorem State.placeEntry_cur (s : State) (e : Entry) : (s.placeEntry e).cur = s.cur := rfl
@[simp] theorem State.placeEntry_iss (s : State) (e : Entry) : (s.placeEntry e).iss = s.iss := rfl

/-! ### State.moveSel -/

@[simp] theorem State.moveSel_clock (s : State) (p : Word) : (s.moveSel p).clock = s.clock := rfl
@[simp] theorem State.moveSel_blocks (s : State) (p : Word) : (s.moveSel p).blocks = s.blocks := rfl
@[simp] theorem State.moveSel_cores (s : State) (p : Word) : (s.moveSel p).cores = s.cores := rfl
@[simp] theorem State.moveSel_mem (s : State) (p : Word) : (s.moveSel p).mem = s.mem := rfl
@[simp] theorem State.moveSel_poison (s : State) (p : Word) : (s.moveSel p).poison = s.poison := rfl
@[simp] theorem State.moveSel_l2 (s : State) (p : Word) : (s.moveSel p).l2 = s.l2 := rfl
@[simp] theorem State.moveSel_watches (s : State) (p : Word) : (s.moveSel p).watches = s.watches := rfl
@[simp] theorem State.moveSel_l2tlb (s : State) (p : Word) : (s.moveSel p).l2tlb = s.l2tlb := rfl
@[simp] theorem State.moveSel_walks (s : State) (p : Word) : (s.moveSel p).walks = s.walks := rfl
@[simp] theorem State.moveSel_epochs (s : State) (p : Word) : (s.moveSel p).epochs = s.epochs := rfl
@[simp] theorem State.moveSel_inval (s : State) (p : Word) : (s.moveSel p).inval = s.inval := rfl
@[simp] theorem State.moveSel_handles (s : State) (p : Word) : (s.moveSel p).handles = s.handles := rfl
@[simp] theorem State.moveSel_ctxs (s : State) (p : Word) : (s.moveSel p).ctxs = s.ctxs := rfl
@[simp] theorem State.moveSel_exports (s : State) (p : Word) : (s.moveSel p).exports = s.exports := rfl
@[simp] theorem State.moveSel_grids (s : State) (p : Word) : (s.moveSel p).grids = s.grids := rfl
@[simp] theorem State.moveSel_saved (s : State) (p : Word) : (s.moveSel p).saved = s.saved := rfl
@[simp] theorem State.moveSel_entries (s : State) (p : Word) : (s.moveSel p).entries = s.entries := rfl
@[simp] theorem State.moveSel_ops (s : State) (p : Word) : (s.moveSel p).ops = s.ops := rfl
@[simp] theorem State.moveSel_fab (s : State) (p : Word) : (s.moveSel p).fab = s.fab := rfl
@[simp] theorem State.moveSel_tt (s : State) (p : Word) : (s.moveSel p).tt = s.tt := rfl
@[simp] theorem State.moveSel_duc (s : State) (p : Word) : (s.moveSel p).duc = s.duc := rfl
@[simp] theorem State.moveSel_ctl (s : State) (p : Word) : (s.moveSel p).ctl = s.ctl := rfl
@[simp] theorem State.moveSel_nextId (s : State) (p : Word) : (s.moveSel p).nextId = s.nextId := rfl
@[simp] theorem State.moveSel_free (s : State) (p : Word) : (s.moveSel p).free = s.free := rfl
@[simp] theorem State.moveSel_agenda (s : State) (p : Word) : (s.moveSel p).agenda = s.agenda := rfl
@[simp] theorem State.moveSel_cur (s : State) (p : Word) : (s.moveSel p).cur = s.cur := rfl

/-! ### State.advance -/

@[simp] theorem State.advance_clock (s : State) : (s.advance).clock = s.clock := rfl
@[simp] theorem State.advance_blocks (s : State) : (s.advance).blocks = s.blocks := rfl
@[simp] theorem State.advance_cores (s : State) : (s.advance).cores = s.cores := rfl
@[simp] theorem State.advance_mem (s : State) : (s.advance).mem = s.mem := rfl
@[simp] theorem State.advance_poison (s : State) : (s.advance).poison = s.poison := rfl
@[simp] theorem State.advance_l2 (s : State) : (s.advance).l2 = s.l2 := rfl
@[simp] theorem State.advance_watches (s : State) : (s.advance).watches = s.watches := rfl
@[simp] theorem State.advance_l2tlb (s : State) : (s.advance).l2tlb = s.l2tlb := rfl
@[simp] theorem State.advance_walks (s : State) : (s.advance).walks = s.walks := rfl
@[simp] theorem State.advance_epochs (s : State) : (s.advance).epochs = s.epochs := rfl
@[simp] theorem State.advance_inval (s : State) : (s.advance).inval = s.inval := rfl
@[simp] theorem State.advance_handles (s : State) : (s.advance).handles = s.handles := rfl
@[simp] theorem State.advance_ctxs (s : State) : (s.advance).ctxs = s.ctxs := rfl
@[simp] theorem State.advance_exports (s : State) : (s.advance).exports = s.exports := rfl
@[simp] theorem State.advance_grids (s : State) : (s.advance).grids = s.grids := rfl
@[simp] theorem State.advance_saved (s : State) : (s.advance).saved = s.saved := rfl
@[simp] theorem State.advance_entries (s : State) : (s.advance).entries = s.entries := rfl
@[simp] theorem State.advance_ops (s : State) : (s.advance).ops = s.ops := rfl
@[simp] theorem State.advance_fab (s : State) : (s.advance).fab = s.fab := rfl
@[simp] theorem State.advance_tt (s : State) : (s.advance).tt = s.tt := rfl
@[simp] theorem State.advance_duc (s : State) : (s.advance).duc = s.duc := rfl
@[simp] theorem State.advance_ctl (s : State) : (s.advance).ctl = s.ctl := rfl
@[simp] theorem State.advance_nextId (s : State) : (s.advance).nextId = s.nextId := rfl
@[simp] theorem State.advance_free (s : State) : (s.advance).free = s.free := rfl
@[simp] theorem State.advance_agenda (s : State) : (s.advance).agenda = s.agenda := rfl
@[simp] theorem State.advance_cur (s : State) : (s.advance).cur = s.cur := rfl

/-! ### State.nextInstr -/

@[simp] theorem State.nextInstr_clock (s : State) (k : Nat) : (s.nextInstr k).clock = s.clock := rfl
@[simp] theorem State.nextInstr_blocks (s : State) (k : Nat) : (s.nextInstr k).blocks = s.blocks := rfl
@[simp] theorem State.nextInstr_cores (s : State) (k : Nat) : (s.nextInstr k).cores = s.cores := rfl
@[simp] theorem State.nextInstr_mem (s : State) (k : Nat) : (s.nextInstr k).mem = s.mem := rfl
@[simp] theorem State.nextInstr_poison (s : State) (k : Nat) : (s.nextInstr k).poison = s.poison := rfl
@[simp] theorem State.nextInstr_l2 (s : State) (k : Nat) : (s.nextInstr k).l2 = s.l2 := rfl
@[simp] theorem State.nextInstr_watches (s : State) (k : Nat) : (s.nextInstr k).watches = s.watches := rfl
@[simp] theorem State.nextInstr_l2tlb (s : State) (k : Nat) : (s.nextInstr k).l2tlb = s.l2tlb := rfl
@[simp] theorem State.nextInstr_walks (s : State) (k : Nat) : (s.nextInstr k).walks = s.walks := rfl
@[simp] theorem State.nextInstr_epochs (s : State) (k : Nat) : (s.nextInstr k).epochs = s.epochs := rfl
@[simp] theorem State.nextInstr_inval (s : State) (k : Nat) : (s.nextInstr k).inval = s.inval := rfl
@[simp] theorem State.nextInstr_handles (s : State) (k : Nat) : (s.nextInstr k).handles = s.handles := rfl
@[simp] theorem State.nextInstr_ctxs (s : State) (k : Nat) : (s.nextInstr k).ctxs = s.ctxs := rfl
@[simp] theorem State.nextInstr_exports (s : State) (k : Nat) : (s.nextInstr k).exports = s.exports := rfl
@[simp] theorem State.nextInstr_grids (s : State) (k : Nat) : (s.nextInstr k).grids = s.grids := rfl
@[simp] theorem State.nextInstr_saved (s : State) (k : Nat) : (s.nextInstr k).saved = s.saved := rfl
@[simp] theorem State.nextInstr_entries (s : State) (k : Nat) : (s.nextInstr k).entries = s.entries := rfl
@[simp] theorem State.nextInstr_ops (s : State) (k : Nat) : (s.nextInstr k).ops = s.ops := rfl
@[simp] theorem State.nextInstr_fab (s : State) (k : Nat) : (s.nextInstr k).fab = s.fab := rfl
@[simp] theorem State.nextInstr_tt (s : State) (k : Nat) : (s.nextInstr k).tt = s.tt := rfl
@[simp] theorem State.nextInstr_duc (s : State) (k : Nat) : (s.nextInstr k).duc = s.duc := rfl
@[simp] theorem State.nextInstr_ctl (s : State) (k : Nat) : (s.nextInstr k).ctl = s.ctl := rfl
@[simp] theorem State.nextInstr_nextId (s : State) (k : Nat) : (s.nextInstr k).nextId = s.nextId := rfl
@[simp] theorem State.nextInstr_free (s : State) (k : Nat) : (s.nextInstr k).free = s.free := rfl
@[simp] theorem State.nextInstr_agenda (s : State) (k : Nat) : (s.nextInstr k).agenda = s.agenda := rfl
@[simp] theorem State.nextInstr_cur (s : State) (k : Nat) : (s.nextInstr k).cur = s.cur := rfl
@[simp] theorem State.nextInstr_iss (s : State) (k : Nat) : (s.nextInstr k).iss = s.iss := rfl

/-! ### State.raiseFloor -/

@[simp] theorem State.raiseFloor_clock (s : State) (k : Nat) : (s.raiseFloor k).clock = s.clock := rfl
@[simp] theorem State.raiseFloor_blocks (s : State) (k : Nat) : (s.raiseFloor k).blocks = s.blocks := rfl
@[simp] theorem State.raiseFloor_cores (s : State) (k : Nat) : (s.raiseFloor k).cores = s.cores := rfl
@[simp] theorem State.raiseFloor_mem (s : State) (k : Nat) : (s.raiseFloor k).mem = s.mem := rfl
@[simp] theorem State.raiseFloor_poison (s : State) (k : Nat) : (s.raiseFloor k).poison = s.poison := rfl
@[simp] theorem State.raiseFloor_l2 (s : State) (k : Nat) : (s.raiseFloor k).l2 = s.l2 := rfl
@[simp] theorem State.raiseFloor_watches (s : State) (k : Nat) : (s.raiseFloor k).watches = s.watches := rfl
@[simp] theorem State.raiseFloor_l2tlb (s : State) (k : Nat) : (s.raiseFloor k).l2tlb = s.l2tlb := rfl
@[simp] theorem State.raiseFloor_walks (s : State) (k : Nat) : (s.raiseFloor k).walks = s.walks := rfl
@[simp] theorem State.raiseFloor_epochs (s : State) (k : Nat) : (s.raiseFloor k).epochs = s.epochs := rfl
@[simp] theorem State.raiseFloor_inval (s : State) (k : Nat) : (s.raiseFloor k).inval = s.inval := rfl
@[simp] theorem State.raiseFloor_handles (s : State) (k : Nat) : (s.raiseFloor k).handles = s.handles := rfl
@[simp] theorem State.raiseFloor_ctxs (s : State) (k : Nat) : (s.raiseFloor k).ctxs = s.ctxs := rfl
@[simp] theorem State.raiseFloor_exports (s : State) (k : Nat) : (s.raiseFloor k).exports = s.exports := rfl
@[simp] theorem State.raiseFloor_grids (s : State) (k : Nat) : (s.raiseFloor k).grids = s.grids := rfl
@[simp] theorem State.raiseFloor_saved (s : State) (k : Nat) : (s.raiseFloor k).saved = s.saved := rfl
@[simp] theorem State.raiseFloor_entries (s : State) (k : Nat) : (s.raiseFloor k).entries = s.entries := rfl
@[simp] theorem State.raiseFloor_ops (s : State) (k : Nat) : (s.raiseFloor k).ops = s.ops := rfl
@[simp] theorem State.raiseFloor_fab (s : State) (k : Nat) : (s.raiseFloor k).fab = s.fab := rfl
@[simp] theorem State.raiseFloor_tt (s : State) (k : Nat) : (s.raiseFloor k).tt = s.tt := rfl
@[simp] theorem State.raiseFloor_duc (s : State) (k : Nat) : (s.raiseFloor k).duc = s.duc := rfl
@[simp] theorem State.raiseFloor_ctl (s : State) (k : Nat) : (s.raiseFloor k).ctl = s.ctl := rfl
@[simp] theorem State.raiseFloor_nextId (s : State) (k : Nat) : (s.raiseFloor k).nextId = s.nextId := rfl
@[simp] theorem State.raiseFloor_free (s : State) (k : Nat) : (s.raiseFloor k).free = s.free := rfl
@[simp] theorem State.raiseFloor_agenda (s : State) (k : Nat) : (s.raiseFloor k).agenda = s.agenda := rfl
@[simp] theorem State.raiseFloor_cur (s : State) (k : Nat) : (s.raiseFloor k).cur = s.cur := rfl
@[simp] theorem State.raiseFloor_iss (s : State) (k : Nat) : (s.raiseFloor k).iss = s.iss := rfl

/-! ### Group.setLane -/

@[simp] theorem Group.setLane_resident (g : Group) (l : Nat) (x : Lane) : (g.setLane l x).resident = g.resident := rfl
@[simp] theorem Group.setLane_block (g : Group) (l : Nat) (x : Lane) : (g.setLane l x).block = g.block := rfl
@[simp] theorem Group.setLane_gid (g : Group) (l : Nat) (x : Lane) : (g.setLane l x).gid = g.gid := rfl
@[simp] theorem Group.setLane_lanes (g : Group) (l : Nat) (x : Lane) : (g.setLane l x).lanes = setKey Lane.empty g.lanes l x := rfl
@[simp] theorem Group.setLane_v (g : Group) (l : Nat) (x : Lane) : (g.setLane l x).v = g.v := rfl
@[simp] theorem Group.setLane_s (g : Group) (l : Nat) (x : Lane) : (g.setLane l x).s = g.s := rfl
@[simp] theorem Group.setLane_m (g : Group) (l : Nat) (x : Lane) : (g.setLane l x).m = g.m := rfl
@[simp] theorem Group.setLane_mode (g : Group) (l : Nat) (x : Lane) : (g.setLane l x).mode = g.mode := rfl
@[simp] theorem Group.setLane_merr (g : Group) (l : Nat) (x : Lane) : (g.setLane l x).merr = g.merr := rfl
@[simp] theorem Group.setLane_trec (g : Group) (l : Nat) (x : Lane) : (g.setLane l x).trec = g.trec := rfl
@[simp] theorem Group.setLane_hf0 (g : Group) (l : Nat) (x : Lane) : (g.setLane l x).hf0 = g.hf0 := rfl
@[simp] theorem Group.setLane_hf1 (g : Group) (l : Nat) (x : Lane) : (g.setLane l x).hf1 = g.hf1 := rfl
@[simp] theorem Group.setLane_handler (g : Group) (l : Nat) (x : Lane) : (g.setLane l x).handler = g.handler := rfl
@[simp] theorem Group.setLane_seen (g : Group) (l : Nat) (x : Lane) : (g.setLane l x).seen = g.seen := rfl
@[simp] theorem Group.setLane_allow (g : Group) (l : Nat) (x : Lane) : (g.setLane l x).allow = g.allow := rfl
@[simp] theorem Group.setLane_prod (g : Group) (l : Nat) (x : Lane) : (g.setLane l x).prod = g.prod := rfl
@[simp] theorem Group.setLane_erq (g : Group) (l : Nat) (x : Lane) : (g.setLane l x).erq = g.erq := rfl
@[simp] theorem Group.setLane_mon (g : Group) (l : Nat) (x : Lane) : (g.setLane l x).mon = g.mon := rfl
@[simp] theorem Group.setLane_monEntry (g : Group) (l : Nat) (x : Lane) : (g.setLane l x).monEntry = g.monEntry := rfl
@[simp] theorem Group.setLane_monTag (g : Group) (l : Nat) (x : Lane) : (g.setLane l x).monTag = g.monTag := rfl
@[simp] theorem Group.setLane_monPos (g : Group) (l : Nat) (x : Lane) : (g.setLane l x).monPos = g.monPos := rfl
@[simp] theorem Group.setLane_floor (g : Group) (l : Nat) (x : Lane) : (g.setLane l x).floor = g.floor := rfl
@[simp] theorem Group.setLane_paths (g : Group) (l : Nat) (x : Lane) : (g.setLane l x).paths = g.paths := rfl
@[simp] theorem Group.setLane_flush (g : Group) (l : Nat) (x : Lane) : (g.setLane l x).flush = g.flush := rfl
@[simp] theorem Group.setLane_async (g : Group) (l : Nat) (x : Lane) : (g.setLane l x).async = g.async := rfl
@[simp] theorem Group.setLane_sync (g : Group) (l : Nat) (x : Lane) : (g.setLane l x).sync = g.sync := rfl
@[simp] theorem Group.setLane_preempt (g : Group) (l : Nat) (x : Lane) : (g.setLane l x).preempt = g.preempt := rfl
@[simp] theorem Group.setLane_waiting (g : Group) (l : Nat) (x : Lane) : (g.setLane l x).waiting = g.waiting := rfl
@[simp] theorem Group.setLane_arrived (g : Group) (l : Nat) (x : Lane) : (g.setLane l x).arrived = g.arrived := rfl
@[simp] theorem Group.setLane_replay (g : Group) (l : Nat) (x : Lane) : (g.setLane l x).replay = g.replay := rfl
@[simp] theorem Group.setLane_walked (g : Group) (l : Nat) (x : Lane) : (g.setLane l x).walked = g.walked := rfl
@[simp] theorem Group.setLane_probed (g : Group) (l : Nat) (x : Lane) : (g.setLane l x).probed = g.probed := rfl
@[simp] theorem Group.setLane_dlyUntil (g : Group) (l : Nat) (x : Lane) : (g.setLane l x).dlyUntil = g.dlyUntil := rfl
@[simp] theorem Group.setLane_hazards (g : Group) (l : Nat) (x : Lane) : (g.setLane l x).hazards = g.hazards := rfl
@[simp] theorem Group.setLane_results (g : Group) (l : Nat) (x : Lane) : (g.setLane l x).results = g.results := rfl
@[simp] theorem Group.setLane_port2 (g : Group) (l : Nat) (x : Lane) : (g.setLane l x).port2 = g.port2 := rfl
@[simp] theorem Group.setLane_nextSeq (g : Group) (l : Nat) (x : Lane) : (g.setLane l x).nextSeq = g.nextSeq := rfl
@[simp] theorem Group.setLane_bad (g : Group) (l : Nat) (x : Lane) : (g.setLane l x).bad = g.bad := rfl
@[simp] theorem Group.setLane_ended (g : Group) (l : Nat) (x : Lane) : (g.setLane l x).ended = g.ended := rfl
@[simp] theorem Group.setLane_stopped (g : Group) (l : Nat) (x : Lane) : (g.setLane l x).stopped = g.stopped := rfl
@[simp] theorem Group.setLane_owes (g : Group) (l : Nat) (x : Lane) : (g.setLane l x).owes = g.owes := rfl
@[simp] theorem Group.setLane_stuck (g : Group) (l : Nat) (x : Lane) : (g.setLane l x).stuck = g.stuck := rfl
@[simp] theorem Group.setLane_rel (g : Group) (l : Nat) (x : Lane) : (g.setLane l x).rel = g.rel := rfl
@[simp] theorem Group.setLane_soLast (g : Group) (l : Nat) (x : Lane) : (g.setLane l x).soLast = g.soLast := rfl

/-! ### Group.setVreg -/

@[simp] theorem Group.setVreg_resident (g : Group) (r l : Nat) (x : Word) : (g.setVreg r l x).resident = g.resident := rfl
@[simp] theorem Group.setVreg_block (g : Group) (r l : Nat) (x : Word) : (g.setVreg r l x).block = g.block := rfl
@[simp] theorem Group.setVreg_gid (g : Group) (r l : Nat) (x : Word) : (g.setVreg r l x).gid = g.gid := rfl
@[simp] theorem Group.setVreg_lanes (g : Group) (r l : Nat) (x : Word) : (g.setVreg r l x).lanes = g.lanes := rfl
@[simp] theorem Group.setVreg_v (g : Group) (r l : Nat) (x : Word) : (g.setVreg r l x).v = setKey 0 g.v (r * laneCount + l) x := rfl
@[simp] theorem Group.setVreg_s (g : Group) (r l : Nat) (x : Word) : (g.setVreg r l x).s = g.s := rfl
@[simp] theorem Group.setVreg_m (g : Group) (r l : Nat) (x : Word) : (g.setVreg r l x).m = g.m := rfl
@[simp] theorem Group.setVreg_mode (g : Group) (r l : Nat) (x : Word) : (g.setVreg r l x).mode = g.mode := rfl
@[simp] theorem Group.setVreg_merr (g : Group) (r l : Nat) (x : Word) : (g.setVreg r l x).merr = g.merr := rfl
@[simp] theorem Group.setVreg_trec (g : Group) (r l : Nat) (x : Word) : (g.setVreg r l x).trec = g.trec := rfl
@[simp] theorem Group.setVreg_hf0 (g : Group) (r l : Nat) (x : Word) : (g.setVreg r l x).hf0 = g.hf0 := rfl
@[simp] theorem Group.setVreg_hf1 (g : Group) (r l : Nat) (x : Word) : (g.setVreg r l x).hf1 = g.hf1 := rfl
@[simp] theorem Group.setVreg_handler (g : Group) (r l : Nat) (x : Word) : (g.setVreg r l x).handler = g.handler := rfl
@[simp] theorem Group.setVreg_seen (g : Group) (r l : Nat) (x : Word) : (g.setVreg r l x).seen = g.seen := rfl
@[simp] theorem Group.setVreg_allow (g : Group) (r l : Nat) (x : Word) : (g.setVreg r l x).allow = g.allow := rfl
@[simp] theorem Group.setVreg_prod (g : Group) (r l : Nat) (x : Word) : (g.setVreg r l x).prod = g.prod := rfl
@[simp] theorem Group.setVreg_erq (g : Group) (r l : Nat) (x : Word) : (g.setVreg r l x).erq = g.erq := rfl
@[simp] theorem Group.setVreg_mon (g : Group) (r l : Nat) (x : Word) : (g.setVreg r l x).mon = g.mon := rfl
@[simp] theorem Group.setVreg_monEntry (g : Group) (r l : Nat) (x : Word) : (g.setVreg r l x).monEntry = g.monEntry := rfl
@[simp] theorem Group.setVreg_monTag (g : Group) (r l : Nat) (x : Word) : (g.setVreg r l x).monTag = g.monTag := rfl
@[simp] theorem Group.setVreg_monPos (g : Group) (r l : Nat) (x : Word) : (g.setVreg r l x).monPos = g.monPos := rfl
@[simp] theorem Group.setVreg_floor (g : Group) (r l : Nat) (x : Word) : (g.setVreg r l x).floor = g.floor := rfl
@[simp] theorem Group.setVreg_paths (g : Group) (r l : Nat) (x : Word) : (g.setVreg r l x).paths = g.paths := rfl
@[simp] theorem Group.setVreg_flush (g : Group) (r l : Nat) (x : Word) : (g.setVreg r l x).flush = g.flush := rfl
@[simp] theorem Group.setVreg_async (g : Group) (r l : Nat) (x : Word) : (g.setVreg r l x).async = g.async := rfl
@[simp] theorem Group.setVreg_sync (g : Group) (r l : Nat) (x : Word) : (g.setVreg r l x).sync = g.sync := rfl
@[simp] theorem Group.setVreg_preempt (g : Group) (r l : Nat) (x : Word) : (g.setVreg r l x).preempt = g.preempt := rfl
@[simp] theorem Group.setVreg_waiting (g : Group) (r l : Nat) (x : Word) : (g.setVreg r l x).waiting = g.waiting := rfl
@[simp] theorem Group.setVreg_arrived (g : Group) (r l : Nat) (x : Word) : (g.setVreg r l x).arrived = g.arrived := rfl
@[simp] theorem Group.setVreg_replay (g : Group) (r l : Nat) (x : Word) : (g.setVreg r l x).replay = g.replay := rfl
@[simp] theorem Group.setVreg_walked (g : Group) (r l : Nat) (x : Word) : (g.setVreg r l x).walked = g.walked := rfl
@[simp] theorem Group.setVreg_probed (g : Group) (r l : Nat) (x : Word) : (g.setVreg r l x).probed = g.probed := rfl
@[simp] theorem Group.setVreg_dlyUntil (g : Group) (r l : Nat) (x : Word) : (g.setVreg r l x).dlyUntil = g.dlyUntil := rfl
@[simp] theorem Group.setVreg_hazards (g : Group) (r l : Nat) (x : Word) : (g.setVreg r l x).hazards = g.hazards := rfl
@[simp] theorem Group.setVreg_results (g : Group) (r l : Nat) (x : Word) : (g.setVreg r l x).results = g.results := rfl
@[simp] theorem Group.setVreg_port2 (g : Group) (r l : Nat) (x : Word) : (g.setVreg r l x).port2 = g.port2 := rfl
@[simp] theorem Group.setVreg_nextSeq (g : Group) (r l : Nat) (x : Word) : (g.setVreg r l x).nextSeq = g.nextSeq := rfl
@[simp] theorem Group.setVreg_bad (g : Group) (r l : Nat) (x : Word) : (g.setVreg r l x).bad = g.bad := rfl
@[simp] theorem Group.setVreg_ended (g : Group) (r l : Nat) (x : Word) : (g.setVreg r l x).ended = g.ended := rfl
@[simp] theorem Group.setVreg_stopped (g : Group) (r l : Nat) (x : Word) : (g.setVreg r l x).stopped = g.stopped := rfl
@[simp] theorem Group.setVreg_owes (g : Group) (r l : Nat) (x : Word) : (g.setVreg r l x).owes = g.owes := rfl
@[simp] theorem Group.setVreg_stuck (g : Group) (r l : Nat) (x : Word) : (g.setVreg r l x).stuck = g.stuck := rfl
@[simp] theorem Group.setVreg_rel (g : Group) (r l : Nat) (x : Word) : (g.setVreg r l x).rel = g.rel := rfl
@[simp] theorem Group.setVreg_soLast (g : Group) (r l : Nat) (x : Word) : (g.setVreg r l x).soLast = g.soLast := rfl

/-! ### Group.setMreg -/

@[simp] theorem Group.setMreg_resident (g : Group) (n : Nat) (x : DWord) : (g.setMreg n x).resident = g.resident := rfl
@[simp] theorem Group.setMreg_block (g : Group) (n : Nat) (x : DWord) : (g.setMreg n x).block = g.block := rfl
@[simp] theorem Group.setMreg_gid (g : Group) (n : Nat) (x : DWord) : (g.setMreg n x).gid = g.gid := rfl
@[simp] theorem Group.setMreg_lanes (g : Group) (n : Nat) (x : DWord) : (g.setMreg n x).lanes = g.lanes := rfl
@[simp] theorem Group.setMreg_v (g : Group) (n : Nat) (x : DWord) : (g.setMreg n x).v = g.v := rfl
@[simp] theorem Group.setMreg_s (g : Group) (n : Nat) (x : DWord) : (g.setMreg n x).s = g.s := rfl
@[simp] theorem Group.setMreg_m (g : Group) (n : Nat) (x : DWord) : (g.setMreg n x).m = setKey 0 g.m n x := rfl
@[simp] theorem Group.setMreg_mode (g : Group) (n : Nat) (x : DWord) : (g.setMreg n x).mode = g.mode := rfl
@[simp] theorem Group.setMreg_merr (g : Group) (n : Nat) (x : DWord) : (g.setMreg n x).merr = g.merr := rfl
@[simp] theorem Group.setMreg_trec (g : Group) (n : Nat) (x : DWord) : (g.setMreg n x).trec = g.trec := rfl
@[simp] theorem Group.setMreg_hf0 (g : Group) (n : Nat) (x : DWord) : (g.setMreg n x).hf0 = g.hf0 := rfl
@[simp] theorem Group.setMreg_hf1 (g : Group) (n : Nat) (x : DWord) : (g.setMreg n x).hf1 = g.hf1 := rfl
@[simp] theorem Group.setMreg_handler (g : Group) (n : Nat) (x : DWord) : (g.setMreg n x).handler = g.handler := rfl
@[simp] theorem Group.setMreg_seen (g : Group) (n : Nat) (x : DWord) : (g.setMreg n x).seen = g.seen := rfl
@[simp] theorem Group.setMreg_allow (g : Group) (n : Nat) (x : DWord) : (g.setMreg n x).allow = g.allow := rfl
@[simp] theorem Group.setMreg_prod (g : Group) (n : Nat) (x : DWord) : (g.setMreg n x).prod = g.prod := rfl
@[simp] theorem Group.setMreg_erq (g : Group) (n : Nat) (x : DWord) : (g.setMreg n x).erq = g.erq := rfl
@[simp] theorem Group.setMreg_mon (g : Group) (n : Nat) (x : DWord) : (g.setMreg n x).mon = g.mon := rfl
@[simp] theorem Group.setMreg_monEntry (g : Group) (n : Nat) (x : DWord) : (g.setMreg n x).monEntry = g.monEntry := rfl
@[simp] theorem Group.setMreg_monTag (g : Group) (n : Nat) (x : DWord) : (g.setMreg n x).monTag = g.monTag := rfl
@[simp] theorem Group.setMreg_monPos (g : Group) (n : Nat) (x : DWord) : (g.setMreg n x).monPos = g.monPos := rfl
@[simp] theorem Group.setMreg_floor (g : Group) (n : Nat) (x : DWord) : (g.setMreg n x).floor = g.floor := rfl
@[simp] theorem Group.setMreg_paths (g : Group) (n : Nat) (x : DWord) : (g.setMreg n x).paths = g.paths := rfl
@[simp] theorem Group.setMreg_flush (g : Group) (n : Nat) (x : DWord) : (g.setMreg n x).flush = g.flush := rfl
@[simp] theorem Group.setMreg_async (g : Group) (n : Nat) (x : DWord) : (g.setMreg n x).async = g.async := rfl
@[simp] theorem Group.setMreg_sync (g : Group) (n : Nat) (x : DWord) : (g.setMreg n x).sync = g.sync := rfl
@[simp] theorem Group.setMreg_preempt (g : Group) (n : Nat) (x : DWord) : (g.setMreg n x).preempt = g.preempt := rfl
@[simp] theorem Group.setMreg_waiting (g : Group) (n : Nat) (x : DWord) : (g.setMreg n x).waiting = g.waiting := rfl
@[simp] theorem Group.setMreg_arrived (g : Group) (n : Nat) (x : DWord) : (g.setMreg n x).arrived = g.arrived := rfl
@[simp] theorem Group.setMreg_replay (g : Group) (n : Nat) (x : DWord) : (g.setMreg n x).replay = g.replay := rfl
@[simp] theorem Group.setMreg_walked (g : Group) (n : Nat) (x : DWord) : (g.setMreg n x).walked = g.walked := rfl
@[simp] theorem Group.setMreg_probed (g : Group) (n : Nat) (x : DWord) : (g.setMreg n x).probed = g.probed := rfl
@[simp] theorem Group.setMreg_dlyUntil (g : Group) (n : Nat) (x : DWord) : (g.setMreg n x).dlyUntil = g.dlyUntil := rfl
@[simp] theorem Group.setMreg_hazards (g : Group) (n : Nat) (x : DWord) : (g.setMreg n x).hazards = g.hazards := rfl
@[simp] theorem Group.setMreg_results (g : Group) (n : Nat) (x : DWord) : (g.setMreg n x).results = g.results := rfl
@[simp] theorem Group.setMreg_port2 (g : Group) (n : Nat) (x : DWord) : (g.setMreg n x).port2 = g.port2 := rfl
@[simp] theorem Group.setMreg_nextSeq (g : Group) (n : Nat) (x : DWord) : (g.setMreg n x).nextSeq = g.nextSeq := rfl
@[simp] theorem Group.setMreg_bad (g : Group) (n : Nat) (x : DWord) : (g.setMreg n x).bad = g.bad := rfl
@[simp] theorem Group.setMreg_ended (g : Group) (n : Nat) (x : DWord) : (g.setMreg n x).ended = g.ended := rfl
@[simp] theorem Group.setMreg_stopped (g : Group) (n : Nat) (x : DWord) : (g.setMreg n x).stopped = g.stopped := rfl
@[simp] theorem Group.setMreg_owes (g : Group) (n : Nat) (x : DWord) : (g.setMreg n x).owes = g.owes := rfl
@[simp] theorem Group.setMreg_stuck (g : Group) (n : Nat) (x : DWord) : (g.setMreg n x).stuck = g.stuck := rfl
@[simp] theorem Group.setMreg_rel (g : Group) (n : Nat) (x : DWord) : (g.setMreg n x).rel = g.rel := rfl
@[simp] theorem Group.setMreg_soLast (g : Group) (n : Nat) (x : DWord) : (g.setMreg n x).soLast = g.soLast := rfl

/-! ### Group.setAllowance -/

@[simp] theorem Group.setAllowance_resident (g : Group) (k n : Nat) : (g.setAllowance k n).resident = g.resident := rfl
@[simp] theorem Group.setAllowance_block (g : Group) (k n : Nat) : (g.setAllowance k n).block = g.block := rfl
@[simp] theorem Group.setAllowance_gid (g : Group) (k n : Nat) : (g.setAllowance k n).gid = g.gid := rfl
@[simp] theorem Group.setAllowance_lanes (g : Group) (k n : Nat) : (g.setAllowance k n).lanes = g.lanes := rfl
@[simp] theorem Group.setAllowance_v (g : Group) (k n : Nat) : (g.setAllowance k n).v = g.v := rfl
@[simp] theorem Group.setAllowance_s (g : Group) (k n : Nat) : (g.setAllowance k n).s = g.s := rfl
@[simp] theorem Group.setAllowance_m (g : Group) (k n : Nat) : (g.setAllowance k n).m = g.m := rfl
@[simp] theorem Group.setAllowance_mode (g : Group) (k n : Nat) : (g.setAllowance k n).mode = g.mode := rfl
@[simp] theorem Group.setAllowance_merr (g : Group) (k n : Nat) : (g.setAllowance k n).merr = g.merr := rfl
@[simp] theorem Group.setAllowance_trec (g : Group) (k n : Nat) : (g.setAllowance k n).trec = g.trec := rfl
@[simp] theorem Group.setAllowance_hf0 (g : Group) (k n : Nat) : (g.setAllowance k n).hf0 = g.hf0 := rfl
@[simp] theorem Group.setAllowance_hf1 (g : Group) (k n : Nat) : (g.setAllowance k n).hf1 = g.hf1 := rfl
@[simp] theorem Group.setAllowance_handler (g : Group) (k n : Nat) : (g.setAllowance k n).handler = g.handler := rfl
@[simp] theorem Group.setAllowance_seen (g : Group) (k n : Nat) : (g.setAllowance k n).seen = g.seen := rfl
@[simp] theorem Group.setAllowance_allow (g : Group) (k n : Nat) : (g.setAllowance k n).allow = setKey 0 g.allow k n := rfl
@[simp] theorem Group.setAllowance_prod (g : Group) (k n : Nat) : (g.setAllowance k n).prod = g.prod := rfl
@[simp] theorem Group.setAllowance_erq (g : Group) (k n : Nat) : (g.setAllowance k n).erq = g.erq := rfl
@[simp] theorem Group.setAllowance_mon (g : Group) (k n : Nat) : (g.setAllowance k n).mon = g.mon := rfl
@[simp] theorem Group.setAllowance_monEntry (g : Group) (k n : Nat) : (g.setAllowance k n).monEntry = g.monEntry := rfl
@[simp] theorem Group.setAllowance_monTag (g : Group) (k n : Nat) : (g.setAllowance k n).monTag = g.monTag := rfl
@[simp] theorem Group.setAllowance_monPos (g : Group) (k n : Nat) : (g.setAllowance k n).monPos = g.monPos := rfl
@[simp] theorem Group.setAllowance_floor (g : Group) (k n : Nat) : (g.setAllowance k n).floor = g.floor := rfl
@[simp] theorem Group.setAllowance_paths (g : Group) (k n : Nat) : (g.setAllowance k n).paths = g.paths := rfl
@[simp] theorem Group.setAllowance_flush (g : Group) (k n : Nat) : (g.setAllowance k n).flush = g.flush := rfl
@[simp] theorem Group.setAllowance_async (g : Group) (k n : Nat) : (g.setAllowance k n).async = g.async := rfl
@[simp] theorem Group.setAllowance_sync (g : Group) (k n : Nat) : (g.setAllowance k n).sync = g.sync := rfl
@[simp] theorem Group.setAllowance_preempt (g : Group) (k n : Nat) : (g.setAllowance k n).preempt = g.preempt := rfl
@[simp] theorem Group.setAllowance_waiting (g : Group) (k n : Nat) : (g.setAllowance k n).waiting = g.waiting := rfl
@[simp] theorem Group.setAllowance_arrived (g : Group) (k n : Nat) : (g.setAllowance k n).arrived = g.arrived := rfl
@[simp] theorem Group.setAllowance_replay (g : Group) (k n : Nat) : (g.setAllowance k n).replay = g.replay := rfl
@[simp] theorem Group.setAllowance_walked (g : Group) (k n : Nat) : (g.setAllowance k n).walked = g.walked := rfl
@[simp] theorem Group.setAllowance_probed (g : Group) (k n : Nat) : (g.setAllowance k n).probed = g.probed := rfl
@[simp] theorem Group.setAllowance_dlyUntil (g : Group) (k n : Nat) : (g.setAllowance k n).dlyUntil = g.dlyUntil := rfl
@[simp] theorem Group.setAllowance_hazards (g : Group) (k n : Nat) : (g.setAllowance k n).hazards = g.hazards := rfl
@[simp] theorem Group.setAllowance_results (g : Group) (k n : Nat) : (g.setAllowance k n).results = g.results := rfl
@[simp] theorem Group.setAllowance_port2 (g : Group) (k n : Nat) : (g.setAllowance k n).port2 = g.port2 := rfl
@[simp] theorem Group.setAllowance_nextSeq (g : Group) (k n : Nat) : (g.setAllowance k n).nextSeq = g.nextSeq := rfl
@[simp] theorem Group.setAllowance_bad (g : Group) (k n : Nat) : (g.setAllowance k n).bad = g.bad := rfl
@[simp] theorem Group.setAllowance_ended (g : Group) (k n : Nat) : (g.setAllowance k n).ended = g.ended := rfl
@[simp] theorem Group.setAllowance_stopped (g : Group) (k n : Nat) : (g.setAllowance k n).stopped = g.stopped := rfl
@[simp] theorem Group.setAllowance_owes (g : Group) (k n : Nat) : (g.setAllowance k n).owes = g.owes := rfl
@[simp] theorem Group.setAllowance_stuck (g : Group) (k n : Nat) : (g.setAllowance k n).stuck = g.stuck := rfl
@[simp] theorem Group.setAllowance_rel (g : Group) (k n : Nat) : (g.setAllowance k n).rel = g.rel := rfl
@[simp] theorem Group.setAllowance_soLast (g : Group) (k n : Nat) : (g.setAllowance k n).soLast = g.soLast := rfl

/-! ### Group.setMerr -/

@[simp] theorem Group.setMerr_resident (g : Group) (x : DWord) : (g.setMerr x).resident = g.resident := rfl
@[simp] theorem Group.setMerr_block (g : Group) (x : DWord) : (g.setMerr x).block = g.block := rfl
@[simp] theorem Group.setMerr_gid (g : Group) (x : DWord) : (g.setMerr x).gid = g.gid := rfl
@[simp] theorem Group.setMerr_lanes (g : Group) (x : DWord) : (g.setMerr x).lanes = g.lanes := rfl
@[simp] theorem Group.setMerr_v (g : Group) (x : DWord) : (g.setMerr x).v = g.v := rfl
@[simp] theorem Group.setMerr_s (g : Group) (x : DWord) : (g.setMerr x).s = g.s := rfl
@[simp] theorem Group.setMerr_m (g : Group) (x : DWord) : (g.setMerr x).m = g.m := rfl
@[simp] theorem Group.setMerr_mode (g : Group) (x : DWord) : (g.setMerr x).mode = g.mode := rfl
@[simp] theorem Group.setMerr_trec (g : Group) (x : DWord) : (g.setMerr x).trec = g.trec := rfl
@[simp] theorem Group.setMerr_hf0 (g : Group) (x : DWord) : (g.setMerr x).hf0 = g.hf0 := rfl
@[simp] theorem Group.setMerr_hf1 (g : Group) (x : DWord) : (g.setMerr x).hf1 = g.hf1 := rfl
@[simp] theorem Group.setMerr_handler (g : Group) (x : DWord) : (g.setMerr x).handler = g.handler := rfl
@[simp] theorem Group.setMerr_seen (g : Group) (x : DWord) : (g.setMerr x).seen = g.seen := rfl
@[simp] theorem Group.setMerr_allow (g : Group) (x : DWord) : (g.setMerr x).allow = g.allow := rfl
@[simp] theorem Group.setMerr_prod (g : Group) (x : DWord) : (g.setMerr x).prod = g.prod := rfl
@[simp] theorem Group.setMerr_erq (g : Group) (x : DWord) : (g.setMerr x).erq = g.erq := rfl
@[simp] theorem Group.setMerr_mon (g : Group) (x : DWord) : (g.setMerr x).mon = g.mon := rfl
@[simp] theorem Group.setMerr_monEntry (g : Group) (x : DWord) : (g.setMerr x).monEntry = g.monEntry := rfl
@[simp] theorem Group.setMerr_monTag (g : Group) (x : DWord) : (g.setMerr x).monTag = g.monTag := rfl
@[simp] theorem Group.setMerr_monPos (g : Group) (x : DWord) : (g.setMerr x).monPos = g.monPos := rfl
@[simp] theorem Group.setMerr_floor (g : Group) (x : DWord) : (g.setMerr x).floor = g.floor := rfl
@[simp] theorem Group.setMerr_paths (g : Group) (x : DWord) : (g.setMerr x).paths = g.paths := rfl
@[simp] theorem Group.setMerr_flush (g : Group) (x : DWord) : (g.setMerr x).flush = g.flush := rfl
@[simp] theorem Group.setMerr_async (g : Group) (x : DWord) : (g.setMerr x).async = g.async := rfl
@[simp] theorem Group.setMerr_sync (g : Group) (x : DWord) : (g.setMerr x).sync = g.sync := rfl
@[simp] theorem Group.setMerr_preempt (g : Group) (x : DWord) : (g.setMerr x).preempt = g.preempt := rfl
@[simp] theorem Group.setMerr_waiting (g : Group) (x : DWord) : (g.setMerr x).waiting = g.waiting := rfl
@[simp] theorem Group.setMerr_arrived (g : Group) (x : DWord) : (g.setMerr x).arrived = g.arrived := rfl
@[simp] theorem Group.setMerr_replay (g : Group) (x : DWord) : (g.setMerr x).replay = g.replay := rfl
@[simp] theorem Group.setMerr_walked (g : Group) (x : DWord) : (g.setMerr x).walked = g.walked := rfl
@[simp] theorem Group.setMerr_probed (g : Group) (x : DWord) : (g.setMerr x).probed = g.probed := rfl
@[simp] theorem Group.setMerr_dlyUntil (g : Group) (x : DWord) : (g.setMerr x).dlyUntil = g.dlyUntil := rfl
@[simp] theorem Group.setMerr_hazards (g : Group) (x : DWord) : (g.setMerr x).hazards = g.hazards := rfl
@[simp] theorem Group.setMerr_results (g : Group) (x : DWord) : (g.setMerr x).results = g.results := rfl
@[simp] theorem Group.setMerr_port2 (g : Group) (x : DWord) : (g.setMerr x).port2 = g.port2 := rfl
@[simp] theorem Group.setMerr_nextSeq (g : Group) (x : DWord) : (g.setMerr x).nextSeq = g.nextSeq := rfl
@[simp] theorem Group.setMerr_bad (g : Group) (x : DWord) : (g.setMerr x).bad = g.bad := rfl
@[simp] theorem Group.setMerr_ended (g : Group) (x : DWord) : (g.setMerr x).ended = g.ended := rfl
@[simp] theorem Group.setMerr_stopped (g : Group) (x : DWord) : (g.setMerr x).stopped = g.stopped := rfl
@[simp] theorem Group.setMerr_owes (g : Group) (x : DWord) : (g.setMerr x).owes = g.owes := rfl
@[simp] theorem Group.setMerr_stuck (g : Group) (x : DWord) : (g.setMerr x).stuck = g.stuck := rfl
@[simp] theorem Group.setMerr_rel (g : Group) (x : DWord) : (g.setMerr x).rel = g.rel := rfl
@[simp] theorem Group.setMerr_soLast (g : Group) (x : DWord) : (g.setMerr x).soLast = g.soLast := rfl

/-! ### Block.setChan -/

@[simp] theorem Block.setChan_resident (b : Block) (k : Nat) (c : ChDesc) : (b.setChan k c).resident = b.resident := rfl
@[simp] theorem Block.setChan_ctx (b : Block) (k : Nat) (c : ChDesc) : (b.setChan k c).ctx = b.ctx := rfl
@[simp] theorem Block.setChan_grid (b : Block) (k : Nat) (c : ChDesc) : (b.setChan k c).grid = b.grid := rfl
@[simp] theorem Block.setChan_blockId (b : Block) (k : Nat) (c : ChDesc) : (b.setChan k c).blockId = b.blockId := rfl
@[simp] theorem Block.setChan_groups (b : Block) (k : Nat) (c : ChDesc) : (b.setChan k c).groups = b.groups := rfl
@[simp] theorem Block.setChan_regs (b : Block) (k : Nat) (c : ChDesc) : (b.setChan k c).regs = b.regs := rfl
@[simp] theorem Block.setChan_scr (b : Block) (k : Nat) (c : ChDesc) : (b.setChan k c).scr = b.scr := rfl
@[simp] theorem Block.setChan_obg (b : Block) (k : Nat) (c : ChDesc) : (b.setChan k c).obg = b.obg := rfl
@[simp] theorem Block.setChan_gsz (b : Block) (k : Nat) (c : ChDesc) : (b.setChan k c).gsz = b.gsz := rfl
@[simp] theorem Block.setChan_gangIdx (b : Block) (k : Nat) (c : ChDesc) : (b.setChan k c).gangIdx = b.gangIdx := rfl
@[simp] theorem Block.setChan_members (b : Block) (k : Nat) (c : ChDesc) : (b.setChan k c).members = b.members := rfl
@[simp] theorem Block.setChan_departed (b : Block) (k : Nat) (c : ChDesc) : (b.setChan k c).departed = b.departed := rfl
@[simp] theorem Block.setChan_acks (b : Block) (k : Nat) (c : ChDesc) : (b.setChan k c).acks = b.acks := rfl
@[simp] theorem Block.setChan_frozen (b : Block) (k : Nat) (c : ChDesc) : (b.setChan k c).frozen = b.frozen := rfl
@[simp] theorem Block.setChan_restoring (b : Block) (k : Nat) (c : ChDesc) : (b.setChan k c).restoring = b.restoring := rfl
@[simp] theorem Block.setChan_preempting (b : Block) (k : Nat) (c : ChDesc) : (b.setChan k c).preempting = b.preempting := rfl
@[simp] theorem Block.setChan_fresh (b : Block) (k : Nat) (c : ChDesc) : (b.setChan k c).fresh = b.fresh := rfl
@[simp] theorem Block.setChan_tStart (b : Block) (k : Nat) (c : ChDesc) : (b.setChan k c).tStart = b.tStart := rfl
@[simp] theorem Block.setChan_started (b : Block) (k : Nat) (c : ChDesc) : (b.setChan k c).started = b.started := rfl
@[simp] theorem Block.setChan_held (b : Block) (k : Nat) (c : ChDesc) : (b.setChan k c).held = b.held := rfl
@[simp] theorem Block.setChan_shrunk (b : Block) (k : Nat) (c : ChDesc) : (b.setChan k c).shrunk = b.shrunk := rfl
@[simp] theorem Block.setChan_reported (b : Block) (k : Nat) (c : ChDesc) : (b.setChan k c).reported = b.reported := rfl
@[simp] theorem Block.setChan_finished (b : Block) (k : Nat) (c : ChDesc) : (b.setChan k c).finished = b.finished := rfl
@[simp] theorem Block.setChan_killed (b : Block) (k : Nat) (c : ChDesc) : (b.setChan k c).killed = b.killed := rfl
@[simp] theorem Block.setChan_spadBad (b : Block) (k : Nat) (c : ChDesc) : (b.setChan k c).spadBad = b.spadBad := rfl
@[simp] theorem Block.setChan_ob (b : Block) (k : Nat) (c : ChDesc) : (b.setChan k c).ob = b.ob := rfl
@[simp] theorem Block.setChan_obBad (b : Block) (k : Nat) (c : ChDesc) : (b.setChan k c).obBad = b.obBad := rfl
@[simp] theorem Block.setChan_handles (b : Block) (k : Nat) (c : ChDesc) : (b.setChan k c).handles = b.handles := rfl
@[simp] theorem Block.setChan_pushers (b : Block) (k : Nat) (c : ChDesc) : (b.setChan k c).pushers = b.pushers := rfl
@[simp] theorem Block.setChan_watches (b : Block) (k : Nat) (c : ChDesc) : (b.setChan k c).watches = b.watches := rfl

/-! ### Block.writeSpad -/

@[simp] theorem Block.writeSpad_resident (b : Block) (o : Nat) (bs : List Byte) (bad : Bool) : (b.writeSpad o bs bad).resident = b.resident := rfl
@[simp] theorem Block.writeSpad_ctx (b : Block) (o : Nat) (bs : List Byte) (bad : Bool) : (b.writeSpad o bs bad).ctx = b.ctx := rfl
@[simp] theorem Block.writeSpad_grid (b : Block) (o : Nat) (bs : List Byte) (bad : Bool) : (b.writeSpad o bs bad).grid = b.grid := rfl
@[simp] theorem Block.writeSpad_blockId (b : Block) (o : Nat) (bs : List Byte) (bad : Bool) : (b.writeSpad o bs bad).blockId = b.blockId := rfl
@[simp] theorem Block.writeSpad_groups (b : Block) (o : Nat) (bs : List Byte) (bad : Bool) : (b.writeSpad o bs bad).groups = b.groups := rfl
@[simp] theorem Block.writeSpad_regs (b : Block) (o : Nat) (bs : List Byte) (bad : Bool) : (b.writeSpad o bs bad).regs = b.regs := rfl
@[simp] theorem Block.writeSpad_scr (b : Block) (o : Nat) (bs : List Byte) (bad : Bool) : (b.writeSpad o bs bad).scr = b.scr := rfl
@[simp] theorem Block.writeSpad_obg (b : Block) (o : Nat) (bs : List Byte) (bad : Bool) : (b.writeSpad o bs bad).obg = b.obg := rfl
@[simp] theorem Block.writeSpad_gsz (b : Block) (o : Nat) (bs : List Byte) (bad : Bool) : (b.writeSpad o bs bad).gsz = b.gsz := rfl
@[simp] theorem Block.writeSpad_gangIdx (b : Block) (o : Nat) (bs : List Byte) (bad : Bool) : (b.writeSpad o bs bad).gangIdx = b.gangIdx := rfl
@[simp] theorem Block.writeSpad_members (b : Block) (o : Nat) (bs : List Byte) (bad : Bool) : (b.writeSpad o bs bad).members = b.members := rfl
@[simp] theorem Block.writeSpad_departed (b : Block) (o : Nat) (bs : List Byte) (bad : Bool) : (b.writeSpad o bs bad).departed = b.departed := rfl
@[simp] theorem Block.writeSpad_acks (b : Block) (o : Nat) (bs : List Byte) (bad : Bool) : (b.writeSpad o bs bad).acks = b.acks := rfl
@[simp] theorem Block.writeSpad_frozen (b : Block) (o : Nat) (bs : List Byte) (bad : Bool) : (b.writeSpad o bs bad).frozen = b.frozen := rfl
@[simp] theorem Block.writeSpad_restoring (b : Block) (o : Nat) (bs : List Byte) (bad : Bool) : (b.writeSpad o bs bad).restoring = b.restoring := rfl
@[simp] theorem Block.writeSpad_preempting (b : Block) (o : Nat) (bs : List Byte) (bad : Bool) : (b.writeSpad o bs bad).preempting = b.preempting := rfl
@[simp] theorem Block.writeSpad_fresh (b : Block) (o : Nat) (bs : List Byte) (bad : Bool) : (b.writeSpad o bs bad).fresh = b.fresh := rfl
@[simp] theorem Block.writeSpad_tStart (b : Block) (o : Nat) (bs : List Byte) (bad : Bool) : (b.writeSpad o bs bad).tStart = b.tStart := rfl
@[simp] theorem Block.writeSpad_started (b : Block) (o : Nat) (bs : List Byte) (bad : Bool) : (b.writeSpad o bs bad).started = b.started := rfl
@[simp] theorem Block.writeSpad_held (b : Block) (o : Nat) (bs : List Byte) (bad : Bool) : (b.writeSpad o bs bad).held = b.held := rfl
@[simp] theorem Block.writeSpad_shrunk (b : Block) (o : Nat) (bs : List Byte) (bad : Bool) : (b.writeSpad o bs bad).shrunk = b.shrunk := rfl
@[simp] theorem Block.writeSpad_reported (b : Block) (o : Nat) (bs : List Byte) (bad : Bool) : (b.writeSpad o bs bad).reported = b.reported := rfl
@[simp] theorem Block.writeSpad_finished (b : Block) (o : Nat) (bs : List Byte) (bad : Bool) : (b.writeSpad o bs bad).finished = b.finished := rfl
@[simp] theorem Block.writeSpad_killed (b : Block) (o : Nat) (bs : List Byte) (bad : Bool) : (b.writeSpad o bs bad).killed = b.killed := rfl
@[simp] theorem Block.writeSpad_spad (b : Block) (o : Nat) (bs : List Byte) (bad : Bool) : (b.writeSpad o bs bad).spad = writeBytes b.spad o (keepBits o bs) := rfl
@[simp] theorem Block.writeSpad_spadBad (b : Block) (o : Nat) (bs : List Byte) (bad : Bool) : (b.writeSpad o bs bad).spadBad = poisonAfter b.spadBad o bs.length bad := rfl
@[simp] theorem Block.writeSpad_ob (b : Block) (o : Nat) (bs : List Byte) (bad : Bool) : (b.writeSpad o bs bad).ob = b.ob := rfl
@[simp] theorem Block.writeSpad_obBad (b : Block) (o : Nat) (bs : List Byte) (bad : Bool) : (b.writeSpad o bs bad).obBad = b.obBad := rfl
@[simp] theorem Block.writeSpad_handles (b : Block) (o : Nat) (bs : List Byte) (bad : Bool) : (b.writeSpad o bs bad).handles = b.handles := rfl
@[simp] theorem Block.writeSpad_pushers (b : Block) (o : Nat) (bs : List Byte) (bad : Bool) : (b.writeSpad o bs bad).pushers = b.pushers := rfl
@[simp] theorem Block.writeSpad_watches (b : Block) (o : Nat) (bs : List Byte) (bad : Bool) : (b.writeSpad o bs bad).watches = b.watches := rfl

/-! ### Block.writeOb -/

@[simp] theorem Block.writeOb_resident (b : Block) (o : Nat) (bs : List Byte) (bad : Bool) : (b.writeOb o bs bad).resident = b.resident := rfl
@[simp] theorem Block.writeOb_ctx (b : Block) (o : Nat) (bs : List Byte) (bad : Bool) : (b.writeOb o bs bad).ctx = b.ctx := rfl
@[simp] theorem Block.writeOb_grid (b : Block) (o : Nat) (bs : List Byte) (bad : Bool) : (b.writeOb o bs bad).grid = b.grid := rfl
@[simp] theorem Block.writeOb_blockId (b : Block) (o : Nat) (bs : List Byte) (bad : Bool) : (b.writeOb o bs bad).blockId = b.blockId := rfl
@[simp] theorem Block.writeOb_groups (b : Block) (o : Nat) (bs : List Byte) (bad : Bool) : (b.writeOb o bs bad).groups = b.groups := rfl
@[simp] theorem Block.writeOb_regs (b : Block) (o : Nat) (bs : List Byte) (bad : Bool) : (b.writeOb o bs bad).regs = b.regs := rfl
@[simp] theorem Block.writeOb_scr (b : Block) (o : Nat) (bs : List Byte) (bad : Bool) : (b.writeOb o bs bad).scr = b.scr := rfl
@[simp] theorem Block.writeOb_obg (b : Block) (o : Nat) (bs : List Byte) (bad : Bool) : (b.writeOb o bs bad).obg = b.obg := rfl
@[simp] theorem Block.writeOb_gsz (b : Block) (o : Nat) (bs : List Byte) (bad : Bool) : (b.writeOb o bs bad).gsz = b.gsz := rfl
@[simp] theorem Block.writeOb_gangIdx (b : Block) (o : Nat) (bs : List Byte) (bad : Bool) : (b.writeOb o bs bad).gangIdx = b.gangIdx := rfl
@[simp] theorem Block.writeOb_members (b : Block) (o : Nat) (bs : List Byte) (bad : Bool) : (b.writeOb o bs bad).members = b.members := rfl
@[simp] theorem Block.writeOb_departed (b : Block) (o : Nat) (bs : List Byte) (bad : Bool) : (b.writeOb o bs bad).departed = b.departed := rfl
@[simp] theorem Block.writeOb_acks (b : Block) (o : Nat) (bs : List Byte) (bad : Bool) : (b.writeOb o bs bad).acks = b.acks := rfl
@[simp] theorem Block.writeOb_frozen (b : Block) (o : Nat) (bs : List Byte) (bad : Bool) : (b.writeOb o bs bad).frozen = b.frozen := rfl
@[simp] theorem Block.writeOb_restoring (b : Block) (o : Nat) (bs : List Byte) (bad : Bool) : (b.writeOb o bs bad).restoring = b.restoring := rfl
@[simp] theorem Block.writeOb_preempting (b : Block) (o : Nat) (bs : List Byte) (bad : Bool) : (b.writeOb o bs bad).preempting = b.preempting := rfl
@[simp] theorem Block.writeOb_fresh (b : Block) (o : Nat) (bs : List Byte) (bad : Bool) : (b.writeOb o bs bad).fresh = b.fresh := rfl
@[simp] theorem Block.writeOb_tStart (b : Block) (o : Nat) (bs : List Byte) (bad : Bool) : (b.writeOb o bs bad).tStart = b.tStart := rfl
@[simp] theorem Block.writeOb_started (b : Block) (o : Nat) (bs : List Byte) (bad : Bool) : (b.writeOb o bs bad).started = b.started := rfl
@[simp] theorem Block.writeOb_held (b : Block) (o : Nat) (bs : List Byte) (bad : Bool) : (b.writeOb o bs bad).held = b.held := rfl
@[simp] theorem Block.writeOb_shrunk (b : Block) (o : Nat) (bs : List Byte) (bad : Bool) : (b.writeOb o bs bad).shrunk = b.shrunk := rfl
@[simp] theorem Block.writeOb_reported (b : Block) (o : Nat) (bs : List Byte) (bad : Bool) : (b.writeOb o bs bad).reported = b.reported := rfl
@[simp] theorem Block.writeOb_finished (b : Block) (o : Nat) (bs : List Byte) (bad : Bool) : (b.writeOb o bs bad).finished = b.finished := rfl
@[simp] theorem Block.writeOb_killed (b : Block) (o : Nat) (bs : List Byte) (bad : Bool) : (b.writeOb o bs bad).killed = b.killed := rfl
@[simp] theorem Block.writeOb_spad (b : Block) (o : Nat) (bs : List Byte) (bad : Bool) : (b.writeOb o bs bad).spad = b.spad := rfl
@[simp] theorem Block.writeOb_spadBad (b : Block) (o : Nat) (bs : List Byte) (bad : Bool) : (b.writeOb o bs bad).spadBad = b.spadBad := rfl
@[simp] theorem Block.writeOb_ob (b : Block) (o : Nat) (bs : List Byte) (bad : Bool) : (b.writeOb o bs bad).ob = writeBytes b.ob o bs := rfl
@[simp] theorem Block.writeOb_obBad (b : Block) (o : Nat) (bs : List Byte) (bad : Bool) : (b.writeOb o bs bad).obBad = poisonAfter b.obBad o bs.length bad := rfl
@[simp] theorem Block.writeOb_handles (b : Block) (o : Nat) (bs : List Byte) (bad : Bool) : (b.writeOb o bs bad).handles = b.handles := rfl
@[simp] theorem Block.writeOb_pushers (b : Block) (o : Nat) (bs : List Byte) (bad : Bool) : (b.writeOb o bs bad).pushers = b.pushers := rfl
@[simp] theorem Block.writeOb_watches (b : Block) (o : Nat) (bs : List Byte) (bad : Bool) : (b.writeOb o bs bad).watches = b.watches := rfl

/-! ### Group.setSreg -/

@[simp] theorem Group.setSreg_resident (g : Group) (n : Nat) (x : DWord) : (g.setSreg n x).resident = g.resident := by unfold Group.setSreg; split <;> rfl
@[simp] theorem Group.setSreg_block (g : Group) (n : Nat) (x : DWord) : (g.setSreg n x).block = g.block := by unfold Group.setSreg; split <;> rfl
@[simp] theorem Group.setSreg_gid (g : Group) (n : Nat) (x : DWord) : (g.setSreg n x).gid = g.gid := by unfold Group.setSreg; split <;> rfl
@[simp] theorem Group.setSreg_lanes (g : Group) (n : Nat) (x : DWord) : (g.setSreg n x).lanes = g.lanes := by unfold Group.setSreg; split <;> rfl
@[simp] theorem Group.setSreg_v (g : Group) (n : Nat) (x : DWord) : (g.setSreg n x).v = g.v := by unfold Group.setSreg; split <;> rfl
@[simp] theorem Group.setSreg_m (g : Group) (n : Nat) (x : DWord) : (g.setSreg n x).m = g.m := by unfold Group.setSreg; split <;> rfl
@[simp] theorem Group.setSreg_mode (g : Group) (n : Nat) (x : DWord) : (g.setSreg n x).mode = g.mode := by unfold Group.setSreg; split <;> rfl
@[simp] theorem Group.setSreg_merr (g : Group) (n : Nat) (x : DWord) : (g.setSreg n x).merr = g.merr := by unfold Group.setSreg; split <;> rfl
@[simp] theorem Group.setSreg_trec (g : Group) (n : Nat) (x : DWord) : (g.setSreg n x).trec = g.trec := by unfold Group.setSreg; split <;> rfl
@[simp] theorem Group.setSreg_hf0 (g : Group) (n : Nat) (x : DWord) : (g.setSreg n x).hf0 = g.hf0 := by unfold Group.setSreg; split <;> rfl
@[simp] theorem Group.setSreg_hf1 (g : Group) (n : Nat) (x : DWord) : (g.setSreg n x).hf1 = g.hf1 := by unfold Group.setSreg; split <;> rfl
@[simp] theorem Group.setSreg_handler (g : Group) (n : Nat) (x : DWord) : (g.setSreg n x).handler = g.handler := by unfold Group.setSreg; split <;> rfl
@[simp] theorem Group.setSreg_seen (g : Group) (n : Nat) (x : DWord) : (g.setSreg n x).seen = g.seen := by unfold Group.setSreg; split <;> rfl
@[simp] theorem Group.setSreg_allow (g : Group) (n : Nat) (x : DWord) : (g.setSreg n x).allow = g.allow := by unfold Group.setSreg; split <;> rfl
@[simp] theorem Group.setSreg_prod (g : Group) (n : Nat) (x : DWord) : (g.setSreg n x).prod = g.prod := by unfold Group.setSreg; split <;> rfl
@[simp] theorem Group.setSreg_erq (g : Group) (n : Nat) (x : DWord) : (g.setSreg n x).erq = g.erq := by unfold Group.setSreg; split <;> rfl
@[simp] theorem Group.setSreg_mon (g : Group) (n : Nat) (x : DWord) : (g.setSreg n x).mon = g.mon := by unfold Group.setSreg; split <;> rfl
@[simp] theorem Group.setSreg_monEntry (g : Group) (n : Nat) (x : DWord) : (g.setSreg n x).monEntry = g.monEntry := by unfold Group.setSreg; split <;> rfl
@[simp] theorem Group.setSreg_monTag (g : Group) (n : Nat) (x : DWord) : (g.setSreg n x).monTag = g.monTag := by unfold Group.setSreg; split <;> rfl
@[simp] theorem Group.setSreg_monPos (g : Group) (n : Nat) (x : DWord) : (g.setSreg n x).monPos = g.monPos := by unfold Group.setSreg; split <;> rfl
@[simp] theorem Group.setSreg_floor (g : Group) (n : Nat) (x : DWord) : (g.setSreg n x).floor = g.floor := by unfold Group.setSreg; split <;> rfl
@[simp] theorem Group.setSreg_paths (g : Group) (n : Nat) (x : DWord) : (g.setSreg n x).paths = g.paths := by unfold Group.setSreg; split <;> rfl
@[simp] theorem Group.setSreg_flush (g : Group) (n : Nat) (x : DWord) : (g.setSreg n x).flush = g.flush := by unfold Group.setSreg; split <;> rfl
@[simp] theorem Group.setSreg_async (g : Group) (n : Nat) (x : DWord) : (g.setSreg n x).async = g.async := by unfold Group.setSreg; split <;> rfl
@[simp] theorem Group.setSreg_sync (g : Group) (n : Nat) (x : DWord) : (g.setSreg n x).sync = g.sync := by unfold Group.setSreg; split <;> rfl
@[simp] theorem Group.setSreg_preempt (g : Group) (n : Nat) (x : DWord) : (g.setSreg n x).preempt = g.preempt := by unfold Group.setSreg; split <;> rfl
@[simp] theorem Group.setSreg_waiting (g : Group) (n : Nat) (x : DWord) : (g.setSreg n x).waiting = g.waiting := by unfold Group.setSreg; split <;> rfl
@[simp] theorem Group.setSreg_arrived (g : Group) (n : Nat) (x : DWord) : (g.setSreg n x).arrived = g.arrived := by unfold Group.setSreg; split <;> rfl
@[simp] theorem Group.setSreg_replay (g : Group) (n : Nat) (x : DWord) : (g.setSreg n x).replay = g.replay := by unfold Group.setSreg; split <;> rfl
@[simp] theorem Group.setSreg_walked (g : Group) (n : Nat) (x : DWord) : (g.setSreg n x).walked = g.walked := by unfold Group.setSreg; split <;> rfl
@[simp] theorem Group.setSreg_probed (g : Group) (n : Nat) (x : DWord) : (g.setSreg n x).probed = g.probed := by unfold Group.setSreg; split <;> rfl
@[simp] theorem Group.setSreg_dlyUntil (g : Group) (n : Nat) (x : DWord) : (g.setSreg n x).dlyUntil = g.dlyUntil := by unfold Group.setSreg; split <;> rfl
@[simp] theorem Group.setSreg_hazards (g : Group) (n : Nat) (x : DWord) : (g.setSreg n x).hazards = g.hazards := by unfold Group.setSreg; split <;> rfl
@[simp] theorem Group.setSreg_results (g : Group) (n : Nat) (x : DWord) : (g.setSreg n x).results = g.results := by unfold Group.setSreg; split <;> rfl
@[simp] theorem Group.setSreg_port2 (g : Group) (n : Nat) (x : DWord) : (g.setSreg n x).port2 = g.port2 := by unfold Group.setSreg; split <;> rfl
@[simp] theorem Group.setSreg_nextSeq (g : Group) (n : Nat) (x : DWord) : (g.setSreg n x).nextSeq = g.nextSeq := by unfold Group.setSreg; split <;> rfl
@[simp] theorem Group.setSreg_bad (g : Group) (n : Nat) (x : DWord) : (g.setSreg n x).bad = g.bad := by unfold Group.setSreg; split <;> rfl
@[simp] theorem Group.setSreg_ended (g : Group) (n : Nat) (x : DWord) : (g.setSreg n x).ended = g.ended := by unfold Group.setSreg; split <;> rfl
@[simp] theorem Group.setSreg_stopped (g : Group) (n : Nat) (x : DWord) : (g.setSreg n x).stopped = g.stopped := by unfold Group.setSreg; split <;> rfl
@[simp] theorem Group.setSreg_owes (g : Group) (n : Nat) (x : DWord) : (g.setSreg n x).owes = g.owes := by unfold Group.setSreg; split <;> rfl
@[simp] theorem Group.setSreg_stuck (g : Group) (n : Nat) (x : DWord) : (g.setSreg n x).stuck = g.stuck := by unfold Group.setSreg; split <;> rfl
@[simp] theorem Group.setSreg_rel (g : Group) (n : Nat) (x : DWord) : (g.setSreg n x).rel = g.rel := by unfold Group.setSreg; split <;> rfl
@[simp] theorem Group.setSreg_soLast (g : Group) (n : Nat) (x : DWord) : (g.setSreg n x).soLast = g.soLast := by unfold Group.setSreg; split <;> rfl

end Sys2Proof.Machine
end

