-- ==== Sys2Proof/Laws/Registers.lean ====
section
/-! SUPPORT. Reads after writes of groups, blocks, lanes and registers. -/

namespace Sys2Proof.Machine

@[simp] theorem State.group_setGroup_self (s : State) (k : Nat) (g : Group) : (s.setGroup k g).group k = g := by
  simp [State.group]

theorem State.group_setGroup_ne (s : State) {k j : Nat} (g : Group) (h : j ≠ k) : (s.setGroup k g).group j = s.group j := by
  simp [State.group, getKey_setKey_ne _ _ _ h]

theorem State.group_setGroup (s : State) (k j : Nat) (g : Group) : (s.setGroup k g).group j = if j = k then g else s.group j := by
  simp [State.group, getKey_setKey]

@[simp] theorem State.block_setGroup (s : State) (k j : Nat) (g : Group) : (s.setGroup k g).block j = s.block j := rfl

@[simp] theorem State.group_setBlock (s : State) (k j : Nat) (b : Block) : (s.setBlock k b).group j = s.group j := rfl

theorem State.block_setBlock (s : State) (k j : Nat) (b : Block) : (s.setBlock k b).block j = if j = k then b else s.block j := by
  simp [State.block, getKey_setKey]

@[simp] theorem State.core_setGroup (s : State) (k j : Nat) (g : Group) : (s.setGroup k g).core j = s.core j := rfl

theorem State.core_setCore (s : State) (k j : Nat) (c : Core) : (s.setCore k c).core j = if j = k then c else s.core j := by
  simp [State.core, getKey_setKey]

theorem Group.lane_setLane (g : Group) (l j : Nat) (x : Lane) : (g.setLane l x).lane j = if j = l then x else g.lane j := by
  simp [Group.lane, getKey_setKey]

theorem Group.sreg_setSreg (g : Group) (n m : Nat) (x : DWord) :
    (g.setSreg n x).sreg m = if m = n ∧ n ≠ 0 then x else g.sreg m := by
  unfold Group.setSreg Group.sreg
  by_cases hn : n = 0
  · simp [hn]
  · by_cases hm : m = 0
    · simp [hn, hm, Ne.symm hn]
    · simp [hn, hm, getKey_setKey]

theorem Group.allowance_setAllowance (g : Group) (k c n : Nat) :
    (g.setAllowance k n).allowance c = if c = k then n else g.allowance c := by
  simp [Group.allowance, getKey_setKey]

/-- Registers of lanes below the width do not share a place. -/
theorem Group.vreg_setVreg (g : Group) (r r' l l' : Nat) (x : Word) (h : l < laneCount) (h' : l' < laneCount) :
    (g.setVreg r l x).vreg r' l' = if r' = r ∧ l' = l then x else g.vreg r' l' := by
  simp only [Group.vreg, Group.setVreg_v, getKey_setKey]
  have : (r' * laneCount + l' = r * laneCount + l) ↔ (r' = r ∧ l' = l) := by
    simp only [laneCount] at *; omega
  simp [this]

/-- A change of lanes changes nothing else of the group. -/
theorem Group.mapLanes_only (f : Nat → Lane → Lane) (ls : List Nat) (g : Group) :
    ∃ m, g.mapLanes f ls = { g with lanes := m } := by
  induction ls generalizing g with
  | nil => exact ⟨g.lanes, rfl⟩
  | cons l rest ih =>
    obtain ⟨m, hm⟩ := ih (g.setLane l (f l (g.lane l)))
    exact ⟨m, by simpa [Group.mapLanes] using hm⟩

/-- Each lane of a list changes by the function, and the others stay. -/
theorem Group.lane_mapLanes (f : Nat → Lane → Lane) (ls : List Nat) (g : Group) (h : ls.Nodup) (l : Nat) :
    (g.mapLanes f ls).lane l = if l ∈ ls then f l (g.lane l) else g.lane l := by
  induction ls generalizing g with
  | nil => simp [Group.mapLanes]
  | cons j rest ih =>
    rw [List.nodup_cons] at h
    simp only [Group.mapLanes, ih _ h.2, Group.lane_setLane, List.mem_cons]
    by_cases hl : l = j
    · subst hl; simp [h.1]
    · simp [hl]

section
variable (f : Nat → Lane → Lane) (ls : List Nat) (g : Group)

@[simp] theorem Group.mapLanes_v : (g.mapLanes f ls).v = g.v := by obtain ⟨m, h⟩ := Group.mapLanes_only f ls g; rw [h]
@[simp] theorem Group.mapLanes_s : (g.mapLanes f ls).s = g.s := by obtain ⟨m, h⟩ := Group.mapLanes_only f ls g; rw [h]
@[simp] theorem Group.mapLanes_m : (g.mapLanes f ls).m = g.m := by obtain ⟨m, h⟩ := Group.mapLanes_only f ls g; rw [h]
@[simp] theorem Group.mapLanes_block : (g.mapLanes f ls).block = g.block := by obtain ⟨m, h⟩ := Group.mapLanes_only f ls g; rw [h]
@[simp] theorem Group.mapLanes_gid : (g.mapLanes f ls).gid = g.gid := by obtain ⟨m, h⟩ := Group.mapLanes_only f ls g; rw [h]
@[simp] theorem Group.mapLanes_mode : (g.mapLanes f ls).mode = g.mode := by obtain ⟨m, h⟩ := Group.mapLanes_only f ls g; rw [h]
@[simp] theorem Group.mapLanes_merr : (g.mapLanes f ls).merr = g.merr := by obtain ⟨m, h⟩ := Group.mapLanes_only f ls g; rw [h]
@[simp] theorem Group.mapLanes_trec : (g.mapLanes f ls).trec = g.trec := by obtain ⟨m, h⟩ := Group.mapLanes_only f ls g; rw [h]
@[simp] theorem Group.mapLanes_hf0 : (g.mapLanes f ls).hf0 = g.hf0 := by obtain ⟨m, h⟩ := Group.mapLanes_only f ls g; rw [h]
@[simp] theorem Group.mapLanes_hf1 : (g.mapLanes f ls).hf1 = g.hf1 := by obtain ⟨m, h⟩ := Group.mapLanes_only f ls g; rw [h]
@[simp] theorem Group.mapLanes_handler : (g.mapLanes f ls).handler = g.handler := by obtain ⟨m, h⟩ := Group.mapLanes_only f ls g; rw [h]
@[simp] theorem Group.mapLanes_seen : (g.mapLanes f ls).seen = g.seen := by obtain ⟨m, h⟩ := Group.mapLanes_only f ls g; rw [h]
@[simp] theorem Group.mapLanes_allow : (g.mapLanes f ls).allow = g.allow := by obtain ⟨m, h⟩ := Group.mapLanes_only f ls g; rw [h]
@[simp] theorem Group.mapLanes_prod : (g.mapLanes f ls).prod = g.prod := by obtain ⟨m, h⟩ := Group.mapLanes_only f ls g; rw [h]
@[simp] theorem Group.mapLanes_erq : (g.mapLanes f ls).erq = g.erq := by obtain ⟨m, h⟩ := Group.mapLanes_only f ls g; rw [h]
@[simp] theorem Group.mapLanes_mon : (g.mapLanes f ls).mon = g.mon := by obtain ⟨m, h⟩ := Group.mapLanes_only f ls g; rw [h]
@[simp] theorem Group.mapLanes_floor : (g.mapLanes f ls).floor = g.floor := by obtain ⟨m, h⟩ := Group.mapLanes_only f ls g; rw [h]
@[simp] theorem Group.mapLanes_sync : (g.mapLanes f ls).sync = g.sync := by obtain ⟨m, h⟩ := Group.mapLanes_only f ls g; rw [h]
@[simp] theorem Group.mapLanes_async : (g.mapLanes f ls).async = g.async := by obtain ⟨m, h⟩ := Group.mapLanes_only f ls g; rw [h]
@[simp] theorem Group.mapLanes_results : (g.mapLanes f ls).results = g.results := by obtain ⟨m, h⟩ := Group.mapLanes_only f ls g; rw [h]
@[simp] theorem Group.mapLanes_hazards : (g.mapLanes f ls).hazards = g.hazards := by obtain ⟨m, h⟩ := Group.mapLanes_only f ls g; rw [h]
@[simp] theorem Group.mapLanes_bad : (g.mapLanes f ls).bad = g.bad := by obtain ⟨m, h⟩ := Group.mapLanes_only f ls g; rw [h]
@[simp] theorem Group.mapLanes_nextSeq : (g.mapLanes f ls).nextSeq = g.nextSeq := by obtain ⟨m, h⟩ := Group.mapLanes_only f ls g; rw [h]
@[simp] theorem Group.mapLanes_rel : (g.mapLanes f ls).rel = g.rel := by obtain ⟨m, h⟩ := Group.mapLanes_only f ls g; rw [h]
@[simp] theorem Group.mapLanes_soLast : (g.mapLanes f ls).soLast = g.soLast := by obtain ⟨m, h⟩ := Group.mapLanes_only f ls g; rw [h]
end

/-- What a write of lane registers leaves of a group: all but its registers, hazards and register errors. -/
def Group.regsOnly (g h : Group) : Prop :=
  ∃ v hs bs, h = { g with v := v, hazards := hs, bad := bs }

theorem Group.regsOnly_refl (g : Group) : g.regsOnly g := ⟨g.v, g.hazards, g.bad, rfl⟩

theorem Group.regsOnly_trans {g h i : Group} (a : g.regsOnly h) (b : h.regsOnly i) : g.regsOnly i := by
  obtain ⟨v, hs, bs, rfl⟩ := a
  obtain ⟨v', hs', bs', rfl⟩ := b
  exact ⟨v', hs', bs', rfl⟩

theorem Group.putV_only (g : Group) (clock lat r l : Nat) (x : Word) : g.regsOnly (g.putV clock lat r l x) := by
  unfold Group.putV; simp only; split <;> exact ⟨_, _, _, rfl⟩

theorem Group.vreg_putV (g : Group) (clock lat r l r' l' : Nat) (x : Word) (h : l < laneCount) (h' : l' < laneCount) :
    (g.putV clock lat r l x).vreg r' l' = if r' = r ∧ l' = l then x else g.vreg r' l' := by
  rw [← Group.vreg_setVreg g r r' l l' x h h']
  unfold Group.putV; simp only; split <;> rfl

theorem putLanes_only (clock lat r : Nat) (f : Nat → Word) (ls : List Nat) (g : Group) : g.regsOnly (putLanes clock lat r f ls g) := by
  induction ls generalizing g with
  | nil => exact g.regsOnly_refl
  | cons l rest ih => exact Group.regsOnly_trans (g.putV_only clock lat r l (f l)) (ih _)

theorem vreg_putLanes (clock lat r : Nat) (f : Nat → Word) (ls : List Nat) (g : Group) (h : ∀ l ∈ ls, l < laneCount) (r' l : Nat)
    (hl : l < laneCount) : (putLanes clock lat r f ls g).vreg r' l = if r' = r ∧ l ∈ ls then f l else g.vreg r' l := by
  induction ls generalizing g with
  | nil => simp [putLanes]
  | cons j rest ih =>
    rw [putLanes, ih _ (fun x hx => h x (List.mem_cons_of_mem _ hx)), Group.vreg_putV _ _ _ _ _ _ _ _ (h j List.mem_cons_self) hl]
    by_cases hr : r' = r <;> by_cases hm : l ∈ rest <;> by_cases he : l = j <;> simp [hr, hm, he]

theorem putZeros_only (clock r : Nat) (ls : List Nat) (g : Group) : g.regsOnly (putZeros clock r ls g) := by
  induction ls generalizing g with
  | nil => exact g.regsOnly_refl
  | cons l rest ih => exact Group.regsOnly_trans (g.putV_only clock 0 r l 0) (ih _)

theorem vreg_putZeros (clock r : Nat) (ls : List Nat) (g : Group) (h : ∀ l ∈ ls, l < laneCount) (r' l : Nat) (hl : l < laneCount) :
    (putZeros clock r ls g).vreg r' l = if r' = r ∧ l ∈ ls then 0 else g.vreg r' l := by
  induction ls generalizing g with
  | nil => simp [putZeros]
  | cons j rest ih =>
    rw [putZeros, ih _ (fun x hx => h x (List.mem_cons_of_mem _ hx)), Group.vreg_putV _ _ _ _ _ _ _ _ (h j List.mem_cons_self) hl]
    by_cases hr : r' = r <;> by_cases hm : l ∈ rest <;> by_cases he : l = j <;> simp [hr, hm, he]

/-- A result written with a latency waits as a hazard until it is available (R321). -/
theorem hazard_putLanes (clock lat r : Nat) (f : Nat → Word) (ls : List Nat) (g : Group) (hlat : lat ≠ 0) (l : Nat)
    (h : l ∈ ls ∨ ∃ z ∈ g.hazards, z.isMask = false ∧ z.reg = r ∧ z.lane = l ∧ z.ready = clock + lat) :
    ∃ z ∈ (putLanes clock lat r f ls g).hazards, z.isMask = false ∧ z.reg = r ∧ z.lane = l ∧ z.ready = clock + lat := by
  induction ls generalizing g with
  | nil => simpa [putLanes] using h
  | cons j rest ih =>
    refine ih _ ?_
    rcases h with h | ⟨z, hz, hp⟩
    · rcases List.mem_cons.1 h with h | h
      · refine .inr ⟨{ isMask := false, reg := r, lane := j, old := g.vreg r j, ready := clock + lat }, ?_, rfl, rfl, h.symm, rfl⟩
        simp [Group.putV, hlat, addHazard]
      · exact .inl h
    · refine .inr ⟨z, ?_, hp⟩
      simp only [Group.putV, hlat, if_false, addHazard]
      refine List.mem_cons_of_mem _ (List.mem_map.2 ⟨z, List.mem_filter.2 ⟨hz, by simp only [decide_eq_true_eq]; omega⟩, ?_⟩)
      have hm : min z.ready (clock + lat) = z.ready := by omega
      rw [hm]
      exact ite_self z

theorem hazard_putZeros (clock r : Nat) (ls : List Nat) (g : Group) (z : Hazard) (hz : z ∈ g.hazards) (h : ¬(z.lane ∈ ls)) :
    z ∈ (putZeros clock r ls g).hazards := by
  induction ls generalizing g with
  | nil => exact hz
  | cons j rest ih =>
    refine ih _ ?_ (fun hm => h (List.mem_cons_of_mem _ hm))
    have : z.lane ≠ j := fun he => h (he ▸ List.mem_cons_self)
    simp [Group.putV, hz, this]

end Sys2Proof.Machine
end

