-- ==== Sys2Proof/Laws/Lane.lean ====
section
/-! SUPPORT. What the gates and the common frames of lane words and uniform words do, once for all the words that use them. -/

namespace Sys2Proof.Laws

open Sys2Proof.Machine Sys2Proof.Claim

/-- A gate that nothing holds opens. -/
theorem gate_ready (uniform acts : Bool) (u : Uses) (body : State → Out) (s : State) (h : ready acts u s = true) :
    gate uniform acts u body s = body (opened s) := by
  simp only [ready, readsBad, Bool.and_eq_true, Bool.not_eq_true', Bool.or_eq_true, Option.isNone_iff_eq_none] at h
  obtain ⟨⟨⟨⟨⟨⟨h1, h2⟩, h3⟩, h4⟩, h5⟩, h6⟩, h7⟩ := h
  have h3' : shortAtGate s s.issuing u = false := by
    unfold shortAtGate
    cases hc : s.issuing.chk <;> cases he : earlyUse s s.issuing u <;> simp_all
  have h1' : badRead s.issuing u = none := Option.not_isSome_iff_eq_none.1 (by simp [h1])
  have h5' : (if acts = true then chanFault s.issuing s.issuingBlock u.chans else none) = none := by
    cases acts with
    | false => rfl
    | true => simpa using h5
  unfold gate
  simp only [h1', h2, h3', h4, h5', h6, h7, Bool.false_eq_true, Bool.and_false, Bool.not_false, Option.isNone_none, Bool.and_self,
    if_false, opened]

/-- The gate of a lane word that is ready opens with the lanes of act. -/
theorem laneGate_ready (acc : Accept) (u : List Nat → Uses) (body : List Nat → State → Out) (s : State)
    (h : laneReady acc u s = true) : laneGate acc u body s = body (actLanes s) (opened s) := by
  simp only [laneReady, Bool.and_eq_true] at h
  unfold laneGate
  rw [if_pos h.1]
  exact gate_ready _ _ _ _ _ h.2

/-- The gate of a uniform word that is ready opens. -/
theorem uniGate_ready (u : Uses) (body : State → Out) (s : State) (h : uniReady u s = true) :
    uniGate u body s = body (opened s) := by
  simp only [uniReady, Bool.and_eq_true, Option.isNone_iff_eq_none] at h
  unfold uniGate
  rw [h.1, gate_ready _ _ _ _ _ h.2]
  simp

/-! ### Sources -/

/-- A pop changes nothing but the block's channel and the pusher's allowance. -/
theorem popChan_frame (bk k : Nat) (s : State) :
    (popChan bk k s).iss = s.iss ∧ (popChan bk k s).clock = s.clock ∧ (popChan bk k s).mem = s.mem ∧
    (popChan bk k s).entries = s.entries := ⟨rfl, rfl, rfl, rfl⟩

/-- Reading sources leaves the word being issued, the clock, memory and the entries. -/
theorem readSrcs_frame (srcs : List Src) (slot : Nat) (s : State) :
    (readSrcs slot srcs s).2.iss = s.iss ∧ (readSrcs slot srcs s).2.clock = s.clock ∧ (readSrcs slot srcs s).2.mem = s.mem ∧
    (readSrcs slot srcs s).2.entries = s.entries := by
  induction srcs generalizing slot s with
  | nil => exact ⟨rfl, rfl, rfl, rfl⟩
  | cons a rest ih =>
    have h := ih (slot + 1) (readSrc slot a s).2
    have e : (readSrcs slot (a :: rest) s).2 = (readSrcs (slot + 1) rest (readSrc slot a s).2).2 := rfl
    have f : (readSrc slot a s).2.iss = s.iss ∧ (readSrc slot a s).2.clock = s.clock ∧ (readSrc slot a s).2.mem = s.mem ∧
        (readSrc slot a s).2.entries = s.entries := by
      cases a with
      | reg r => exact ⟨rfl, rfl, rfl, rfl⟩
      | ch pop k =>
        cases pop with
        | false => exact ⟨rfl, rfl, rfl, rfl⟩
        | true => exact popChan_frame _ _ _
    rw [e]
    exact ⟨h.1.trans f.1, h.2.1.trans f.2.1, h.2.2.1.trans f.2.2.1, h.2.2.2.trans f.2.2.2⟩

theorem sourcesOf_frame (srcs : List Src) (s : State) :
    (sourcesOf srcs s).2.iss = s.iss ∧ (sourcesOf srcs s).2.clock = s.clock ∧ (sourcesOf srcs s).2.entries = s.entries := by
  unfold sourcesOf
  split
  · exact ⟨rfl, rfl, rfl⟩
  · have h := readSrcs_frame srcs 0 (opened s)
    exact ⟨h.1, h.2.1, h.2.2.2⟩

theorem zeroLanes_iss {s t : State} (act : List Nat) (h : t.iss = s.iss) : zeroLanes t act = zeroLanes s act := by
  simp [zeroLanes, pfxZ, h]

theorem mem_actLanes {s : State} {l : Nat} (h : l ∈ actLanes s) : l ∈ s.iss.sel := by
  unfold actLanes at h
  split at h <;> exact (List.mem_filter.1 h).1

theorem nodup_actLanes {s : State} (h : s.iss.sel.Nodup) : (actLanes s).Nodup := by
  unfold actLanes
  split <;> exact h.filter _

theorem mem_zeroLanes {s : State} {act : List Nat} {l : Nat} (h : l ∈ zeroLanes s act) : l ∈ s.iss.sel ∧ l ∉ act := by
  unfold zeroLanes at h
  split at h
  · simpa using h
  · simp at h

/-! ### The frame of lane words -/

/-- The lanes of the word move on, when what stands before them has the lanes of `g` but for the SR counts of some rows. -/
theorem lanesAt_advance (s t : State) (rows : List Nat) (n : Nat) (h : s.iss.sel.Nodup) (g : Group)
    (hg : ∀ l, t.issuing.lane l = { g.lane l with sr := if l ∈ rows then (g.lane l).sr + BitVec.ofNat 32 n else (g.lane l).sr })
    (hi : t.iss = s.iss) : lanesAt s.iss.sel (fun _ => nextPc s) rows n g (t.advance.group s.iss.group) := by
  intro l
  have hk : t.advance.group s.iss.group = { t.issuing.mapLanes (fun _ x => { x with pc := t.iss.pc + t.iss.size }) t.iss.sel with
      waiting := .nothing, arrived := false, stuck := none } := by
    rw [← hi]; exact State.group_setGroup_self _ _ _
  rw [hk]
  show Group.lane (Group.mapLanes t.issuing _ _) l = _
  rw [Group.lane_mapLanes _ _ _ (by rw [hi]; exact h), hg, hi]
  by_cases h1 : l ∈ s.iss.sel <;> simp [h1, nextPc]

/-- The group after the word moves on. -/
theorem group_advance (t : State) : t.advance.group t.iss.group =
    { t.issuing.mapLanes (fun _ x => { x with pc := t.iss.pc + t.iss.size }) t.iss.sel with waiting := .nothing, arrived := false, stuck := none } :=
  State.group_setGroup_self _ _ _

theorem keepsOthers_refl (k : Nat) (s : State) : keepsOthers k s s :=
  ⟨fun _ _ => rfl, fun _ => rfl, ⟨fun _ => rfl, rfl⟩, rfl, rfl, rfl, rfl, rfl, rfl⟩

theorem keepsOthers_trans {k : Nat} {s t u : State} (a : keepsOthers k s t) (b : keepsOthers k t u) : keepsOthers k s u := by
  obtain ⟨a1, a2, ⟨a3, a4⟩, a5, a6, a7, a8, a9, a10⟩ := a
  obtain ⟨b1, b2, ⟨b3, b4⟩, b5, b6, b7, b8, b9, b10⟩ := b
  exact ⟨fun j h => (b1 j h).trans (a1 j h), fun b => (b2 b).trans (a2 b), ⟨fun x => (b3 x).trans (a3 x), b4.trans a4⟩, b5.trans a5,
    b6.trans a6, b7.trans a7, b8.trans a8, b9.trans a9, b10.trans a10⟩

/-- A change of one group changes nothing else. -/
theorem keepsOthers_setGroup (k : Nat) (s : State) (g : Group) : keepsOthers k s (s.setGroup k g) :=
  ⟨fun _ h => State.group_setGroup_ne s g h, fun _ => rfl, ⟨fun _ => rfl, rfl⟩, rfl, rfl, rfl, rfl, rfl, rfl⟩

/-- Moving on changes only the issuing group. -/
theorem keepsOthers_advance (s : State) : keepsOthers s.iss.group s s.advance :=
  ⟨fun _ h => State.group_setGroup_ne s _ h, fun _ => rfl, ⟨fun _ => rfl, rfl⟩, rfl, rfl, rfl, rfl, rfl, rfl⟩

/-- The group and the state after a push is placed. -/
theorem placePush_group (c : Nat) (x : Word) (s : State) : (placePush c x (takeAllowance c s)).group s.iss.group =
    { s.issuing.setAllowance c (s.issuing.allowance c - 1) with
      nextSeq := s.issuing.nextSeq + 1,
      soLast := ((takeAllowance c s).placeEntry (pushEntry (takeAllowance c s) c x.toNat none)).lastSoOf s.iss.group } := by
  simp [placePush, pushEntry, takeAllowance, State.nextInstr, State.placeEntry, State.fresh, State.issuing, State.group, State.setGroup]

theorem placePush_others (c : Nat) (x : Word) (s : State) : keepsOthers s.iss.group s (placePush c x (takeAllowance c s)) := by
  refine ⟨fun j h => ?_, fun _ => rfl, ⟨fun _ => rfl, rfl⟩, rfl, rfl, rfl, rfl, rfl, rfl⟩
  simp [placePush, pushEntry, takeAllowance, State.nextInstr, State.placeEntry, State.fresh, State.group, State.setGroup,
    getKey_setKey_ne _ _ _ h]

theorem placePush_iss (c : Nat) (x : Word) (s : State) : (placePush c x (takeAllowance c s)).iss = s.iss := rfl

theorem placePush_entry (c : Nat) (x : Word) (s : State) :
    ∃ e, (placePush c x (takeAllowance c s)).entries = s.entries ++ [e] ∧ e.op = .push c s.issuing.gid ∧
      e.target = .bank s.issuing.block (chOff c) ∧ e.data = x.toNat ∧ e.rel = true := by
  refine ⟨_, rfl, ?_, ?_, rfl, rfl⟩ <;>
    simp [pushEntry, takeAllowance, State.issuing, State.group, State.setGroup]

theorem regsOnly_lane {g h : Group} (a : g.regsOnly h) (l : Nat) : h.lane l = g.lane l := by
  obtain ⟨v, hs, bs, rfl⟩ := a; rfl

theorem regsOnly_keeps {g h : Group} (a : g.regsOnly h) : keepsUniform g h ∧ keepsMasks g h ∧ keepsStatus g h ∧ keepsAllowance g h := by
  obtain ⟨v, hs, bs, rfl⟩ := a
  exact ⟨fun _ => rfl, fun _ => rfl, ⟨rfl, rfl, rfl, rfl, rfl, rfl, rfl, rfl, rfl, rfl, rfl, rfl, rfl⟩, fun _ => rfl⟩

/-- What the destination of a lane word does, apart from the result itself. -/
theorem putDst_frame (lat : Nat) (d : Dst) (act : List Nat) (val : Nat → Word) (s : State) :
    let t := putDst lat d act val s
    t.iss = s.iss ∧ (∀ l, t.issuing.lane l = s.issuing.lane l) ∧ keepsUniform s.issuing t.issuing ∧ keepsMasks s.issuing t.issuing ∧
    keepsStatus s.issuing t.issuing ∧ keepsOthers s.iss.group s t := by
  cases d with
  | reg r =>
    have a := Group.regsOnly_trans (putLanes_only s.clock lat r val act s.issuing) (putZeros_only s.clock r (zeroLanes s act) _)
    have b := regsOnly_keeps a
    have e : (putDst lat (.reg r) act val s).issuing = putZeros s.clock r (zeroLanes s act) (putLanes s.clock lat r val act s.issuing) :=
      State.group_setGroup_self _ _ _
    refine ⟨rfl, fun l => ?_, ?_, ?_, ?_, keepsOthers_setGroup _ _ _⟩ <;> rw [e]
    · exact regsOnly_lane a l
    · exact b.1
    · exact b.2.1
    · exact b.2.2.1
  | push c =>
    cases act with
    | nil => exact ⟨rfl, fun _ => rfl, fun _ => rfl, fun _ => rfl, ⟨rfl, rfl, rfl, rfl, rfl, rfl, rfl, rfl, rfl, rfl, rfl, rfl, rfl⟩, keepsOthers_refl _ _⟩
    | cons l rest =>
      have e : (putDst lat (.push c) (l :: rest) val s).issuing = _ := placePush_group c (val l) s
      refine ⟨rfl, fun l => ?_, ?_, ?_, ?_, placePush_others c (val l) s⟩ <;> rw [e]
      · rfl
      · exact fun _ => rfl
      · exact fun _ => rfl
      · exact ⟨rfl, rfl, rfl, rfl, rfl, rfl, rfl, rfl, rfl, rfl, rfl, rfl, rfl⟩

/-- What the destination of a lane word does. -/
theorem putDst_result (lat : Nat) (d : Dst) (act : List Nat) (val : Nat → Word) (s : State) (ha : ∀ l ∈ act, l < laneCount)
    (hz : ∀ l ∈ zeroLanes s act, l < laneCount) :
    laneDst lat d act (zeroLanes s act) val s.issuing (putDst lat d act val s).issuing s (putDst lat d act val s) := by
  cases d with
  | reg r =>
    have a := Group.regsOnly_trans (putLanes_only s.clock lat r val act s.issuing) (putZeros_only s.clock r (zeroLanes s act) _)
    have e : (putDst lat (.reg r) act val s).issuing = putZeros s.clock r (zeroLanes s act) (putLanes s.clock lat r val act s.issuing) :=
      State.group_setGroup_self _ _ _
    refine ⟨fun r' l hl => ?_, ?_, rfl, fun hlat l hl => ?_⟩
    · rw [e, vreg_putZeros _ _ _ _ hz _ _ hl, vreg_putLanes _ _ _ _ _ _ ha _ _ hl]
      by_cases h1 : r' = r <;> by_cases h2 : l ∈ act <;> by_cases h3 : l ∈ zeroLanes s act <;> simp [h1, h2, h3]
      exact absurd h2 (mem_zeroLanes h3).2
    · rw [e]; exact (regsOnly_keeps a).2.2.2
    · obtain ⟨z, hz1, hz2⟩ := hazard_putLanes s.clock lat r val act s.issuing hlat l (.inl hl)
      refine ⟨z, ?_, hz2⟩
      rw [e]
      exact hazard_putZeros _ _ _ _ z hz1 (fun hm => (mem_zeroLanes hm).2 (hz2.2.2.1 ▸ hl))
  | push c =>
    cases act with
    | nil => exact ⟨fun _ _ => rfl, fun _ => rfl, rfl⟩
    | cons l rest =>
      have e : (putDst lat (.push c) (l :: rest) val s).issuing = _ := placePush_group c (val l) s
      refine ⟨?_, placePush_entry c (val l) s, fun k => ?_⟩
      · rw [e]; exact fun _ _ => rfl
      · rw [e]; exact Group.allowance_setAllowance _ _ _ _

/-- The effect of a lane word from its parts: the sources, the destination, the SR counts and the PCs. -/
theorem effect_of (f : LaneForm) (s t : State) (hs : lanesOk s) (val : Nat → Word)
    (hv : ∀ l, val l = f.val (opened s) (actLanes s) (fun l => (sourcesOf f.srcs s).1.map (fun x => x l)) l) (u w : State)
    (hu : u = putDst f.lat f.dst (actLanes s) val (sourcesOf f.srcs s).2) (m : List (Nat × Lane)) (w1 : w.iss = u.iss)
    (w2 : w.issuing = { u.issuing with lanes := m }) (w3 : keepsOthers u.iss.group u w) (w4 : w.entries = u.entries)
    (w5 : ∀ l, w.issuing.lane l = { u.issuing.lane l with
      sr := if l ∈ (if roundMode s = 4 then actLanes s else []) then (u.issuing.lane l).sr + BitVec.ofNat 32 f.sr else (u.issuing.lane l).sr })
    (ht : t = w.advance) : f.effect s t := by
  have hval : val = f.val (opened s) (actLanes s) (fun l => (sourcesOf f.srcs s).1.map (fun x => x l)) := funext hv
  obtain ⟨hi, hc, -⟩ := sourcesOf_frame f.srcs s
  obtain ⟨p1, p2, p3, p4, p5, p6⟩ := putDst_frame f.lat f.dst (actLanes s) val (sourcesOf f.srcs s).2
  have hlt : ∀ l ∈ actLanes s, l < laneCount := fun l hl => hs.1 l (mem_actLanes hl)
  have hz := zeroLanes_iss (actLanes s) hi
  have q := putDst_result f.lat f.dst (actLanes s) val (sourcesOf f.srcs s).2 hlt (fun l hl => hs.1 l (mem_zeroLanes (hz ▸ hl)).1)
  rw [← hu] at p1 p2 p3 p4 p5 p6 q
  have ui : u.iss = s.iss := p1.trans hi
  have wi : w.iss = s.iss := w1.trans ui
  have g1 : (sourcesOf f.srcs s).2.issuing = (sourcesOf f.srcs s).2.group s.iss.group := by rw [State.issuing, hi]
  have h2 := group_advance w
  rw [← ht, wi, w2] at h2
  have others : keepsOthers s.iss.group (sourcesOf f.srcs s).2 t := by
    rw [hi] at p6
    rw [ui] at w3
    refine keepsOthers_trans p6 (keepsOthers_trans w3 ?_)
    rw [ht]
    have := keepsOthers_advance w
    rwa [wi] at this
  refine ⟨?_, ?_, ?_, ?_, others, ?_⟩
  · rw [ht]
    refine lanesAt_advance s _ _ f.sr hs.2 _ (fun l => ?_) wi
    rw [w5, p2, ← g1]
  · rw [h2, ← g1]; intro n; simpa [Group.sreg] using p3 n
  · rw [h2, ← g1]; intro n; simpa using p4 n
  · rw [h2, ← g1]; simpa [keepsStatus] using p5
  · have te : t.entries = u.entries := by rw [ht]; exact w4
    rw [← hval]
    unfold laneDst at q ⊢
    generalize hd : f.dst = d at q ⊢
    cases d with
    | reg r =>
      obtain ⟨q1, q2, q3, q4⟩ := q
      refine ⟨?_, ?_, te.trans q3, ?_⟩
      · rw [h2, ← g1, ← hz]; intro r' l hl; simpa [Group.vreg] using q1 r' l hl
      · rw [h2, ← g1]; intro c; simpa [Group.allowance] using q2 c
      · intro hlat l hl
        rw [h2]
        simpa using q4 hlat l hl
    | push c =>
      obtain ⟨q1, q2⟩ := q
      refine ⟨?_, ?_⟩
      · rw [h2, ← g1]; intro r l; simpa [Group.vreg] using q1 r l
      · unfold pushedFirst at q2 ⊢
        generalize actLanes s = act at q2 ⊢
        cases act with
        | nil =>
          refine ⟨?_, te.trans q2.2⟩
          rw [h2, ← g1]; intro c; simpa [Group.allowance] using q2.1 c
        | cons l rest =>
          obtain ⟨⟨e, e1, e2⟩, q3⟩ := q2
          refine ⟨⟨e, te.trans e1, ?_⟩, ?_⟩
          · rw [← g1]; exact e2
          · rw [h2, ← g1]; intro k; simpa [Group.allowance] using q3 k

theorem bumpSr_zero (g : Group) (mode : Nat) (act : List Nat) (h : act.Nodup) (l : Nat) : (g.bumpSr mode 0 act).lane l = g.lane l := by
  unfold Group.bumpSr
  split
  · rw [Group.lane_mapLanes _ _ _ h]; split <;> simp
  · rfl

/-- `laneWord` in a ready state completes with its effect. -/
theorem laneWord_effect (acc : Accept) (lat : Nat) (d : Dst) (srcs : List Src) (f : State → Nat → List Word → Word) (s : State)
    (hs : lanesOk s) (h : laneReady acc (laneUses d srcs) s = true) :
    ∃ t, laneWord acc lat d srcs f s = .next t ∧ (laneForm acc lat 0 d srcs f).effect s t := by
  unfold laneWord
  rw [laneGate_ready _ _ _ _ h]
  have same : ∀ u : State, ∀ l, u.issuing.lane l = { u.issuing.lane l with
      sr := if l ∈ (if roundMode s = 4 then actLanes s else []) then (u.issuing.lane l).sr + BitVec.ofNat 32 0 else (u.issuing.lane l).sr } := by
    intro u l; simp
  by_cases ha : actLanes s = []
  · rw [if_pos ha]
    refine ⟨_, rfl, effect_of _ s _ hs _ (fun l => rfl) _ _ rfl _ rfl rfl (keepsOthers_refl _ _) rfl (same _) ?_⟩
    simp only [laneForm, sourcesOf, ha, if_true]
    cases d <;> rfl
  · rw [if_neg ha]
    refine ⟨_, rfl, effect_of _ s _ hs _ (fun l => rfl) _ _ rfl _ rfl rfl (keepsOthers_refl _ _) rfl (same _) ?_⟩
    simp only [laneForm, sourcesOf, ha, if_false]

/-- Without SR rounding, or with no element, the SR counts stay. -/
theorem bumpSr_lane (g : Group) (mode n : Nat) (act : List Nat) (h : act.Nodup) (l : Nat) : (g.bumpSr mode n act).lane l =
    { g.lane l with sr := if l ∈ (if mode = 4 then act else []) then (g.lane l).sr + BitVec.ofNat 32 n else (g.lane l).sr } := by
  unfold Group.bumpSr
  split
  · rw [Group.lane_mapLanes _ _ _ h]; by_cases hl : l ∈ act <;> simp [hl]
  · simp

theorem bumpSr_only (g : Group) (mode n : Nat) (act : List Nat) : ∃ m, g.bumpSr mode n act = { g with lanes := m } := by
  unfold Group.bumpSr
  split
  · exact Group.mapLanes_only _ _ _
  · exact ⟨_, rfl⟩

/-- `roundWord` in a ready state completes with its effect. -/
theorem roundWord_effect (acc : Accept) (n : Nat) (d : Dst) (srcs : List Src) (f : RCtx → List Word → Word) (s : State)
    (hs : lanesOk s) (h : laneReady acc (laneUses d srcs) s = true) :
    ∃ t, roundWord acc n d srcs f s = .next t ∧ (laneForm acc 5 n d srcs (fun s l => f (rctx s l))).effect s t := by
  unfold roundWord
  rw [laneGate_ready _ _ _ _ h]
  by_cases ha : actLanes s = []
  · rw [if_pos ha]
    refine ⟨_, rfl, effect_of _ s _ hs _ (fun l => rfl) _ _ rfl _ rfl rfl (keepsOthers_refl _ _) rfl (fun l => ?_) ?_⟩
    · simp [ha]
    · simp only [laneForm, sourcesOf, ha, if_true]
      cases d <;> rfl
  · rw [if_neg ha]
    let u := putDst 5 d (actLanes s) (fun l => f (rctx (opened s) l) ((readSrcs 0 srcs (opened s)).1.map (fun x => x l)))
      (readSrcs 0 srcs (opened s)).2
    obtain ⟨m, hm⟩ := bumpSr_only u.issuing (roundMode (opened s)) n (actLanes s)
    refine ⟨_, rfl, effect_of _ s _ hs (fun l => f (rctx (opened s) l) ((readSrcs 0 srcs (opened s)).1.map (fun x => x l))) (fun l => ?_)
      u (u.setGroup u.iss.group (u.issuing.bumpSr (roundMode (opened s)) n (actLanes s))) ?_ m rfl ?_ (keepsOthers_setGroup _ _ _) rfl
      (fun l => ?_) rfl⟩
    · simp only [laneForm, sourcesOf, ha, if_false]
    · simp only [laneForm, sourcesOf, ha, if_false, u]
    · exact (State.group_setGroup_self _ _ _).trans hm
    · have e : (u.setGroup u.iss.group (u.issuing.bumpSr (roundMode (opened s)) n (actLanes s))).issuing =
          u.issuing.bumpSr (roundMode (opened s)) n (actLanes s) := State.group_setGroup_self _ _ _
      rw [e, bumpSr_lane _ _ _ _ (nodup_actLanes hs.2)]
      rfl

/-- `collective` in a ready state completes with its effect. -/
theorem collective_effect (acc : Accept) (extra : State → List (Nat × Nat)) (d : Dst) (srcs : List Src)
    (f : State → List Nat → (Nat → List Word) → Nat → Word) (s : State) (hs : lanesOk s)
    (h : laneReady acc (fun act => { laneUses d srcs act with readM := extra s }) s = true) :
    ∃ t, collective acc extra d srcs f s = .next t ∧
      ({ acc := acc, uses := fun act => { laneUses d srcs act with readM := extra s }, lat := 0, sr := 0, dst := d, srcs := srcs,
         val := f } : LaneForm).effect s t := by
  unfold collective
  rw [laneGate_ready _ _ _ _ h]
  by_cases ha : actLanes s = []
  · rw [if_pos ha]
    refine ⟨_, rfl, effect_of _ s _ hs _ (fun l => rfl) _ _ rfl _ rfl rfl (keepsOthers_refl _ _) rfl (fun l => by simp) ?_⟩
    simp only [sourcesOf, ha, if_true]
    cases d <;> rfl
  · rw [if_neg ha]
    refine ⟨_, rfl, effect_of _ s _ hs _ (fun l => rfl) _ _ rfl _ rfl rfl (keepsOthers_refl _ _) rfl (fun l => by simp) ?_⟩
    simp only [sourcesOf, ha, if_false]

/-- `shuffle` in a ready state completes with its effect. -/
theorem shuffle_effect (d : Dst) (a : Src) (bs : List Src) (index : (Nat → List Word) → Nat → Int) (s : State) (hs : lanesOk s)
    (h : laneReady accPlain (shuffleUses d a bs index s) s = true) :
    ∃ t, shuffle d a bs index s = .next t ∧
      ({ acc := accPlain, uses := shuffleUses d a bs index s, lat := 0, sr := 0, dst := d, srcs := a :: bs,
         val := fun s _ v l => shuffleVal s (fun j => (v j).headD 0) l (index (fun j => (v j).drop 1) l) } : LaneForm).effect s t := by
  unfold shuffle
  rw [laneGate_ready _ _ _ _ h]
  by_cases ha : actLanes s = []
  · rw [if_pos ha]
    refine ⟨_, rfl, effect_of _ s _ hs _ (fun l => rfl) _ _ rfl _ rfl rfl (keepsOthers_refl _ _) rfl (fun l => by simp) ?_⟩
    simp only [sourcesOf, ha, if_true]
    cases d <;> rfl
  · rw [if_neg ha]
    refine ⟨_, rfl, effect_of _ s _ hs _ (fun l => rfl) _ _ rfl _ rfl rfl (keepsOthers_refl _ _) rfl (fun l => by simp) ?_⟩
    simp only [sourcesOf, ha, if_false]
    rfl

end Sys2Proof.Laws
end

