-- ==== Sys2Proof/Laws/Memory.lean ====
section
/-! SUPPORT. What the writes of memory do, once: every one of them keeps the canonical form (log 2), changes the bytes that it names, and no
others. -/

namespace Sys2Proof.Machine

theorem State.mem_fireGroup (s : State) (k e : Nat) : (s.fireGroup k e).mem = s.mem := by
  unfold State.fireGroup; simp only; split <;> rfl

theorem State.mem_enterFlow (s : State) (m : LsMsg) : (s.enterFlow m).mem = s.mem := by
  unfold State.enterFlow; split <;> rfl

theorem State.mem_fireWatch (s : State) (w : Watch) : (s.fireWatch w).mem = s.mem := by
  unfold State.fireWatch; split
  · exact s.mem_fireGroup _ _
  · exact s.mem_enterFlow _

theorem State.mem_fireWatches (ws : List Watch) (s : State) : (ws.foldl (fun s w => s.fireWatch w) s).mem = s.mem := by
  induction ws generalizing s with
  | nil => rfl
  | cons w ws ih => rw [List.foldl_cons, ih, mem_fireWatch]

/-- A write at home slices: its bytes in memory, whatever watches it fires (R67, R117). -/
theorem State.mem_storeMem (s : State) (pa : Nat) (bytes : List Byte) (bad : Bool) :
    (s.storeMem pa bytes bad).mem = writeBytes s.mem pa bytes := by
  unfold State.storeMem State.fireMemory; simp only; rw [mem_fireWatches]
  show ((s.writeMem pa bytes bad).touchL2 pa bytes.length true).mem = _
  rw [State.touchL2_mem]; rfl

/-- A write at a bank leaves memory as it was. -/
theorem State.mem_storeBank (s : State) (bk off : Nat) (bytes : List Byte) (bad : Bool) : (s.storeBank bk off bytes bad).mem = s.mem := by
  unfold State.storeBank State.fireBank; simp only; rw [mem_fireWatches]; rfl

theorem State.wf_storeMem (s : State) (pa : Nat) (bytes : List Byte) (bad : Bool) (h : Memory.wf s.mem = true) :
    Memory.wf (s.storeMem pa bytes bad).mem = true := by
  rw [mem_storeMem]; exact wf_writeBytes bytes s.mem pa h

theorem State.wf_writePtes (ps : List PteWrite) (s : State) (h : Memory.wf s.mem = true) : Memory.wf (s.writePtes ps).mem = true := by
  unfold State.writePtes
  induction ps generalizing s with
  | nil => exact h
  | cons p ps ih => exact ih _ (s.wf_storeMem _ _ _ h)

theorem State.wf_zeroFill (s : State) (ls : List (Nat × Nat)) (h : Memory.wf s.mem = true) : Memory.wf (s.zeroFill ls).mem = true :=
  wf_filter _ s.mem h

theorem State.wf_writeCode (bs : List Byte) (s t : State) (ctx va : Nat) (h : Memory.wf s.mem = true) (ht : s.writeCode ctx va bs = some t) :
    Memory.wf t.mem = true := by
  induction bs generalizing s va with
  | nil => cases ht; exact h
  | cons b bs ih =>
    unfold State.writeCode at ht
    split at ht
    · simp only at ht
      split at ht
      · cases ht
      · exact ih _ _ (wf_writeByte s.mem _ b h) ht
    · cases ht

end Sys2Proof.Machine
end

