-- ==== Sys2Proof/Laws/Traps.lean ====
section
/-! SUPPORT. Taking a trap, once: what a trap that is delivered does to its group, and when a word's trap is delivered at once (R240 to
R242). -/

namespace Sys2Proof.Machine

open Sys2Proof.Claim Sys2Proof.Laws

/-- A trap outside handlers, in a context with a trap handler, enters it (R240). -/
theorem State.deliverTrap_enters (s : State) (k : Nat) (t : TrapInfo) (h : (s.group k).handler = .none)
    (hp : (s.ctxDesc (s.block (s.group k).block).ctx).traph ≠ 0) :
    s.deliverTrap k t =
      s.setGroup k ((s.group k).enterTrap t (BitVec.ofNat 32 (s.ctxDesc (s.block (s.group k).block).ctx).traph)) := by
  unfold State.deliverTrap; simp [h, hp]

/-- A trap in a handler, or with none to go to, is lost: the group stops, ctl3 logs it, and its context is killed (R240). -/
theorem State.deliverTrap_lost (s : State) (k : Nat) (t : TrapInfo)
    (h : (s.ctxDesc (s.block (s.group k).block).ctx).traph = 0 ∨ (s.group k).handler ≠ .none) : s.deliverTrap k t = s.loseTrap k t := by
  unfold State.deliverTrap; simp only [h, if_true]

/-- The group whose word traps, before the trap is taken. -/
def Group.raised (g : Group) (t : TrapInfo) : Group := { g with sync := some t, waiting := .nothing, arrived := false, stuck := none, walked := [], probed := none }

/-- A word that traps answers a next state: a group that is settled outside handlers, with no asynchronous trap before it and a trap
handler to go to, is in that handler, and nothing else has changed (R240, R241). -/
theorem raise_enters (t : TrapInfo) (s : State) (hs : s.issuing.settled s.clock = true) (hh : s.issuing.handler = .none) (ha : s.issuing.async = [])
    (hp : (s.ctxDesc s.issuingBlock.ctx).traph ≠ 0) :
    ∃ u, raise t s = .next u ∧
      u.group s.iss.group = (s.issuing.raised t).enterTrap t (BitVec.ofNat 32 (s.ctxDesc s.issuingBlock.ctx).traph) ∧
      keepsOthers s.iss.group s u ∧ u.entries = s.entries := by
  let v : State := { s.setGroup s.iss.group (s.issuing.raised t) with iss := { s.iss with issued := true } }
  have hg : v.group s.iss.group = s.issuing.raised t := by
    change (s.setGroup s.iss.group (s.issuing.raised t)).group s.iss.group = _
    rw [State.group_setGroup, if_pos rfl]
  have hd : v.boundaryTrap s.iss.group = v.deliverTrap s.iss.group t := by
    unfold State.boundaryTrap
    rw [hg]
    have h1 : (s.issuing.raised t).settled v.clock = true := hs
    have h2 : (s.issuing.raised t).handler = .none := hh
    have h3 : (s.issuing.raised t).async = [] := ha
    have h4 : (s.issuing.raised t).sync = some t := rfl
    simp only [h1, h2, h3, h4, if_true, lowestTrap]
  have hb : (v.ctxDesc (v.block (v.group s.iss.group).block).ctx).traph = (s.ctxDesc s.issuingBlock.ctx).traph := by rw [hg]; rfl
  refine ⟨v.boundaryTrap s.iss.group, rfl, ?_, ?_, ?_⟩ <;> rw [hd, v.deliverTrap_enters _ _ (by rw [hg]; exact hh) (by rw [hb]; exact hp)]
  · rw [State.group_setGroup, if_pos rfl, hb, hg]
  · exact keepsOthers_trans (keepsOthers_setGroup _ s _) (keepsOthers_setGroup _ v _)
  · exact (State.setGroup_entries v _ _).trans (State.setGroup_entries s s.iss.group (s.issuing.raised t))

end Sys2Proof.Machine
end

