-- ==== Sys2Proof/Tests/Slice0.lean ====
section
/-! SUPPORT. Tests: words that the spec writes out, terms that well-formedness refuses, worked examples of the spec, and for every statement
with hypotheses a state and operands that meet them. -/

namespace Sys2Proof.Tests

open Sys2Proof.Machine Sys2Proof.Claim

set_option Elab.async false

/-! ### Decoding (the words of R336 and of the examples of each rule) -/

theorem test_decode_lane_integer :
    decodeWord 0x04080203 = .ok (.imulh (.reg 8) (.reg 2) (.reg 3)) ∧ decodeWord 0x06090203 = .ok (.imac (.reg 9) (.reg 2) (.reg 3)) ∧
    decodeWord 0x13020300 = .ok (.popc (.reg 2) (.reg 3)) ∧ decodeWord 0x1A01C000 = .ok (.mov (.reg 1) (.ch true 0)) ∧
    decodeWord 0x1C03030C = .ok (.iaddi (.reg 3) (.reg 3) 12) ∧ decodeWord 0x21040503 = .ok (.shri (.reg 4) (.reg 5) 3) ∧
    decodeWord 0x25021234 = .ok (.movhi (.reg 2) 0x1234) ∧ decodeWord 0x274A0405 = .ok (.ncmp 2 5 (.reg 4) (.reg 5)) ∧
    decodeWord 0x286E0606 = .ok (.fcmp 3 7 (.reg 6) (.reg 6)) := ⟨rfl, rfl, rfl, rfl, rfl, rfl, rfl, rfl, rfl⟩

theorem test_decode_lane_float :
    decodeWord 0x2A040506 = .ok (.fadd (.reg 4) (.reg 5) (.reg 6)) ∧ decodeWord 0x30030400 = .ok (.fabs (.reg 3) (.reg 4)) ∧
    decodeWord 0x38040506 = .ok (.bfma2 (.reg 4) (.reg 5) (.reg 6)) ∧ decodeWord 0x390203A9 = .ok (.cvt (.reg 2) (.reg 3) 10 9) ∧
    decodeWord 0x3B0A0450 = .ok (.cvtn (.reg 10) (.reg 4) 5 0) ∧ decodeWord 0x3C080903 = .ok (.rsq (.reg 8) (.reg 9)) :=
  ⟨rfl, rfl, rfl, rfl, rfl, rfl⟩

theorem test_decode_cross_lane :
    decodeWord 0x3E040506 = .ok (.shflu (.reg 4) (.reg 5) (.reg 6)) ∧ decodeWord 0x41040506 = .ok (.shflw (.reg 4) (.reg 5) 6) ∧
    decodeWord 0x42030201 = .ok (.voteb (.reg 3) (.reg 2) (.reg 1)) ∧ decodeWord 0x43070605 = .ok (.lred (.reg 7) (.reg 6) 0 5) ∧
    decodeWord 0x45010000 = .ok (.lsrLaneid (.reg 1)) ∧ decodeWord 0x45020301 = .ok (.lsrLpc (.reg 2) (.reg 3)) :=
  ⟨rfl, rfl, rfl, rfl, rfl, rfl⟩

theorem test_decode_lane_memory :
    decodeWord 0x460A0223 = .ok (.obld (.reg 10) (.reg 2) 2 3) ∧ decodeWord 0x48060442 = .ok (.ldl (.reg 6) (.reg 4) 2 2) ∧
    decodeWord 0x4A02041F = .ok (.ldg (.reg 2) (.reg 4) 0 31) ∧ decodeWord 0x4C080282 = .ok (.lds (.reg 8) (.reg 2) 4 2) ∧
    decodeWord 0x4F050321 = .ok (.stw (.reg 5) (.reg 3) 1 1) ∧ decodeWord 0x50070143 = .ok (.ldp (.reg 7) (.reg 1) 2 3) ∧
    decodeWord 0x52098040 = .ok (.ldc (.reg 9) (.ch false 0) 2 0) ∧ decodeWord 0x5407044B = .ok (.str (.reg 7) (.reg 4) 2 1 3) :=
  ⟨rfl, rfl, rfl, rfl, rfl, rfl, rfl, rfl⟩

theorem test_decode_atomics :
    decodeWord 0x5B060407 = .ok (.anmin (.reg 6) (.reg 4) (.reg 7)) ∧ decodeWord 0x61060207 = .ok (.acas (.reg 6) (.reg 2) (.reg 7)) ∧
    decodeWord 0x64060408 = .ok (.aadd64 (.reg 6) (.reg 4) (.reg 8)) ∧ decodeWord 0x6A000409 = .ok (.ror (.reg 4) (.reg 9)) ∧
    decodeWord 0x6B000602 = .ok (.skq (.reg 6) (.reg 2)) := ⟨rfl, rfl, rfl, rfl, rfl⟩

theorem test_decode_lane_control :
    decodeWord 0x6F000005 = .ok (.bra 0 false 5) ∧ decodeWord 0x6F400000 = .ok (.bra 2 false 0) ∧ decodeWord 0x70000000 = .ok .join ∧
    decodeWord 0x71000000 = .ok .exit ∧ decodeWord 0x72000500 = .ok (.brx (.reg 5)) := ⟨rfl, rfl, rfl, rfl, rfl⟩

theorem test_decode_uniform_arithmetic :
    decodeWord 0x80000000 = .ok .nop ∧ decodeWord 0x840C1C40 = .ok (.smulh (.reg 6) (.reg 7) (.reg 8)) ∧
    decodeWord 0x8E020700 = .ok (.snmax (.reg 1) (.reg 1) (.ch true 0)) ∧
    decodeWord 0x90060FFF = .ok (.saddi (.reg 3) (.reg 3) (-1)) ∧ decodeWord 0x92060C20 = .ok (.sshli (.reg 3) (.reg 3) 32) ∧
    decodeWord 0x95041234 = .ok (.smovh (.reg 2) 0x1234) ∧ decodeWord 0x960A1803 = .ok (.slea (.reg 5) (.reg 6) 3) :=
  ⟨rfl, rfl, rfl, rfl, rfl, rfl, rfl⟩

theorem test_decode_uniform_memory_and_masks :
    decodeWord 0x980A0901 = .ok (.sstl (.reg 5) (.reg 2) 2 1) ∧ decodeWord 0x9B0E0104 = .ok (.sldc (.reg 7) (.reg 0) 2 4) ∧
    decodeWord 0x9E020818 = .ok (.mand 1 2 3) ∧ decodeWord 0xA2080000 = .ok (.m2s (.reg 4) 0) ∧
    decodeWord 0xA3061400 = .ok (.s2m 3 (.reg 5)) ∧ decodeWord 0xA6061000 = .ok (.s2v 3 (.reg 4)) := ⟨rfl, rfl, rfl, rfl, rfl, rfl⟩

theorem test_decode_uniform_control :
    decodeWord 0xA7000004 = .ok (.br 4) ∧ decodeWord 0xAA00000A = .ok (.call 10) ∧ decodeWord 0xAD000001 = .ok (.dly 1) ∧
    decodeWord 0xAF000002 = .ok (.bara 2) ∧ decodeWord 0xB20E0001 = .ok (.barst (.reg 7) 1) ∧ decodeWord 0xB5000001 = .ok (.waitc 0 1) ∧
    decodeWord 0xB6000023 = .ok (.fence true 0 3) := ⟨rfl, rfl, rfl, rfl, rfl, rfl, rfl⟩

theorem test_decode_engines :
    decodeWord 0xBE081430 = .ok (.gather (.reg 4) (.reg 5) (.reg 6)) ∧ decodeWord 0xBF402040 = .ok (.mma 32 8 1 false false false false) ∧
    decodeWord 0xC0401064 = .ok (.mst 32 (.reg 4) 1 4 true false) ∧ decodeWord 0xC1101000 = .ok (.obres 1 (.reg 4)) ∧
    decodeWord 0xC60C0801 = .ok (.skdrd (.reg 6) (.reg 2) 1) ∧ decodeWord 0xC7000818 = .ok (.skinit (.reg 2) (.reg 3) 0 0) :=
  ⟨rfl, rfl, rfl, rfl, rfl, rfl⟩

theorem test_decode_system :
    decodeWord 0xCA000000 = .ok .detach ∧ decodeWord 0xCB000000 = .ok .yield ∧ decodeWord 0xD0001800 = .ok (.trec (.reg 6)) ∧
    decodeWord 0xD1000800 = .ok (.cacheL1inv (.reg 2)) ∧ decodeWord 0xD2000800 = .ok (.pref (.reg 2) 0) := ⟨rfl, rfl, rfl, rfl, rfl⟩

/-! ### Words and terms that are none (R326) -/

theorem test_decode_reserved :
    decodeWord 0x1B000000 = .error .reservedOpcode ∧ decodeWord 0x73000000 = .error .reservedOpcode ∧
    decodeWord 0xD3000000 = .error .reservedOpcode ∧ decodeWord 0x480604A2 = .error .reservedCode ∧
    decodeWord 0x0105A607 = .error .reservedBits ∧ decodeWord 0x13020301 = .error .unusedField ∧
    decodeWord 0x26040302 = .error .maskZero ∧ decodeWord 0x48060542 = .error .registerGroup := ⟨rfl, rfl, rfl, rfl, rfl, rfl, rfl, rfl⟩

theorem test_ill_formed_operands :
    Instr.defect (.iadd (.reg 128) (.reg 0) (.reg 0)) = some .outOfField ∧ Instr.defect (.iadd (.reg 0) (.ch false 16) (.reg 0)) = some .outOfField ∧
    Instr.defect (.mov (.push 16) (.reg 0)) = some .outOfField ∧ Instr.defect (.sadd (.reg 64) (.reg 0) (.reg 0)) = some .outOfField ∧
    Instr.defect (.saddi (.reg 0) (.ch true 16) 0) = some .outOfField ∧ Instr.defect (.radd (.reg 128) (.reg 0)) = some .outOfField ∧
    Instr.defect (.mand 1 8 0) = some .outOfField ∧ Instr.defect (.dly 1024) = some .outOfField ∧
    Instr.defect (.waitc 4 0) = some .outOfField ∧ Instr.defect (.trap 256) = some .outOfField ∧
    Instr.defect (.obrel 16) = some .outOfField ∧ Instr.defect (.pref (.reg 0) 2) = some .outOfField ∧
    Instr.defect (.pref (.ch true 0) 0) = some .channelPlace :=
  ⟨rfl, rfl, rfl, rfl, rfl, rfl, rfl, rfl, rfl, rfl, rfl, rfl, rfl⟩

theorem test_ill_formed_codes :
    Instr.defect (.pfx { mask := 0, z := false, neg := false, rnd := 6, vc := .reg 0, space := 0, scope := 0, order := 0, sat := false }) =
      some .reservedCode ∧
    Instr.defect (.icmp 1 6 (.reg 0) (.reg 0)) = some .reservedCode ∧ Instr.defect (.cvt (.reg 0) (.reg 0) 3 3) = some .reservedCode ∧
    Instr.defect (.cvtpk (.reg 0) (.reg 0) 9 0) = some .reservedCode ∧ Instr.defect (.cvtn (.reg 0) (.reg 0) 1 0) = some .reservedCode ∧
    Instr.defect (.ldl (.reg 0) (.reg 0) 5 0) = some .reservedCode ∧ Instr.defect (.lda (.reg 0) (.reg 0) 2 0 6) = some .reservedCode ∧
    Instr.defect (.sldl (.reg 0) (.reg 0) 4 0) = some .reservedCode ∧ Instr.defect (.scmp (.reg 0) (.reg 0) (.reg 0) 6) = some .reservedCode ∧
    Instr.defect (.fence false 3 3) = some .reservedCode ∧ Instr.defect (.mst 0 (.reg 0) 0 6 false false) = some .reservedCode ∧
    Instr.defect (.skqrd (.reg 0) (.reg 0) (.reg 0) 2) = some .reservedCode ∧ Instr.defect (.srr (.reg 0) 0x00B) = some .reservedCode :=
  ⟨rfl, rfl, rfl, rfl, rfl, rfl, rfl, rfl, rfl, rfl, rfl, rfl, rfl⟩

theorem test_ill_formed_bits :
    Instr.defect (.shli (.reg 0) (.reg 0) 32) = some .reservedBits ∧ Instr.defect (.shfli (.reg 0) (.reg 0) 128) = some .reservedBits ∧
    Instr.defect (.shflw (.reg 0) (.reg 0) 8) = some .reservedBits ∧ Instr.defect (.sshli (.reg 0) (.reg 0) 64) = some .reservedBits ∧
    Instr.defect (.mma 0 8 0 false false true false) = some .unusedField := ⟨rfl, rfl, rfl, rfl, rfl⟩

theorem test_ill_formed_groups :
    Instr.defect (.ldl (.reg 1) (.reg 0) 3 0) = some .registerGroup ∧ Instr.defect (.ldl (.reg 2) (.reg 0) 4 0) = some .registerGroup ∧
    Instr.defect (.ldl (.reg 0) (.reg 1) 2 0) = some .registerGroup ∧ Instr.defect (.aadd64 (.reg 1) (.reg 0) (.reg 0)) = some .registerGroup ∧
    Instr.defect (.cvtpk (.reg 0) (.reg 1) 3 0) = some .registerGroup ∧ Instr.defect (.cvtn (.reg 1) (.reg 0) 3 0) = some .registerGroup ∧
    Instr.defect (.mma 4 0 0 false false false false) = some .registerGroup ∧ Instr.defect (.mst 4 (.reg 0) 0 0 false false) = some .registerGroup ∧
    Instr.defect (.skhrd (.reg 3) (.reg 0) (.reg 0) 0) = some .registerGroup := ⟨rfl, rfl, rfl, rfl, rfl, rfl, rfl, rfl, rfl⟩

theorem test_ill_formed_channels :
    Instr.defect (.movhi (.push 0) 0) = some .channelPlace ∧ Instr.defect (.lds (.push 0) (.reg 0) 3 0) = some .channelPlace ∧
    Instr.defect (.ldl (.reg 0) (.ch false 0) 2 0) = some .channelPlace ∧ Instr.defect (.aadd (.push 0) (.reg 0) (.reg 0)) = some .channelPlace ∧
    Instr.defect (.smovh (.push 0) 0) = some .channelPlace ∧ Instr.defect (.sldl (.reg 0) (.ch true 0) 2 0) = some .channelPlace ∧
    Instr.defect (.slds (.push 0) (.reg 0) 3 0) = some .channelPlace ∧ Instr.defect (.ssts (.ch true 0) (.reg 0) 2 0) = some .channelPlace ∧
    Instr.defect (.saadd (.push 0) (.reg 0) (.reg 0) 0 0) = some .channelPlace ∧ Instr.defect (.skhrd (.push 0) (.reg 0) (.reg 0) 0) = some .channelPlace ∧
    Instr.defect (.icmp 0 0 (.reg 0) (.reg 0)) = some .maskZero ∧ Instr.defect (.s2m 0 (.reg 0)) = some .maskZero :=
  ⟨rfl, rfl, rfl, rfl, rfl, rfl, rfl, rfl, rfl, rfl, rfl, rfl⟩

/-! ### States for the witnesses -/

/-- A lane that RUNs at offset 0. -/
def lane0 : Lane := { Lane.empty with st := .run }

/-- A group with one live lane. -/
def grp : Group := { Group.empty with resident := true, lanes := [(0, lane0)] }

/-- A block of 64 KiB of scratchpad that holds it. -/
def blk : Block := { Block.empty with resident := true, groups := [0], regs := 128, scr := 65536, obg := 16, started := true, fresh := false }

/-- The group's lane is being issued, in a context with handlers, on a module that runs. -/
def busy : State :=
  { State.reset with
    groups := [(0, grp)], blocks := [(0, blk)],
    ctxs := [(0, { CtxDesc.empty with state := 1, traph := 4096, saveh := 4352, resth := 4608 })],
    ctl := { State.reset.ctl with phase := .running },
    iss := { State.reset.iss with sel := [0] } }

def withGroup (g : Group) : State := { busy with groups := [(0, g)] }
def withBlock (b : Block) : State := { busy with blocks := [(0, b)] }

theorem sel_lanes (s : State) (h : s.iss.sel = [0]) : lanesOk s := by
  constructor <;> rw [h] <;> decide

theorem busy_lanes : lanesOk busy := sel_lanes _ rfl

/-! ### Witnesses: lane words -/

theorem test_meets_IntegerWordsComplete :
    (∃ f, arithForm busy (.iadd (.reg 127) (.reg 0) (.reg 127)) = some f ∧ lanesOk busy ∧ laneReady f.acc f.uses busy = true) ∧
    ∃ f, logicForm busy (.shl (.reg 0) (.reg 127) (.reg 1)) = some f ∧ lanesOk busy ∧ laneReady f.acc f.uses busy = true :=
  ⟨⟨_, rfl, busy_lanes, by decide⟩, ⟨_, rfl, busy_lanes, by decide⟩⟩

theorem test_meets_FloatWordsComplete :
    (∃ f, floatForm busy (.fadd (.reg 127) (.reg 0) (.reg 1)) = some f ∧ lanesOk busy ∧ laneReady f.acc f.uses busy = true) ∧
    ∃ f, sfuForm (.tanh (.reg 0) (.reg 127)) = some f ∧ lanesOk busy ∧ laneReady f.acc f.uses busy = true :=
  ⟨⟨_, rfl, busy_lanes, by decide⟩, ⟨_, rfl, busy_lanes, by decide⟩⟩

theorem test_meets_CrossLaneWordsComplete :
    ∃ f, crossForm busy (.shfli (.reg 127) (.reg 0) 127) = some f ∧ lanesOk busy ∧ laneReady f.acc f.uses busy = true :=
  ⟨_, rfl, busy_lanes, by decide⟩

theorem test_meets_ComparesComplete :
    ∃ c, compareForm (.icmp 7 5 (.reg 127) (.reg 0)) = some (7, .reg 127, .reg 0, c) ∧ lanesOk busy ∧
      laneReady accPlain (compareUses (.reg 127) (.reg 0)) busy = true := ⟨_, rfl, busy_lanes, by decide⟩

theorem test_meets_PairResultsComplete :
    (thirdSrc busy (.reg 126) = some (.reg 126) ∧ lanesOk busy ∧ laneReady { accRound with vc := true }
      (fun act => { laneUses (.reg 126) (groupSrcs 124 4 ++ [.reg 126]) act with
        writeV := act.flatMap (fun l => [(126, l), (127, l)]) }) busy = true) ∧
    laneReady accPlain (fun act => { noUses with
      readV := act.flatMap (fun l => (fusedReads 20 20 10 21 10 21 21 22).map (fun r => (r, l))),
      writeV := act.flatMap (fun l => [20, 21, 21, 22].map (fun r => (r, l))) }) busy = true :=
  ⟨⟨rfl, busy_lanes, by decide⟩, by decide⟩

theorem test_meets_LaneLoadsComplete :
    loadTable (.lds (.reg 127) (.reg 0) 2 31) = some (plainWord .scratch 2 0x4C, .reg 127, .reg 0, 124) ∧
    (loadForm (plainWord .scratch 2 0x4C) (.reg 127) (.reg 0) 124).passes busy true := ⟨rfl, busy_lanes, by decide, fun _ => by decide⟩

theorem test_meets_LaneStoresComplete :
    storeTable (.sts (.reg 127) (.reg 1) 2 31) = some (plainWord .scratch 2 0x4D, .reg 127, .reg 1, 124) ∧
    (storeForm (plainWord .scratch 2 0x4D) (.reg 127) (.reg 1) 124).passes (busy.setGroup 0 (grp.setVreg 1 0 0xFF80)) false :=
  ⟨rfl, sel_lanes _ rfl, by decide, fun _ => by decide⟩

/-- The lane register that addresses, v1, and the value under it. -/
def addressed (x : Word) : State := withGroup (grp.setVreg 1 0 x)

/-- A prefix that names a space. -/
def spacePfx (n : Nat) : Pfx :=
  { mask := 0, z := false, neg := false, rnd := 0, vc := .reg 0, space := n, scope := 2, order := 0, sat := false }

def prefixed (p : Pfx) (s : State) : State := { s with iss := { s.iss with pfx := some p } }

theorem test_meets_LaneAtomicsComplete :
    (let s := prefixed (spacePfx 2) (addressed 0xFFFC)
     atomTable (.aadd (.reg 127) (.reg 1) (.reg 0)) = some (.add, 2, 0x55, 127, .reg 1, .reg 0) ∧
     baseOk (prefixWord s 2 0x55).space (.reg 1) = true ∧
     (atomForm .add (prefixWord s 2 0x55) 127 (.reg 1) (.reg 0)).passes s true) ∧
    (let s := prefixed (spacePfx 2) (addressed 0x300)
     reduceTable (.ror (.reg 1) (.reg 127)) = some (.or, 0x6A, .reg 1, .reg 127) ∧
     baseOk (prefixWord s 2 0x6A).space (.reg 1) = true ∧
     (reduceForm .or (prefixWord s 2 0x6A) (.reg 1) (.reg 127)).passes s false) :=
  ⟨⟨rfl, rfl, sel_lanes _ rfl, by decide, fun _ => by decide⟩, ⟨rfl, rfl, sel_lanes _ rfl, by decide, fun _ => by decide⟩⟩

theorem test_meets_ConstantLoadsComplete :
    (lanesOk (addressed 0xFFF0) ∧ laneReady accPlain (loadUses (.reg 124) 4 [.reg 1]) (addressed 0xFFF0) = true ∧
      ∀ l ∈ actLanes (addressed 0xFFF0), bankCond ((addressed 0xFFF0).grid 0) (2 ^ 4) (addrOf false (0 * 2 ^ 4) ((sourcesOf [.reg 1] (addressed 0xFFF0)).1.map (fun x => x l))) = none) ∧
    (lanesOk busy ∧ uniReady (uniUses (some (.reg 63)) [.reg 0]) busy = true ∧
      bankCond (busy.grid 0) (2 ^ 3) (uniAddr false (readU (.reg 0) (opened busy)).1 (127 * 2 ^ 3)) = none) :=
  ⟨⟨sel_lanes _ rfl, by decide, by decide⟩, ⟨busy_lanes, by decide, by decide⟩⟩

/-- A block whose scratchpad holds an empty AMX object at 0x300. -/
def amxBlk : Block := { blk with spad := writeBytes [] 0x300 (initialImage .amx 0) }

theorem test_meets_SummaryInsertsComplete :
    (let s := (addressed 0x300).setBlock 0 amxBlk
     insertTable (.ska (.reg 0) (.reg 1)) = some (.amx, .reg 0, .reg 1) ∧ lanesOk s ∧
     laneReady accPlain (storeUses [.reg 0, .reg 1]) s = true ∧ actLanes s ≠ [] ∧ insertPasses .amx (.reg 0) (.reg 1) s) :=
  ⟨rfl, sel_lanes _ rfl, by decide, by decide, by unfold insertPasses; decide⟩

/-- A block with one granule of the operand buffer in ob15. -/
def heldBlk : Block := { blk with handles := [(15, { start := 0, gran := 1, record := readBytes [] 0 64 })] }

theorem test_meets_OperandBufferWordsComplete :
    (let s := (addressed 4092).setBlock 0 heldBlk
     lanesOk s ∧ pfxOk accStore s.iss.pfx = true ∧ convergedAt s = true ∧ laneReady accStore (storeUses (.reg 1 :: dataSrcs 2 (.reg 127))) s = true ∧
     actLanes s ≠ [] ∧ ∃ r, obPasses 15 2 (obAccesses (.reg 1 :: dataSrcs 2 (.reg 127)) s) r s) ∧
    (let s := (addressed 0).setBlock 0 heldBlk
     lanesOk s ∧ pfxOk accPlain s.iss.pfx = true ∧ convergedAt s = true ∧ laneReady accPlain (loadUses (.reg 124) 4 [.reg 1]) s = true ∧
     actLanes s ≠ [] ∧ ∃ r, obPasses 15 4 (obAccesses [.reg 1] s) r s ∧
     obPoisoned s.issuingBlock r.base (2 ^ 4) (obAccesses [.reg 1] s) = [] ∧ s.issuing.bad.contains .obRead = false) :=
  ⟨⟨sel_lanes _ rfl, rfl, by decide, by decide, by decide, _, rfl, by decide⟩,
   ⟨sel_lanes _ rfl, rfl, by decide, by decide, by decide, _, ⟨rfl, by decide⟩, by decide, by decide⟩⟩

theorem test_meets_LaneBranchesComplete :
    busy.iss.pfx = none ∧
    (lanesOk busy ∧ ready false { noUses with readM := busy.iss.sel.map (fun l => (7, l)) } busy = true) ∧
    (laneReady accStore (storeUses [.reg 127]) busy = true ∧
      ∀ l ∈ actLanes busy, (((sourcesOf [.reg 127] busy).1.headD (fun _ => 0)) l).toNat % 4 = 0) :=
  ⟨rfl, ⟨busy_lanes, by decide⟩, by decide, by decide⟩

/-- A second lane that RUNs elsewhere. -/
def apartGrp : Group := grp.setLane 63 { lane0 with pc := 8 }

/-- A second lane, and one more, HELD elsewhere. -/
def stuckGrp : Group := grp.setLane 63 { lane0 with pc := 8, st := .held }
def tornGrp : Group := stuckGrp.setLane 62 { lane0 with pc := 16, st := .held }

theorem test_meets_JoinAndExitComplete_held :
    (let s := withGroup stuckGrp
     lanesOk s ∧ pfxOk accNone s.iss.pfx = true ∧ unheld s = [] ∧ canTrap s ∧ (∀ l ∈ s.iss.sel, (s.issuing.lane l).st = .run) ∧
     lowestPc 0 s.issuing.liveLanes s.issuing ∧ ∃ l ∈ s.issuing.liveLanes, (s.issuing.lane l).pc ≠ 0) ∧
    (let s := withGroup stuckGrp
     laneReady accStore (fun _ => noUses) s = true ∧ left s ≠ [] ∧ ∀ l ∈ left s, (s.issuing.lane l).st = .held ∧ (s.issuing.lane l).pc = 8) ∧
    (let s := withGroup tornGrp
     lanesOk s ∧ laneReady accStore (fun _ => noUses) s = true ∧ canTrap s ∧ (∀ l ∈ left s, (s.issuing.lane l).st = .held) ∧
     lowestPc 8 (left s) s.issuing ∧ ∃ l ∈ left s, (s.issuing.lane l).pc ≠ 8) := by
  refine ⟨⟨sel_lanes _ rfl, ?_⟩, ?_, ⟨sel_lanes _ rfl, ?_⟩⟩ <;> first | decide | (unfold canTrap lowestPc; decide +kernel)

theorem test_meets_JoinAndExitComplete :
    (lanesOk (withGroup apartGrp) ∧ pfxOk accNone (withGroup apartGrp).iss.pfx = true ∧ unheld (withGroup apartGrp) ≠ []) ∧
    (pfxOk accNone busy.iss.pfx = true ∧ unheld busy = [] ∧ busy.iss.sel ≠ [] ∧ (∀ l ∈ busy.iss.sel, (busy.issuing.lane l).st = .run) ∧
      ∀ l ∈ busy.issuing.liveLanes, (busy.issuing.lane l).pc = busy.iss.pc) ∧
    (laneReady accStore (fun _ => noUses) busy = true ∧ left busy = []) ∧
    (laneReady accStore (fun _ => noUses) (withGroup apartGrp) = true ∧
      ∃ l ∈ left (withGroup apartGrp), ((withGroup apartGrp).issuing.lane l).st ≠ .held) :=
  ⟨⟨sel_lanes _ rfl, rfl, by decide⟩, ⟨rfl, by decide, by decide, by decide, by decide⟩, ⟨by decide, by decide⟩, by decide, 63, by decide, by decide⟩

/-! ### Witnesses: uniform words -/

theorem test_meets_UniformWordsComplete :
    ∃ f, uniTable busy (.sadd (.reg 63) (.reg 0) (.reg 62)) = some f ∧ lanesOk busy ∧ uniReady f.uses busy = true :=
  ⟨_, rfl, busy_lanes, by decide⟩

theorem test_meets_MaskWordsComplete :
    (∃ f, maskTable (.mand 1 0 7) = some (1, 0, 7, f) ∧ lanesOk busy ∧ uniReady { noUses with readM := maskUse 0 ++ maskUse 7 } busy = true) ∧
    uniReady (uniUses none [.reg 63]) busy = true ∧
    uniReady { uniUses none [.reg 0] with writeV := busy.iss.sel.map (fun l => (127, l)) } busy = true :=
  ⟨⟨_, rfl, busy_lanes, by decide⟩, by decide, by decide⟩

/-- s2 holds an address. -/
def based (x : DWord) : State := withGroup { grp with s := [(2, x)] }

theorem test_meets_UniformMemoryComplete :
    (uniLoadTable (.slds (.reg 63) (.reg 2) 3 1) = some (uniPlain .scratch 3 0x19, .reg 63, .reg 2, 8) ∧ lanesOk (based 0xFFF0) ∧
      uniReady (uniUses (some (.reg 63)) [.reg 2]) (based 0xFFF0) = true ∧
      uniPasses ((uniPlain .scratch 3 0x19).use false false) (uniAddr false (readU (.reg 2) (opened (based 0xFFF0))).1 8) true (based 0xFFF0)) ∧
    (uniStoreTable (.ssts (.reg 0) (.reg 2) 2 0) = some (uniPlain .scratch 2 0x1A, .reg 0, .reg 2, 0) ∧
      uniReady (uniUses none [.reg 2, .reg 0]) (based 0x300) = true ∧
      uniPasses ((uniPlain .scratch 2 0x1A).use true false) (uniAddr false ((readUs [.reg 2, .reg 0] (opened (based 0x300))).1.getD 0 0) 0) false (based 0x300)) ∧
    (uniAtomTable (.sacas (.reg 63) (.reg 2) (.reg 0) 1 2) = some (.cas, uniAtomWord 2 1 0x3A, .reg 63, .reg 2, .reg 0) ∧
      uniReady (uniUses (some (.reg 63)) ([.reg 2, .reg 0] ++ [dstSrc (.reg 63)])) (based 0x300) = true ∧
      uniPasses ((uniAtomWord 2 1 0x3A).use true true) (uniAddr false ((readUs [.reg 2, .reg 0] (opened (based 0x300))).1.getD 0 0) 0) true (based 0x300)) ∧
    (uniReady (uniUses (some (.reg 63)) [.reg 2, .reg 0]) (based 0) = true ∧
      uniPasses ((uniPlain (spaceOf 2) (2 + 0) 0x37).use false true)
        (uniAddr (spaceOf 2).wide ((readUs [.reg 2, .reg 0] (opened (based 0))).1.getD 0 0) 0) true (based 0)) := by
  refine ⟨⟨rfl, sel_lanes _ rfl, ?_, ?_⟩, ⟨rfl, ?_, ?_⟩, ⟨rfl, ?_, ?_⟩, ⟨?_, ?_⟩⟩ <;> first | decide | (unfold uniPasses; decide)

theorem test_meets_CacheWordsComplete :
    lanesOk busy ∧ uniReady (uniUses none [.reg 63]) busy = true ∧
    (let s := { busy with groups := busy.groups.map (fun p => (p.1, { p.2 with probed := some (0, none) })) }
     lanesOk s ∧ uniReady (uniUses none [.reg 63]) s = true ∧ s.probe s.iss.group (readU (.reg 63) (opened s)).1.toNat ≠ none ∧
     ∀ n, lineQueued s s.iss.group n = false) ∧
    busy.probe busy.iss.group (readU (.reg 63) (opened busy)).1.toNat = none ∧ prefVa busy 0 0 = some 0 :=
  ⟨busy_lanes, by decide, ⟨sel_lanes _ rfl, by decide, by decide, fun _ => rfl⟩, by decide, rfl⟩

theorem test_meets_UniformBranchesComplete :
    (∃ f, branchTable (.call (-1)) = some f ∧ lanesOk busy ∧ uniReady f.uses busy = true ∧ f.aligned (readUs f.srcs (opened busy)).1 = true) ∧
    (∃ f, branchTable .ret = some f ∧ uniReady f.uses busy = true ∧ f.aligned (readUs f.srcs (opened busy)).1 = true) ∧
    uniReady noUses busy = true := ⟨⟨_, rfl, busy_lanes, by decide, by decide⟩, ⟨_, rfl, by decide, by decide⟩, by decide⟩

theorem test_meets_StatusWritesComplete :
    (lanesOk (based 4) ∧ uniReady (uniUses none [.reg 2]) (based 4) = true ∧ (readU (.reg 2) (opened (based 4))).1.toNat % 8 < 5) ∧
    (let s := (based 0x1FFFFFFFC).setBlock 0 { blk with frozen := true }
     lanesOk s ∧ uniReady (uniUses none [.reg 2]) s = true ∧ restoreOnly 0x13F = true ∧ s.issuingBlock.frozen = true ∧
     statusValueOk s.issuingBlock 0x13F (readU (.reg 2) (opened s)).1 = true) :=
  ⟨⟨sel_lanes _ rfl, by decide, by decide⟩, sel_lanes _ rfl, by decide, by decide, by decide, by decide⟩

theorem test_meets_SoftwareTrapEnters : lanesOk busy ∧ uniReady noUses busy = true ∧ canTrap busy :=
  ⟨busy_lanes, by decide, by unfold canTrap; decide⟩

/-- A group in a trap handler: its record is of one lane at PC 16, where the lane's shadow stands. -/
def trapped : Group :=
  { grp with handler := .trap, lanes := [(0, { lane0 with shPc := 16 })], trec := [(0, 0x1000000010), (1, 1)] }

/-- Two groups of one block, in a handler. -/
def pair (h : Handler) (b : Block) : State :=
  { busy with groups := [(0, { grp with handler := h }), (1, grp)], blocks := [(0, { b with groups := [0, 1] })] }

theorem test_meets_HandlerReturnsComplete :
    (let s := withGroup { trapped with trec := [(0, 0x1000000410), (1, 1)] }
     uniReady noUses s = true ∧ s.issuing.handler = .trap ∧ (s.issuing.lane 0).shSt = .run ∧ s.issuing.trecWord 0 >>> 8 &&& 4 ≠ 0) ∧
    ((withGroup trapped).issuing.trecWord 0 >>> 8 &&& 4 = 0 ∧ 0 ∈ lanesOf ((withGroup trapped).issuing.trecWord 1) ∧
      ((withGroup trapped).issuing.lane 0).shPc = ((withGroup trapped).issuing.trecWord 0 >>> 32).truncate 32) ∧
    (let s := pair .save blk
     uniReady noUses s = true ∧ s.issuing.handler = .save ∧ ∃ p ∈ unitHere s, ∃ k ∈ p.2.groups, k ≠ s.iss.group ∧ (s.group k).savedOrEnded = false) ∧
    (let s := withGroup { grp with handler := .save }
     uniReady noUses s = true ∧ s.issuing.handler = .save ∧ unitHere s ≠ [] ∧
     ∀ p ∈ unitHere s, ∀ k ∈ p.2.groups, k = s.iss.group ∨ (s.group k).savedOrEnded = true) ∧
    (let s := pair .restore blk
     uniReady noUses s = true ∧ s.issuing.handler = .restore ∧
     ∃ k ∈ s.issuingBlock.groups, k ≠ s.iss.group ∧ (s.group k).ended = false ∧ (s.group k).handler ≠ .restored) ∧
    (∀ h ∈ [false, true], let s := withGroup { grp with handler := .restore, hf1 := h, lanes := [(0, { lane0 with shSt := .run })], trec := [(0, 5)] }
     uniReady noUses s = true ∧ s.issuing.handler = .restore ∧ s.issuingBlock.groups.Nodup ∧
     (∀ k ∈ s.issuingBlock.groups, k = s.iss.group ∨ (s.group k).ended = true ∨ (s.group k).handler = .restored) ∧ (s.group 0).hf1 = h ∧
     ((s.group 0).lane 0).shSt = .run ∧ (s.group 0).trecWord 0 % 256 ≠ 0x11) ∧
    (let s := based 0xFFC0
     lanesOk s ∧ uniReady (uniUses none [.reg 2]) s = true ∧ (readU (.reg 2) (opened s)).1.toNat % 2 ^ 32 % 64 = 0 ∧
     (readU (.reg 2) (opened s)).1.toNat % 2 ^ 32 + 64 ≤ s.issuingBlock.scr ∧ 0x300 ≤ (readU (.reg 2) (opened s)).1.toNat % 2 ^ 32) := by
  refine ⟨?_, ?_, ?_, ?_, ⟨?_, rfl, 1, ?_⟩, ?_, ⟨sel_lanes _ rfl, ?_⟩⟩ <;> decide

theorem test_meets_BarrierWordsComplete :
    (let s := (based 65535).setBlock 0 blk
     (15 < 16) ∧ lanesOk s ∧ uniReady (uniUses none [.reg 2]) s = true ∧ barrierIn 15 s ∧ 1 ≤ (readU (.reg 2) (opened s)).1.toNat ∧
     (readU (.reg 2) (opened s)).1.toNat ≤ 65535 ∧ released 2 s) ∧
    (let s := withBlock { blk with spad := [(6, 1)] }
     uniReady noUses s = true ∧ barrierIn 0 s ∧ s.issuingBlock.barExpect 0 ≠ 0 ∧ s.issuing.arrived = false) ∧
    (let s := withBlock { blk with spad := [(0, 1), (6, 1)] }
     uniReady noUses s = true ∧ barrierIn 0 s ∧ s.issuingBlock.barExpect 0 ≠ 0 ∧ barrierPassed 0 s) ∧
    (let s := { withBlock { blk with spad := [(0, 1), (6, 1)] } with groups := [(0, { grp with arrived := true })] }
     uniReady noUses s = true ∧ barrierIn 0 s ∧ s.issuing.arrived = true ∧ barrierPassed 0 s) ∧
    (uniReady (uniUses (some (.reg 63)) []) busy = true ∧ barrierIn 15 busy) := by
  refine ⟨⟨?_, sel_lanes _ rfl, ?_, ?_, ?_, ?_, ?_⟩, ⟨?_, ?_, ?_, ?_⟩, ⟨?_, ?_, ?_, ?_⟩, ⟨?_, ?_, ?_, ?_⟩, ⟨?_, ?_⟩⟩ <;>
    first | decide | (unfold barrierIn; decide) | (unfold barrierPassed; decide) | (unfold released; decide)

theorem test_meets_ChannelAndWaitWordsComplete :
    (let s := based 0x0001000100007FF0
     lanesOk s ∧ uniReady (uniUses none [.reg 2]) s = true ∧ chOff 15 + 16 ≤ s.issuingBlock.scr ∧ released 2 s ∧ s.issuingBlock.groups.Nodup ∧
     chcfgOk (readU (.reg 2) (opened s)).2 s.issuing.block 15 (readU (.reg 2) (opened s)).1.toNat = true) ∧
    (uniReady (uniUses (some (.reg 63)) []) busy = true ∧ chOff 15 + 16 ≤ busy.issuingBlock.scr) ∧
    (uniReady noUses busy = true ∧ busy.issuing.counter 3 ≤ 0) ∧ busy.issuing.mon = .idle ∧
    (withGroup { grp with mon := .fired }).issuing.mon = .fired := by
  refine ⟨⟨sel_lanes _ rfl, ?_, ?_, ?_, ?_, ?_⟩, ⟨?_, ?_⟩, ⟨?_, ?_⟩, rfl, rfl⟩ <;> first | decide | (unfold released; decide)

/-- A page of 1 GiB from virtual address 0 at physical address 0, readable and writable: root, table and leaf (R27 to R29). -/
def mapped (s : State) : State :=
  { s with mem := writeNat (writeNat s.mem 0x10000 8 0x20019) 0x20000 8 7, ctxs := [(0, { s.ctxDesc 0 with root := 0x10000 })] }

/-- A block descriptor at virtual address 64 of a kernel of one word, with no saved image to make room for (R229). -/
def described (s : State) : State :=
  { s with mem := writeNat (writeNat s.mem 72 4 4) 112 8 0x10000000 }

/-- A launch record at 0xFFC0 of the scratchpad that names it. -/
def launcher : State :=
  (described (mapped (based 0xFFC0))).setBlock 0 { blk with spad := writeNat [] 0xFFD8 8 64 }

/-- The record without the descriptor that it names, and with a completion record at virtual address 64. -/
def refused : State :=
  (mapped (based 0xFFC0)).setBlock 0 { blk with spad := writeNat (writeNat [] 0xFFD8 8 64) 0xFFE8 8 64 }

theorem test_meets_LaunchAndDetachComplete :
    (∀ p ∈ [(launcher, none), (refused, some 8)],
     let src := readU (.reg 2) (opened p.1)
     let o := src.1.toNat % 2 ^ 32
     p.1.iss.sel = [0] ∧ uniReady (uniUses none [.reg 2]) p.1 = true ∧ launchable o p.1 ∧ released 5 p.1 ∧
     submitRefusal src.2 (launchPayload p.1.issuingBlock o) = p.2) ∧
    subField (launchPayload refused.issuingBlock 0xFFC0) 56 8 = 64 ∧ ((opened refused).ctlAddr 0 64 32 true).isSome = true ∧
    (∀ d, let s := withBlock { blk with departed := d }
     uniReady noUses s = true ∧ released 5 s ∧ s.issuingBlock.departed = d) ∧
    (let s := (based 0xFFC0).setGroup 0 { grp with s := [(2, 0xFFC0)], rel := some (0, true) }
     uniReady noUses s = true ∧ uniReady (uniUses none [.reg 2]) s = true ∧ launchable ((readU (.reg 2) (opened s)).1.toNat % 2 ^ 32) s ∧
     s.issuing.rel = some (s.iss.pc, true) ∧ canTrap s) := by
  refine ⟨?_, ?_, ?_, ?_, ?_⟩ <;> first | decide +kernel | (unfold launchable released; decide +kernel) | (unfold released; decide +kernel) |
    (unfold launchable canTrap; decide +kernel)

/-! ### Witnesses: engine words -/

/-- A reservation record: granules, A, B and accumulator formats, rows, columns, depth, and the offset of B. -/
def obRec (gran a b acc rows cols boff : Nat) : List Byte :=
  packBytes 64 [(0, 2, gran), (2, 1, a), (3, 1, b), (4, 1, acc), (8, 1, rows), (9, 1, cols), (10, 1, 64), (24, 4, boff),
    (28, 4, 0xFFFFFFFF), (32, 4, 0xFFFFFFFF)]

/-- A tile record: base, format, space, D0, D1 and the record's own rank. -/
def tileRec (base fmt space d0 d1 : Nat) : List Byte :=
  packBytes 64 [(0, 8, base), (8, 1, fmt + 16 * space), (12, 2, d0), (14, 2, d1), (16, 2, 1), (22, 2, 0xFFFF), (60, 2, 1), (62, 2, 1)]

/-- The issuing block with these bytes at 0x300 and these at 0x340, in a grid of one rank; s1 and s2 hold the offsets, and s3 one behind them. -/
def records (x y : List Byte) (b : Block) : State :=
  { withGroup { grp with s := [(1, 0x300), (2, 0x340), (3, 0x380)] } with
    blocks := [(0, { b with spad := writeBytes (writeBytes [] 0x300 x) 0x340 y })],
    tt := { State.reset.tt with grids := [(0, { GridRow.empty with nranks := 1, gsz := 1, bpr := 1 })], rankMap := [(0, [0])] } }

theorem places_ok (s : State) (offs : List Nat) (h : ∀ o ∈ offs, o % 64 = 0 ∧ 0x300 ≤ o ∧ o + 64 ≤ s.issuingBlock.scr ∧
    spadStoreBusy (opened s) s.issuing.block o 64 = false ∧ poisoned s.issuingBlock.spadBad o 64 = false) :
    recordsAt offs (offs.map (fun o => readBytes s.issuingBlock.spad o 64)) s := ⟨h, rfl⟩

theorem ready_of (cls : Option Nat) (conv : Bool) (u : Uses) (s : State) (hs : s.iss.sel = [0]) (hu : uniReady u s = true)
    (hc : convergedAt s = true) (hn : ∀ c, s.issuing.counter c < 255) : engineReady cls conv u s :=
  ⟨sel_lanes s hs, hu, fun _ => hc, fun c _ => hn c⟩

theorem no_counts (s : State) (h : s.issuing.erq = []) (c : Nat) : s.issuing.counter c < 255 := by
  simp [Group.counter, h]

theorem test_meets_ReservationsComplete :
    (let s := records (obRec 16 0 0 0 1 1 0) [] blk
     engineReady none false (uniUses none [.reg 1]) s ∧ recordsAt [offAt [.reg 1] 0 s] [obRec 16 0 0 0 1 1 0] s ∧ obRecordOk (obRec 16 0 0 0 1 1 0) = true ∧
     s.issuingBlock.handle 15 = none ∧ lowestRun 0 (recNat (obRec 16 0 0 0 1 1 0) 0 2) s.issuingBlock) ∧
    (let s := records (obRec 1 0 0 0 1 1 0) [] heldBlk
     engineReady none false (uniUses none [.reg 1]) s ∧ recordsAt [offAt [.reg 1] 0 s] [obRec 1 0 0 0 1 1 0] s ∧ obRecordOk (obRec 1 0 0 0 1 1 0) = true ∧
     ∃ h, s.issuingBlock.handle 15 = some h ∧ h.gran = recNat (obRec 1 0 0 0 1 1 0) 0 2) ∧
    (let s := withBlock heldBlk
     engineReady none false noUses s ∧ (s.issuingBlock.handle 15).isSome = true ∧ ∀ o ∈ s.ops, o.block = s.issuing.block → 15 ∉ o.handles) := by
  refine ⟨⟨ready_of _ _ _ _ rfl ?_ ?_ (no_counts _ rfl), ⟨?_, ?_⟩, ?_, ?_, ?_⟩, ⟨ready_of _ _ _ _ rfl ?_ ?_ (no_counts _ rfl), ⟨?_, ?_⟩, ?_, ⟨_, rfl, ?_⟩⟩,
    ⟨ready_of _ _ _ _ rfl ?_ ?_ (no_counts _ rfl), ?_, ?_⟩⟩ <;> first | decide | (unfold lowestRun; decide)

/-- A block with a reservation of one granule in ob15: f16 operands, B at its start, an f32 accumulator. -/
def matBlk : Block := { blk with handles := [(15, { start := 0, gran := 16, record := obRec 16 1 1 0 64 64 0 })] }

/-- MATBLK again, with a reservation whose accumulator is f16. -/
def matHalf : Block := { blk with handles := [(15, { start := 0, gran := 16, record := obRec 16 1 1 1 64 63 0 })] }

theorem test_meets_MatrixWordsComplete :
    (let s := withBlock matHalf
     engineReady none true (mmaUses s 96 64 15 false false) s ∧ rangesMeet 64 32 96 32 = false ∧ mmaRow 1 1 1 = true ∧
     (∀ r ∈ mmaRanges (obRec 16 1 1 1 64 63 0) false, r.1 + r.2 ≤ 16 * 4096) ∧ mmaErrors (opened s) { start := 0, gran := 16, record := obRec 16 1 1 1 64 63 0 } 96 false false false false = 0) ∧
    (let s := { withBlock matHalf with groups := [(0, { grp with bad := [.array] })] }
     engineReady none true (mmaUses s 96 64 15 false false) s ∧
     mmaErrors (opened s) { start := 0, gran := 16, record := obRec 16 1 1 1 64 63 0 } 96 false false false false ≠ 0) ∧
    (let r := tileRec 0x1000 0 1 64 64
     let s := records r [] matBlk
     engineReady (some 2) true (mstUses s 64 15 (.reg 1)) s ∧ recordsAt [offAt [.reg 1] 0 s] [r] s ∧ (s.issuingBlock.handle 15).isSome = true ∧
     tileOk r = true ∧ (readTile r).space ≤ 2 ∧ (readTile r).d2 = 1 ∧ rankGood s s.issuingBlock (readTile r) = true ∧
     objectPlaced s.issuingBlock 0 SkKind.amx.size = true ∧ objectPlaced s.issuingBlock 0 SkKind.qsk.size = true) := by
  refine ⟨⟨ready_of _ _ _ _ rfl ?_ ?_ (no_counts _ rfl), ?_, ?_, ?_⟩, ⟨ready_of _ _ _ _ rfl ?_ ?_ (no_counts _ rfl), ?_⟩,
    ready_of _ _ _ _ rfl ?_ ?_ (no_counts _ rfl), ⟨?_, ?_⟩, ?_⟩ <;> decide +kernel

theorem test_meets_EngineCommandsComplete :
    (let x := tileRec 0x1000 1 1 65535 1
     let y := tileRec 0 1 3 65535 1
     let s := records x y blk
     engineReady (some 0) false (uniUses none [.reg 1, .reg 2]) s ∧
     recordsAt [offAt [.reg 1, .reg 2] 0 s, offAt [.reg 1, .reg 2] 1 s] [x, y] s ∧ tileOk x = true ∧ rankGood s s.issuingBlock (readTile x) = true ∧
     tileOk y = true ∧ rankGood s s.issuingBlock (readTile y) = true ∧ sameShape (readTile x) (readTile y) = true ∧
     (isFar s s.issuingBlock (readTile x) && isFar s s.issuingBlock (readTile y)) = false ∧ windowOk (readTile x) s ∧ windowOk (readTile y) s) ∧
    (let x := tileRec 0x1000 0 1 16 1
     let y := tileRec 0x2000 0 1 16 16160
     let s := records x y blk
     engineReady (some 0) false (uniUses none [.reg 1, .reg 2, .reg 3]) s ∧
     recordsAt [offAt [.reg 1, .reg 2, .reg 3] 0 s, offAt [.reg 1, .reg 2, .reg 3] 1 s] [x, y] s ∧ tileOk x = true ∧
     rankGood s s.issuingBlock (readTile x) = true ∧ (readTile x).d2 = 1 ∧ (readTile x).space < 2 ∧ tileOk y = true ∧
     rankGood s s.issuingBlock (readTile y) = true ∧ (readTile y).d2 = 1 ∧ (readTile y).space < 3 ∧ isFar s s.issuingBlock (readTile y) = false ∧
     (readTile x).fmt = (readTile y).fmt ∧ (readTile x).d0 = (readTile y).d0 ∧ offAt [.reg 1, .reg 2, .reg 3] 2 s % 4 = 0 ∧
     0x300 ≤ offAt [.reg 1, .reg 2, .reg 3] 2 s ∧ offAt [.reg 1, .reg 2, .reg 3] 2 s + 4 * (readTile y).rows ≤ s.issuingBlock.scr) ∧
    (let x := tileRec 0x1000 0 1 16 1
     let y := tileRec 0 0 0 16 1
     let s := records x y blk
     engineReady (some 1) false (uniUses none [.reg 1, .reg 2]) s ∧
     recordsAt [offAt [.reg 1, .reg 2] 0 s, offAt [.reg 1, .reg 2] 1 s] [x, y] s ∧ tileOk x = true ∧ rankGood s s.issuingBlock (readTile x) = true ∧
     (readTile x).space = 1 ∧ tileOk y = true ∧ tilexDst (readTile y) (s.gridRow s.issuingBlock.grid).nranks = true ∧
     sameShape (readTile x) (readTile y) = true) ∧
    (let x := tileRec 0x1000 0 1 0 0
     let y := tileRec 0x2000 0 1 0 0
     let s := records x y blk
     engineReady (some 3) true (uniUses none [.reg 1, .reg 2]) s ∧
     recordsAt [offAt [.reg 1, .reg 2] 0 s, offAt [.reg 1, .reg 2] 1 s] [x, y] s ∧ mergeRecord s x = true ∧ mergeRecord s y = true ∧
     (isFar s s.issuingBlock (readTile x) && isFar s s.issuingBlock (readTile y)) = false ∧ windowOk (readTile x) s ∧ windowOk (readTile y) s) := by
  refine ⟨⟨ready_of _ _ _ _ rfl ?_ ?_ (no_counts _ rfl), ⟨?_, ?_⟩, ?_, ?_, ?_, ?_, ?_, ?_, ?_⟩,
    ⟨ready_of _ _ _ _ rfl ?_ ?_ (no_counts _ rfl), ⟨?_, ?_⟩, ?_⟩, ⟨ready_of _ _ _ _ rfl ?_ ?_ (no_counts _ rfl), ⟨?_, ?_⟩, ?_⟩,
    ready_of _ _ _ _ rfl ?_ ?_ (no_counts _ rfl), ⟨?_, ?_⟩, ?_⟩ <;> first | decide +kernel | (unfold windowOk; decide +kernel)

/-- s2 holds the offset of an object, in a scratchpad with these bytes at it. -/
def objectState (o : Nat) (bytes : List Byte) : State :=
  (based (BitVec.ofNat 64 o)).setBlock 0 { blk with spad := writeBytes [] o bytes }

theorem test_meets_SummaryReadsComplete :
    (let s := objectState 0xFFC0 (initialImage .amx 0)
     summaryTable (.skard (.reg 63) (.reg 2) 0) = some (.amx, .reg 63, [.reg 2], 0, [], fun b _ => (BitVec.ofNat 64 (recNat b 4 4 + recNat b 1 1 % 2 * 2 ^ 32), 0)) ∧
     engineReady none true { uniUses (some (.reg 63)) [.reg 2] with writeS := (uniUses (some (.reg 63)) [.reg 2]).writeS ++ [] } s ∧
     objectBytes .amx 0 (offAt [.reg 2] 0 s) (initialImage .amx 0) s) ∧
    (let s := based 0x300
     engineReady none false (uniUses none [.reg 2, .reg 0]) s ∧ objectFault s.issuingBlock 1 (offAt [.reg 2, .reg 0] 0 s) (skKindOf 2).size true = none) := by
  refine ⟨⟨rfl, ready_of _ _ _ _ rfl ?_ ?_ (no_counts _ rfl), ?_⟩, ready_of _ _ _ _ rfl ?_ ?_ (no_counts _ rfl), ?_⟩ <;>
    first | decide | exact ⟨rfl, rfl, rfl, rfl, rfl⟩

/-- A read of a member's object on another chip, whose bytes have come. -/
def objectHere : State :=
  { objectState (2 ^ 19 + 0x300) [] with
    groups := [(0, { grp with s := [(2, 2 ^ 19 + 0x300)], results := [{ id := 5, dst := .held, width := SkKind.amx.size, left := 0, value := natLE (initialImage .amx 9) }] })],
    blocks := [(0, { blk with gsz := 2, members := [(1, { pos := 1, block := 0, alloc := 65536, present := true, departed := false })] })] }

theorem test_meets_SummaryReadsComplete_remote : objectBytes .amx 1 (offAt [.reg 2] 0 objectHere) (initialImage .amx 9) objectHere := by
  exact ⟨rfl, rfl, _, rfl, rfl, by decide +kernel⟩

/-! ### Witnesses: the ordering machine -/

/-- An entry of the issuing group, at `st`, for a place. -/
def ent (op : EntOp) (target : Target) (size : Nat) (st : Stage) : Entry :=
  { baseEntry busy 0 with op := op, target := target, size := size, stage := st }

def holding (es : List Entry) : State := { busy with entries := es }

theorem test_meets_DeparturesComplete :
    (let x := ent .store (.bank 0 0xFFF0) 16 .gq
     (holding [x]).findEntry 0 = some x ∧ x.stage = .gq ∧ mayLeave (holding [x]) false x = true ∧ bindsEarly (holding [x]) x = false ∧ x.needsFlush = false) ∧
    (let x := { ent (.fence 2 true) .nowhere 0 .gq with scope := 5 }
     (holding [x]).findEntry 0 = some x ∧ x.stage = .gq ∧ mayLeave (holding [x]) false x = true ∧ bindsEarly (holding [x]) x = false ∧
     x.needsFlush = true ∧ ((holding [x]).group x.owner).flushed = true) ∧
    (let x := { ent (.fence 1 true) .nowhere 0 .gq with scope := 4 }
     let s := { holding [x] with groups := [(0, { grp with paths := [(63, 0xFFFF)] })] }
     s.findEntry 0 = some x ∧ x.stage = .gq ∧ mayLeave s false x = true ∧ bindsEarly s x = false ∧ x.needsFlush = true ∧
     (s.group x.owner).flushed = false ∧ (s.group x.owner).flush = none ∧
     ∀ p ∈ (s.group x.owner).paths, s.fab.fenced.contains p.1 = false ∧ s.fab.fenced.contains p.2 = false) ∧
    (let x := ent .load (.memory 0) 16 .cb
     (holding [x]).findEntry 0 = some x ∧ bindsEarly (holding [x]) x = false ∧
     (combined (holding [x]) x).all (cbAllows (holding [x]) (combined (holding [x]) x)) = true ∧ combined (holding [x]) x = [x] ∧
     x.target = .memory 0) ∧
    (let x := ent (.atom .add) (.remote 63 false 0) 8 .cb
     (holding [x]).findEntry 0 = some x ∧ bindsEarly (holding [x]) x = false ∧ combined (holding [x]) x = [x] ∧
     cbAllows (holding [x]) [x] x = true ∧ (holding [x]).fab.shut 63 = false ∧ ((holding [x]).core x.core).freeSlot = some 0) ∧
    (let x := ent (.red .fadd) (.memory 64) 4 .net
     let y := { x with id := 1 }
     (holding [x, y]).findEntry 0 = some x ∧ (holding [x, y]).findEntry 1 = some y ∧ mergeable x y = true ∧ mayJoin (holding [x, y]) x y = true) := by decide +kernel

/-- The slice has entry 0 before it. -/
def slice (op : EntOp) (size : Nat) : Entry := { ent op (.memory 0x59682EFFF8) size .net with wcode := if size = 8 then 3 else 2 }

theorem at_slice (op : EntOp) (size : Nat) (s : State) (h1 : s.findEntry 0 = some (slice op size))
    (h2 : sliceTurn s (slice op size) = true) (h3 : inHbm 0x59682EFFF8 = true) (h4 : poisoned s.poison 0x59682EFFF8 size = false) :
    atSlice 0 (slice op size) 0 0x59682EFFF8 s := ⟨h1, rfl, rfl, rfl, h2, h3, h4⟩

/-- An access of 4 bytes there that is not single-copy atomic, as it crosses 8 bytes. -/
def crossing (op : EntOp) : Entry := ent op (.memory 0x59682EFFF2) 4 .net

theorem test_meets_SliceApplications_piece (h : Config.piece 0 % 4 = 1) (op : EntOp) (ho : op = .load ∨ op = .store) :
    atSlice 0 (crossing op) 0 0x59682EFFF2 (holding [crossing op]) ∧ (holding [crossing op]).stepBytes (crossing op) ≠ (crossing op).size := by
  refine ⟨⟨?_, rfl, rfl, rfl, ?_, ?_, ?_⟩, ?_⟩
  · rcases ho with rfl | rfl <;> decide
  · rcases ho with rfl | rfl <;> decide
  · decide
  · rcases ho with rfl | rfl <;> decide
  · have e : (holding [crossing op]).stepBytes (crossing op) = min 4 (1 + Config.piece 0 % 4) := by rcases ho with rfl | rfl <;> rfl
    rw [e, h]; rcases ho with rfl | rfl <;> decide

theorem test_meets_SliceApplications :
    (atSlice 0 (slice .load 8) 0 0x59682EFFF8 (holding [slice .load 8]) ∧ (holding [slice .load 8]).stepBytes (slice .load 8) = 8 ∧
      ((holding [slice .load 8]).core 0).fc + 8 < 2 ^ 32) ∧
    (atSlice 0 (slice .store 8) 0 0x59682EFFF8 (holding [slice .store 8]) ∧ combined (holding [slice .store 8]) (slice .store 8) = [slice .store 8] ∧
      (slice .store 8).whole = [] ∧ (holding [slice .store 8]).stepBytes (slice .store 8) = 8) ∧
    atSlice 0 (slice (.atom .cas) 8) 0 0x59682EFFF8 (holding [slice (.atom .cas) 8]) ∧
    atSlice 0 (slice (.red .fmax) 4) 0 0x59682EFFF8 (holding [slice (.red .fmax) 4]) ∧
    (let s := { holding [slice (.marm 0) 8] with groups := [(0, { grp with mon := .pending })] }
     atSlice 0 (slice (.marm 0) 8) 0 0x59682EFFF8 s ∧ (s.group 0).monEntry = 0 ∧ (s.group 0).mon = .pending ∧ s.watches = []) := by
  refine ⟨⟨at_slice _ _ _ ?_ ?_ ?_ ?_, ?_⟩, ⟨at_slice _ _ _ ?_ ?_ ?_ ?_, ?_⟩, at_slice _ _ _ ?_ ?_ ?_ ?_, at_slice _ _ _ ?_ ?_ ?_ ?_,
    at_slice _ _ _ ?_ ?_ ?_ ?_, ?_⟩ <;> decide +kernel

/-- The bank has entry 0 before it. -/
def banked (op : EntOp) (off size : Nat) : Entry := ent op (.bank 0 off) size .bank

theorem at_bank (op : EntOp) (off size : Nat) (s : State) (h1 : s.findEntry 0 = some (banked op off size))
    (h2 : bankTurn s (banked op off size) = true) (h3 : (s.block 0).resident = true ∧ (s.block 0).started = true) (h4 : poisoned (s.block 0).spadBad off size = false) :
    atBank 0 (banked op off size) 0 0 off s := ⟨h1, rfl, rfl, h2, h3.1, h3.2, h4⟩

theorem test_meets_BankApplications_away :
    ∀ b ∈ [{ blk with started := false }, { blk with resident := false }],
      let x := banked (.red .or) 0xFFFC 4
      let s := { holding [x] with blocks := [(0, b)] }
      s.findEntry 0 = some x ∧ x.target = .bank 0 0xFFFC ∧ bankTurn s x = true ∧ ((s.block 0).resident = false ∨ (s.block 0).started = false) ∧
      x.op.isArrival = false ∧ x.op.isInsert = false := by decide

/-- Two lanes of one word that name one word of the scratchpad, and one lane's OBLD over two units. -/
def mate (op : EntOp) (id lane : Nat) : Entry := { banked op 0x304 4 with id := id, lane := some lane, data := lane }

theorem test_meets_BankApplications_mates :
    (∀ op ∈ [EntOp.load, EntOp.store],
      (let s := holding [mate op 0 3, mate op 1 63]
       atBank 0 (mate op 0 3) 0 0 0x304 s ∧ bankMates s (mate op 0 3) = [mate op 0 3, mate op 1 63] ∧
       ∀ y ∈ bankMates s (mate op 0 3), y.issuer = .group 0 ∧ y.target = .bank 0 0x304 ∧ y.size = 4)) ∧
    (let bytes := [(15, 1), (16, 2)]
     let x := banked (.obld 15 bytes) 0 0
     let s := { holding [x] with blocks := [(0, heldBlk)] }
     atBank 0 x 0 0 0 s ∧ ((s.block 0).handle 15).isSome = true ∧ bytes ≠ [] ∧ (bytes.map Prod.fst).Nodup) ∧
    bankMates (holding [banked .store 0xFFC0 64]) (banked .store 0xFFC0 64) = [banked .store 0xFFC0 64] := by
  unfold atBank; decide +kernel

theorem test_meets_BankApplications :
    atBank 0 (banked .load 0xFFF0 16) 0 0 0xFFF0 (holding [banked .load 0xFFF0 16]) ∧
    atBank 0 (banked .store 0x300 1) 0 0 0x300 (holding [banked .store 0x300 1]) ∧
    atBank 0 (banked .store 0xFFC0 64) 0 0 0xFFC0 (holding [banked .store 0xFFC0 64]) ∧
    atBank 0 (banked (.atom .incw) 0x300 4) 0 0 0x300 (holding [banked (.atom .incw) 0x300 4]) ∧
    atBank 0 (banked (.red .or) 0xFFFC 4) 0 0 0xFFFC (holding [banked (.red .or) 0xFFFC 4]) ∧
    atBank 0 (banked (.skinit .dcr 7) 0x300 2112) 0 0 0x300 (holding [banked (.skinit .dcr 7) 0x300 2112]) ∧
    (let s := { holding [banked (.push 15 0) (chOff 15) 4] with
                 blocks := [(0, { blk with spad := writeNat (writeNat [] (chOff 15) 4 0x7FF0) (chOff 15 + 4) 2 1 })] }
     atBank 0 (banked (.push 15 0) (chOff 15) 4) 0 0 (chOff 15) s ∧ ((s.block 0).chan 15).depth ≠ 0) ∧
    (let x := banked (.insert .amx [0x3F800000]) 0xFFC0 SkKind.amx.size
     let s := { holding [x] with blocks := [(0, { blk with spad := writeBytes [] 0xFFC0 (initialImage .amx 0) })] }
     atBank 0 x 0 0 0xFFC0 s ∧ wellFormed .amx (readBytes (s.block 0).spad 0xFFC0 SkKind.amx.size) = true ∧
     (skInsert .amx (readBytes (s.block 0).spad 0xFFC0 SkKind.amx.size) [0x3F800000]).isSome = true) ∧
    (let x := banked (.arrive 15 1) (barOff 15) 4
     let s := { holding [x] with blocks := [(0, { blk with spad := writeNat [] (32 * 15 + 6) 2 1 })] }
     atBank 0 x 0 0 (barOff 15) s ∧ (s.block 0).barExpect 15 ≠ 0) := by
  refine ⟨at_bank _ _ _ _ ?_ ?_ ?_ ?_, at_bank _ _ _ _ ?_ ?_ ?_ ?_, at_bank _ _ _ _ ?_ ?_ ?_ ?_, at_bank _ _ _ _ ?_ ?_ ?_ ?_, at_bank _ _ _ _ ?_ ?_ ?_ ?_,
    at_bank _ _ _ _ ?_ ?_ ?_ ?_, ⟨at_bank _ _ _ _ ?_ ?_ ?_ ?_, ?_⟩, ⟨at_bank _ _ _ _ ?_ ?_ ?_ ?_, ?_⟩, at_bank _ _ _ _ ?_ ?_ ?_ ?_, ?_⟩ <;>
    decide +kernel

/-- A walk that the group, or another chip's request, waits for. -/
def walk0 (peer : Bool) (epoch : Nat) : Walk :=
  { id := 0, group := 0, core := 0, peer := peer, ctx := 0, va := 0x3FFFFFF8, write := true, fetch := false, epoch := epoch, quiet := false }

/-- A result of two registers that has come. -/
def result0 (d : ResDst) : PendRes := { id := 0, dst := d, width := 8, left := 0, value := 0x100000002 }

theorem test_meets_BindingsAndResults :
    (let x := { ent .load (.bank 0 0x300) 4 .gq with id := 1, seq := 1 }
     let s := holding [ent .store (.bank 0 0x300) 4 .gq, x]
     s.findEntry 1 = some x ∧ x.issuer = .group 0 ∧ bindPlace s x = true ∧ (earlyBytes s 0 x).isSome = true) ∧
    (let s := { busy with cores := [(0, { Core.empty with fc := 2 ^ 32 })] }
     2 ^ 32 ≤ (s.core 0).fc) ∧
    (∀ p, let s := { mapped busy with walks := [walk0 p 0] }
     s.walks.find? (fun w => decide (w.id = 0) && decide (w ∈ s.served64 (dieOf w.core))) = some (walk0 p 0) ∧
     (walk0 p 0).epoch = getKey 0 s.epochs (dieOf 0) ∧ (walk0 p 0).peer = p ∧ (walk0 p 0).quiet = false ∧
     s.walkVa 0 0x3FFFFFF8 = .inl { entry := 0x20000, raw := 7, bits := 30, pa := 0 } ∧
     Leaf.allows { entry := 0x20000, raw := 7, bits := 30, pa := 0 } true false = none) ∧
    (let s := { mapped busy with walks := [walk0 false 1] }
     s.walks.find? (fun w => decide (w.id = 0) && decide (w ∈ s.served64 (dieOf w.core))) = some (walk0 false 1) ∧
     (walk0 false 1).epoch ≠ getKey 0 s.epochs (dieOf 0)) ∧
    ∀ d ∈ [ResDst.lane 63 [127, 126], .uniform [63], .push 15, .discard],
      (let g := { grp with results := [result0 d] }
       let s := withGroup g
       s.groups.find? (fun p => p.2.results.any (fun r => decide (r.id = 0) && r.ready)) = some (0, g) ∧
       g.results.find? (fun r => decide (r.id = 0)) = some (result0 d)) := by
  decide +kernel

/-! ### Witnesses: the engines -/

/-- An operation of the issuing group between these records, at a stage. -/
def engOp (kind : EngKind) (x y : List Byte) (st : OpStage) : EngineOp := { newOp busy kind 0 (readTile x) (readTile y) with stage := st }

/-- It is the one operation of a pod of two chips, whose ranks 0 and 1 are positions 0 and 1. -/
def engaged (o : EngineOp) (es : List Entry) : State :=
  { busy with
    ops := [o], entries := es,
    tt := { State.reset.tt with grids := [(0, { GridRow.empty with nranks := 2, gsz := 1, bpr := 1 })], rankMap := [(0, [0, 1])] },
    fab := { State.reset.fab with dark := [], occupied := [0, 1] } }

/-- A record of one row of 16 f32 in the memory of a rank behind handle 1. -/
def farRec (rank : Nat) : List Byte :=
  packBytes 64 [(0, 8, 2 ^ 48), (8, 1, 0), (12, 2, 16), (14, 2, 1), (16, 2, 1), (22, 2, rank), (60, 2, 1), (62, 2, 1)]

theorem test_meets_EngineAcceptance :
    (let o := engOp .copy (tileRec 0x1000 0 1 16 1) (tileRec 0xFFC4 0 1 16 1) .left
     atEngine 0 o (engaged o []) ∧ (engaged o []).acceptStatus (judged (engaged o []) o) ≠ 0) ∧
    (let o := engOp .copy (tileRec 0x1000 0 1 16 1) (tileRec 0xFFC0 0 1 16 1) .left
     atEngine 0 o (engaged o []) ∧ (engaged o []).acceptStatus (judged (engaged o []) o) = 0 ∧ nearSource (engaged o []) o) ∧
    (let o := engOp .copy (farRec 1) (tileRec 0x300 0 1 16 1) .left
     atEngine 0 o (engaged o []) ∧ (engaged o []).acceptStatus (judged (engaged o []) o) = 0 ∧ o.kind = .copy ∧
     (engaged o []).srcLoc o = .away 1 ∧ (engaged o []).bulkPath 1 o.src.direct = some 0xFFFF ∧ (engaged o []).fab.fenced.contains 1 = false) ∧
    (let o := engOp .skmerge (tileRec 0x1000 0 1 0 0) (tileRec 0x2000 0 1 0 0) .left
     let s := engaged o []
     s.findOp 0 = some o ∧ o.stage = .left ∧ o.typ = 0 ∧ s.srcLoc o = .spad 0 ∧ s.extent o o.src (.spad 0) o.src.off (o.src.off + 64) false = 0) ∧
    (let o := engOp .copy (farRec 1) (tileRec 0x300 0 1 16 1) .remoteRead
     (engaged o []).findOp 0 = some o ∧ o.stage = .remoteRead ∧ (engaged o []).fetched o = true ∧ Nat.land o.status 0x386 = 0 ∧ o.kind = .copy) := by
  refine ⟨⟨?_, ?_⟩, ⟨?_, ?_, .inr fun pos => ⟨?_, fun i => ?_⟩⟩, ⟨?_, ?_, rfl, rfl, ?_, ?_⟩, ⟨?_, rfl, rfl, rfl, ?_⟩, ?_⟩ <;>
    first | decide +kernel | (unfold atEngine; decide +kernel) | (intro h; cases h)

/-- A merge of a QSK of the scratchpad at 0x1000 into one at 0x2000, accepted with its type read. -/
def mergeOp : EngineOp := { engOp .skmerge (tileRec 0x1000 0 1 0 0) (tileRec 0x2000 0 1 0 0) .accepted with typ := 0x42 }

/-- Three f16 of the scratchpad for the operand of this record, all read. -/
def moving (kind : EngKind) (dst : List Byte) (ts : List Nat) (at1 : Nat) : EngineOp :=
  { engOp kind (tileRec 0x1000 2 1 3 1) dst .accepted with targets := ts, cargo := [(at1, 1, false), (at1 + 16, 2, false), (at1 + 32, 3, false)] }

/-- A record of three f16 behind handle 1 of a rank. -/
def farHalf (rank : Nat) : List Byte :=
  packBytes 64 [(0, 8, 2 ^ 48 + 0xFFFA), (8, 1, 2), (12, 2, 3), (14, 2, 1), (16, 2, 1), (22, 2, rank), (24, 4, 0xFFFFFFFF), (60, 2, 1), (62, 2, 1)]

theorem test_meets_EngineCompletion_reads :
    (let o := engOp .copy (tileRec 0x1000 2 1 3 1) (tileRec 0xFFFA 2 1 3 1) .accepted
     (engaged o []).findOp 0 = some o ∧ o.dead = false ∧ o.coded = false ∧ o.cargo.length ≤ 0 ∧ o.reads.flatten[0]? = some 0 ∧ o.moves.length = 3) ∧
    (let o := { engOp .mst [] (tileRec 0xFFFA 2 1 1 1) .accepted with elems := [(0, 0, 5)] }
     (engaged o []).findOp 0 = some o ∧ o.dead = false ∧ o.coded = false ∧ o.reads.flatten[0]? = some 0) := by decide +kernel

theorem test_meets_EngineCompletion_gives :
    ∀ x ∈ [moving .copy (tileRec 0xFFFA 2 1 3 1) [] 0x7FFD0, moving .tilex (farHalf 0xFFFE) [0, 1] 0x7FFD0],
      (engaged x []).findOp 0 = some x ∧ x.stage = .accepted ∧ x.dead = false ∧ x.kind ≠ .skmerge ∧ x.coded = false ∧ fmtBits x.dst.fmt = 16 ∧
      (givenNow (engaged x []) x 0).map (fun e => e.1) = [0x7FFD0, 0x7FFE0, 0x7FFF0] := by decide +kernel

theorem test_meets_EngineCompletion :
    (let o := engOp .tilex (tileRec 0x1000 0 1 16 1) (farRec 1) .accepted
     let o := { o with targets := [1] }
     (engaged o []).findOp 0 = some o ∧ o.kind ≠ .skmerge) ∧
    (let o := moving .copy (tileRec 0xFFFA 2 1 3 1) [] 0x7FFD0
     let s := engaged o []
     s.dstLoc o = .spad 0 ∧ apart 2 ((givenNow s o 0).map (fun e => e.1)) ∧ (s.goals o)[0]? = some { loc := .spad 0, slot := false } ∧
     placesApart o (.spad 0) 16 [0x7FFD0, 0x7FFE0, 0x7FFF0] s) ∧
    (let o := engOp .copy (tileRec 0x1000 2 1 3 1) (tileRec 0xFFFA 2 1 3 1) .moved
     (engaged o []).findOp 0 = some o ∧ (engaged o []).written o = true) ∧
    (let e : ErqEnt := { cls := 3, op := 0, finished := true, status := 0x300 }
     ((withGroup { grp with erq := [e] }).group 0).erq.find? (fun e => decide (e.cls = 3)) = some e) := by
  refine ⟨?_, ⟨rfl, ?_, rfl, ?_⟩, ?_, ?_⟩ <;> first | decide +kernel | (unfold apart; decide +kernel) | (unfold placesApart; decide)

/-- A part of a chunk from a rank: two ones. -/
def onesPart (r : Nat) : SlotPart :=
  { slot := 15, chunk := 0, rank := r, src := r, opnum := 7, ctx := 0, dest := 1, fmt := 0, c4 := false, vals := [(0, 0x3F800000), (4, 0x3F800000)],
    bad := false }

/-- The operation that it is the whole of. -/
def onesOp (r : Nat) : SlotOp :=
  { src := r, opnum := 7, slot := 15, ctx := 0, dest := 1, chunks := [0], gone := [], paths := [0xFFFF], flag := 2 ^ 64 - 1, status := 0, ended := true,
    user := 0, nums := [] }

/-- Handle 1 of context 0: one page of 64 KiB at physical address 65536, readable and writable. -/
def handle1 : HandleEnt :=
  { HandleEnt.empty with length := 65536, rd := true, wr := true, st := .live, pins := [{ va := 0, bits := 16, pa := 65536, kind := .rc, nc := false }] }

/-- A relay slot 15 of rank 0 and rank 1 that sends to a rank, with one whole part of a chunk from each. -/
def relaySlot (dest : Nat) : State :=
  let s := engaged (engOp .copy [] [] .queued) []
  { s with
    handles := [(1, handle1)],
    tt := { s.tt with slots := [(15, { held := true, fmt := 0, op := 0, ctx := 0, grid := 0, dest := dest, srcBase := 0, srcMask := 3 })] },
    fab := { s.fab with slotParts := [onesPart 0, onesPart 1], slotOps := [onesOp 0, onesOp 1] } }

/-- A transfer to position 1 whose limit has passed, of operation `n`. -/
def lateBulk (n : Nat) : BulkOp :=
  { opnum := 7, engine := n, group := 0, block := 0, grid := 0, blockId := 0, ctx := 0, dst := 1, paths := [0xFFFF], since := 0,
    limit := 0, reported := true, stopped := false, status := 0, flag := 0xFFFFFFFF, segs := 0, whole := false, marked := false, lost := false,
    goal := 0 }

/-- The merge with its objects in the scratchpad, a source of this seed. -/
def merging (seed : Nat) : State :=
  { engaged mergeOp [] with
    blocks := [(0, { blk with spad := writeBytes (writeBytes [] 0x1000 (initialImage .amx seed)) 0x2000 (initialImage .amx 5) })] }

/-- A merge into an object of the region's handle. -/
def mergeMem : EngineOp := { engOp .skmerge (tileRec 0x1000 0 1 0 0) (tileRec (2 ^ 48 + 0x2000) 0 0 0 0) .accepted with typ := 0x42 }

def mergingMem : State :=
  { engaged mergeMem [] with
    blocks := [(0, { blk with spad := writeBytes [] 0x1000 (initialImage .amx 5) })], handles := [(1, handle1)],
    mem := writeBytes [] 0x12000 (initialImage .amx 5) }

theorem pa_handle1 (a : Nat) (h : a < 65536) : handle1.pa a = 65536 + a := by
  have h0 : a / 65536 = 0 := by omega
  simp [HandleEnt.pa, handle1, h0]; omega

theorem test_meets_MergesSlotsAndTimeouts :
    (∀ m ∈ [(merging 5, mergeOp), (mergingMem, mergeMem)], m.1.findOp 0 = some m.2 ∧ m.2.kind = .skmerge ∧ m.2.dead = false ∧
      isHere (m.1.dstLoc m.2) = true ∧ (mergeOutcome m.1 m.2).2.isSome = true) ∧
    (∀ q ∈ (mergingMem.handle 0 1).pins, 12 ≤ q.bits) ∧
    (let s := { merging 5 with blocks := [(0, { (merging 5).block 0 with spadBad := [0x2000 / 32] })] }
     (mergeOutcome s mergeOp).2 = none) ∧
    (∀ d ∈ [0, 1],
      let s := relaySlot d
      let row := s.slotRow s.fab.pos 15
      s.chunkParts 15 0 row = [onesPart 0, onesPart 1] ∧ row.held = true ∧ row.ranks.all (s.chunkReady 15 0) = true ∧
      s.rankPos row.grid row.dest = d ∧ (d = 1 → s.bulkPath 1 false = some 0xFFFF ∧ s.fab.fenced.contains 1 = false) ∧
      (d = 0 → s.slotDestStatus 0 1 8 s.fab.slotOps = 0 ∧ (chunkElems row.format row.red (s.chunkParts 15 0 row)).map (fun e => e.1) = [0, 32] ∧
        ∀ o ∈ s.fab.slotOps, o.flag = 2 ^ 64 - 1)) ∧
    (∀ n ∈ [0, 99],
      let o := engOp .copy [] [] .moved
      let s := { engaged o [] with fab := { State.reset.fab with bulkOps := [lateBulk n] } }
      s.fab.bulkOps.find? (fun b => decide (b.opnum = 7)) = some (lateBulk n) ∧ (lateBulk n).stopped = false ∧
      (lateBulk n).since + (lateBulk n).limit ≤ s.fab.podtime ∧ (n = 0 → ∃ o ∈ s.ops, o.id = (lateBulk n).engine) ∧
      (n = 99 → (∀ o ∈ s.ops, o.id ≠ (lateBulk n).engine) ∧ s.issuerOf (lateBulk n) = some 0)) := by
  refine ⟨?_, ?_, ?_, ?_, ?_⟩ <;> decide +kernel

theorem test_meets_MergesSlotsAndTimeouts_places : (merging 5).dstLoc mergeOp = .spad 0 ∧ mergingMem.dstLoc mergeMem = .mem 0 1 := ⟨rfl, rfl⟩

/-- The bytes of an object behind the handle, and those of the elements of a chunk, lie apart. -/
theorem test_meets_MergesSlotsAndTimeouts_apart :
    (∀ n ≤ 0x8000, ∀ j k, j < n → k < n → (mergingMem.handle 0 1).pa (0x2000 + j) = (mergingMem.handle 0 1).pa (0x2000 + k) → j = k) ∧
    ∀ e ∈ [0, 32], ∀ f ∈ [0, 32], ∀ j k, j < 4 → k < 4 →
      ((relaySlot 0).handle 0 1).pa (e / 8 + j) = ((relaySlot 0).handle 0 1).pa (f / 8 + k) → e = f ∧ j = k := by
  have h1 : mergingMem.handle 0 1 = handle1 := rfl
  have h2 : (relaySlot 0).handle 0 1 = handle1 := rfl
  constructor
  · intro n hn j k hj hk h
    rw [h1, pa_handle1 _ (by omega), pa_handle1 _ (by omega)] at h; omega
  · intro e he f hf j k hj hk h
    simp only [List.mem_cons, List.not_mem_nil, or_false] at he hf
    rw [h2, pa_handle1 _ (by omega), pa_handle1 _ (by omega)] at h; omega

/-! ### Witnesses: data and messages of other chips -/

/-- The region of handle 1. -/
def region : State := { busy with handles := [(1, handle1)] }

/-- A segment of f32 that ends with the region. -/
def segMsg : SegMsg :=
  { src := 1, dst := 0, ctx := 0, cgen := 0, red := 0, c4 := false, slot := false, fmt := 0, via := 0xFFFF, slotno := 0, reply := false,
    direct := false, opnum := 7, segnum := 3, dest := 2 ^ 48 + 65528, nbytes := 8, srcrank := 1, xlo := 65528, xhi := 65536,
    data := bytesLE 8 0x0102030405060708, bad := false, mask := 0 }

/-- A read of the last 16 elements of f32 of a region. -/
def readMsg (handle : Nat) : ReadReqMsg :=
  { src := 1, dst := 0, ctx := 0, cgen := 0, fmt := 0, opnum := 7, base := handle * 2 ^ 48 + 65472, d0 := 16, d1 := 1, d2 := 1, vr := 0, vc := 0,
    s1 := 0, s2 := 0, direct := false }

def seenSeg : BulkIn :=
  { src := 1, opnum := 7, ctx := 0, good := true, status := 0, segs := [3], handle := 1, lo := 0, told := 0, object := [], objectBad := false }

theorem test_meets_BulkArrivals :
    (segMsg.dst = region.fab.pos ∧ region.refuses 1 0 0 = false ∧ region.segWaits segMsg = false ∧ region.findBulkIn 1 7 = none) ∧
    (let s := { region with tt := { State.reset.tt with grids := [(0, { GridRow.empty with state := 1 })], rankMap := [(0, [0])] } }
     s.refuses 1 0 0 = false ∧ s.segWaits segMsg = true ∧ s.notYet 0 (readReqRecord (readMsg 1)).index = true) ∧
    (let s := { region with handles := [], tt := { State.reset.tt with grids := [(0, { GridRow.empty with state := 1 })], rankMap := [(0, [1])] } }
     s.refuses 1 0 0 = false ∧ s.segWaits segMsg = true) ∧
    (let s := { region with fab := { region.fab with bulkIn := [seenSeg] } }
     s.refuses 1 0 0 = false ∧ s.segWaits segMsg = false ∧ s.findBulkIn 1 7 = some seenSeg ∧ segMsg.segnum ∈ seenSeg.segs) ∧
    (plainSegment segMsg ∧ handleStatus (region.handle 0 1) 1 segMsg.xhi true = 0 ∧
     ∀ j, j < 8 → ∀ k, k < 8 → (region.handle 0 1).pa (65528 + j) = (region.handle 0 1).pa (65528 + k) → j = k) ∧
    (∀ h ∈ [1, 2], (readMsg h).dst = region.fab.pos ∧ region.refuses 1 0 0 = false ∧
     handleStatus (region.handle 0 (readReqRecord (readMsg h)).index) h (readReqRecord (readMsg h)).last false = (if h = 1 then 0 else 0x002) ∧
     region.fab.bulkOut = [] ∧ region.fab.fenced.contains 0xFFFF = false) ∧
    noFlagDue region := by
  refine ⟨?_, ?_, ?_, ?_, ⟨?_, ?_⟩, ?_, ?_⟩ <;> first | decide +kernel | (unfold plainSegment; decide) | (unfold noFlagDue; decide)

/-- A marker of position 1 over `n` paths. -/
def marker (typ n : Nat) : MarkerMsg :=
  { src := 1, dst := 0, ctx := 0, cgen := 0, typ := typ, via := 0xFFFF, core := 0, gslot := 31, number := 7, paths := n, status := 0,
    flag := 2 ^ 48 + 65532 }

/-- A message of position 1 on a flow: its OP, scope code, tag and data. -/
def lsMsg (flow op scope tag : Nat) (data : BitVec 128) : LsMsg :=
  { flow := flow, op := op, src := 1, dst := 0, width := 2, scope := scope, order := 0, cgen := 0, ctx := 0, tag := tag, seq := 0,
    addr := 0, data := data, data2 := 0 }

/-- The group waits for a flush of number 7 to position 1. -/
def flushing : State := withGroup { grp with flush := some { number := 7, paths := [(1, 0xFFFF)], awaited := [1], fenced := false } }

theorem test_meets_MarkersComplete :
    (loneMarker (marker 1 1) 1 region ∧ (∀ o ∈ region.fab.slotOps, o.src ≠ 1 ∨ o.opnum ≠ 7) ∧ region.findBulkIn 1 7 = none ∧ (marker 1 1).gslot ≠ 63 ∧
     (marker 1 1).flag % 2 ^ 48 % 4 = 0 ∧
     (marker 1 1).flag % 2 ^ 48 + 4 ≤ (region.handle 0 1).length ∧ (region.handle 0 1).wr = true ∧ (region.handle 0 1).serves (bulkUser 1 7) = true ∧
     poisoned region.poison ((region.handle 0 1).pa 65532) 4 = false) ∧
    (∀ x ∈ [({ HandleEnt.empty with st := .draining } : HandleEnt), HandleEnt.empty], let s := { region with handles := [(1, x)] }
     loneMarker (marker 1 1) 1 s ∧ ((s.handle 0 1).st = .free ∨ (s.handle 0 1).st = .draining ∧ (s.handle 0 1).users.contains (bulkUser 1 7) = false)) ∧
    (loneMarker (marker 1 2) 1 region ∧ noneFenced region) ∧ loneMarker (marker 0 1) 0 region ∧ loneMarker (marker 0 2) 0 region ∧
    (let m := lsMsg 4 0xF5 0 0 7
     m.dst = flushing.fab.pos ∧ flushing.refuses 1 0 0 = false ∧ m.tag / 256 < 32 ∧ m.data.toNat / 2 ^ 32 % 256 ≠ 1 ∧
     ∀ f ∈ (flushing.group 0).flush, f.number = m.data.toNat % 2 ^ 32 ∧ f.awaited = [m.src] ∧ f.fenced = false) ∧
    (flushing.group 0).flush.isSome = true := by
  refine ⟨⟨?_, ?_⟩, ?_, ⟨?_, ?_⟩, ?_, ?_, ?_, ?_⟩ <;>
    first | decide +kernel | (unfold loneMarker; decide +kernel) | (unfold noneFenced; decide +kernel)

/-- Position 2 is fenced, and the marker's other path goes by it. -/
theorem test_meets_MarkersComplete_fenced (h : Config.awaitsVia 2 1 7 = true) :
    (let s := { region with fab := { region.fab with fenced := [2], occupied := [0, 1, 2] } }
     loneMarker (marker 0 2) 0 s ∧ s.fab.fenced.contains 2 = true ∧ s.fab.occupied.contains 2 = true) ∧
    2 ≠ (marker 0 2).via ∧ Config.awaitsVia 2 (marker 0 2).src (marker 0 2).number = true := by
  refine ⟨⟨?_, ?_⟩, by decide, h⟩ <;> first | decide +kernel | (unfold loneMarker; decide +kernel)

/-- A request to the last byte of a page of 1 GiB. -/
def pageMsg : LsMsg := { lsMsg 1 0x4A 0 0 0 with addr := 0x3FFFFFFF }

/-- A block of a gang of two, whose other member is on another chip. -/
def gangBlk (i : Nat) : Block :=
  { blk with gsz := 2, gangIdx := i, members := [(1 - i, { pos := 1, block := 0, alloc := 65536, present := true, departed := false })] }

theorem test_meets_RequestsDelivered :
    (let s := { mapped busy with exports := [(0, 0)] }
     inTurn pageMsg [0, 1] s ∧ requestOp pageMsg = some .load ∧ findKey s.exports 0 = some 0 ∧ ownerHit s pageMsg 0 = none) ∧
    (inTurn (lsMsg 0 0x55 0 0 1) [0, 1] busy ∧ requestOp (lsMsg 0 0x55 0 0 1) = some (.atom .add) ∧ findKey busy.exports 0 = none) ∧
    (let m := { lsMsg 2 0x4F 0 0 1 with addr := 2 ^ 19 + 0xFFFC }
     inTurn m [2] (withBlock (gangBlk 1)) ∧ requestOp m = some .store ∧ (withBlock (gangBlk 1)).gangMember m 1 = some 0) ∧
    (let m := { lsMsg 2 0x4F 0 0 1 with addr := 2 ^ 19 + 0xFFFC }
     inTurn m [2] (withBlock (gangBlk 0)) ∧ (withBlock (gangBlk 0)).gangMember m 1 = none) ∧
    (let m := { lsMsg 2 0x4F 0 0 1 with seq := 1 }
     busy.fab.shut 1 = false ∧ busy.frbTurn m = .hold) ∧
    (∀ w d, let x : TlbEnt := { ctx := 0, va := 0, bits := 30, pa := 0, w := w, x := false, kind := .rc, exp := false, nc := false, d := d }
     let m := { pageMsg with op := 0x55, flow := 0 }
     let s := { mapped busy with exports := [(0, 0)], l2tlb := [(0, [x])] }
     inTurn m [0, 1] s ∧ requestOp m = some (.atom .add) ∧ findKey s.exports 0 = some 0 ∧ ownerHit s m 0 = some x) ∧
    (inTurn (lsMsg 3 0xFA 0 0 0) [0, 2, 3] busy ∧ inTurn (lsMsg 2 0xFA 0 0 0) [0, 2, 3] busy ∧ inTurn (lsMsg 0 0xFA 0 0 0) [0, 2, 3] busy) := by
  refine ⟨⟨?_, rfl, ?_⟩, ⟨?_, ?_⟩, ⟨?_, ?_⟩, ⟨?_, ?_⟩, ?_, ?_, ?_, ?_, ?_⟩ <;> first | decide +kernel | (unfold inTurn; decide +kernel)

/-- A request of the group that slot 0 of its core waits for. -/
def asked (e : Entry) (g : Group) : State :=
  { withGroup g with
    entries := [e], cores := [(0, { Core.empty with slots := [(0, { ReqSlot.empty with inUse := true })] })],
    tt := { State.reset.tt with grids := [(0, { GridRow.empty with nranks := 2, gsz := 1, bpr := 1 })], rankMap := [(0, [0, 1])] } }

/-- A load of rank 1 for lane 63, into v127. -/
def farLoad (rank : Nat) : Entry := { ent .load (.remote 1 false (rank * 2 ^ 54)) 4 .flow with lane := some 63, res := some 5 }

def waiting63 : Group :=
  { grp with lanes := [(63, lane0)], results := [{ id := 5, dst := .lane 63 [127], width := 4, left := 1, value := 0 }] }

theorem answers_of (m : LsMsg) (e : Entry) (s : State) (h0 : inTurn m [4] s) (h1 : s.answered m = some e) (h2 : e.issuer = .group 0)
    (h3 : (match e.op with | .engWin _ _ => false | _ => true) = true) (h4 : e.summaryRead (s.group 0) = false)
    (h5 : e.lostRead (s.group 0) = false) (h6 : e.byHandler = false) : answers m e 0 s := by
  refine ⟨h0, h1, h2, ?_, h4, h5, h6⟩
  intro op read h; simp [h] at h3

theorem test_meets_RepliesComplete :
    (let s := asked (farLoad 1) waiting63
     answers (lsMsg 4 0xF0 0 0 9) (farLoad 1) 0 s ∧ (∀ x, (farLoad 1).op ≠ .marm x) ∧
     (s.group 0).results.find? (fun r => decide (some r.id = (farLoad 1).res)) = some { id := 5, dst := .lane 63 [127], width := 4, left := 1, value := 0 } ∧
     ((s.group 0).results.map PendRes.id).Nodup) ∧
    (let e := ent (.marm 3) (.remote 1 false (2 ^ 54)) 4 .flow
     let s := asked e { grp with mon := .pending }
     answers (lsMsg 4 0xF0 0 0 1) e 0 s ∧ (s.group 0).monEntry = e.id ∧ (s.group 0).mon = .pending) ∧
    (let e := ent .store (.remote 1 false (2 ^ 54)) 4 .flow
     ∀ op ∈ [0xF1, 0xF3, 0xF8, 0xF9], answers (lsMsg 4 op 1 0 1) e 0 (asked e grp)) ∧
    (answers (lsMsg 4 0xF2 0 0 0) (farLoad 1) 0 (asked (farLoad 1) waiting63) ∧ (asked (farLoad 1) waiting63).rankPos 0 1 = 1) ∧
    (answers (lsMsg 4 0xF2 0 0 0) (farLoad 0) 0 (asked (farLoad 0) waiting63) ∧ (asked (farLoad 0) waiting63).rankPos 0 0 ≠ 1) := by
  refine ⟨⟨answers_of _ _ _ ?_ ?_ ?_ ?_ ?_ ?_ ?_, ?_, ?_⟩, ⟨answers_of _ _ _ ?_ ?_ ?_ ?_ ?_ ?_ ?_, ?_⟩, ?_,
    ⟨answers_of _ _ _ ?_ ?_ ?_ ?_ ?_ ?_ ?_, ?_⟩, answers_of _ _ _ ?_ ?_ ?_ ?_ ?_ ?_ ?_, ?_⟩ <;>
    first
    | decide +kernel | (unfold inTurn; decide +kernel) | (intro x h; cases h; done)
    | (intro e op h; simp only [List.mem_cons, List.not_mem_nil, or_false] at h
       rcases h with rfl | rfl | rfl | rfl <;>
         (refine answers_of _ _ _ ?_ ?_ ?_ ?_ ?_ ?_ ?_ <;> first | decide +kernel | (unfold inTurn; decide +kernel)))

theorem test_meets_NoticesAndTimers :
    (let g := { grp with mon := .armed, monTag := 1, monPos := some 1 }
     inTurn (lsMsg 3 0xF4 0 0 0) [3] (withGroup g) ∧ (withGroup g).groups.find? (fun p => decide (p.1 = 0)) = some (0, g)) ∧
    (let m := lsMsg 2 0xF6 0 0 0x10000
     inTurn m [2] (withBlock (gangBlk 0)) ∧ (withBlock (gangBlk 0)).noticed m ≠ [] ∧
     (findKey ((withBlock (gangBlk 0)).block 0).members (noticeIndex m)).isSome = true) ∧
    inTurn (lsMsg 2 0xF7 2 0 0x10000) [2] (withBlock (gangBlk 0)) ∧
    (let e := { ent (.atom .add) (.remote 1 false 0) 4 .flow with tag := 4095 * 16 + 15 }
     let s := { holding [e] with cores := [(0, { Core.empty with slots := [(4095, { ReqSlot.empty with inUse := true, gen := 15 })] })] }
     let r := (s.core 0).slot 4095
     r.inUse = true ∧ r.since + r.limit ≤ s.fab.podtime ∧ s.findEntry r.entry = some e ∧ e.issuer = .group 0 ∧ e.core = 0 ∧ e.tag = 4095 * 16 + r.gen ∧
     e.summaryRead (s.group 0) = false ∧ e.lostRead (s.group 0) = false ∧ e.byHandler = false) ∧
    (let s := { busy with cores := [(0, { Core.empty with slots := [(4095, { ReqSlot.empty with withheld := true })] })] }
     ((s.core 0).slot 4095).withheld = true ∧ ((s.core 0).slot 4095).since + ((s.core 0).slot 4095).limit ≤ s.fab.podtime) := by
  refine ⟨⟨?_, ?_⟩, ⟨?_, ?_⟩, ?_, ?_, ?_⟩ <;> first | decide +kernel | (unfold inTurn; decide +kernel)

/-! ### Witnesses: links, ports, groups and blocks -/

/-- This chip and position 1, whose circuit is at port 0, with some of the fabric changed. -/
def circuit (f : Fabric → Fabric) : State :=
  { busy with fab := f { State.reset.fab with dark := [], occupied := [0, 1] } }

/-- The end marker of a transfer, as one flit under number 5 of its receiver. -/
def markFlit (crc : Word) : Flit := { payload := (encodeMsg 9 (.marker (marker 1 1))).headD [], crc := crc }

def markCrc : Word := crcOf 5 ((encodeMsg 9 (.marker (marker 1 1))).headD [])

/-- The link of port 0 expects number 5. -/
def linked (l : Link) : State := circuit (fun f => { f with links := [(0, l)] })

theorem test_meets_LinksComplete :
    (let s := linked { Link.empty with e := 5 }
     let f := markFlit markCrc
     let ps := (s.link 0).partialMsg ++ [f.payload]
     let h := ps.headD []
     s.ctl.phase ≠ .fatalHeld ∧ s.fab.shut 1 = false ∧ s.fab.partner 0 = some 1 ∧ (s.link 0).rx = .run ∧ f.crc = crcOf (s.link 0).e f.payload ∧ ps.length = recNat h 1 1 + 1 ∧ recNat h 0 1 ≠ 0 ∧
     recNat h 0 1 ≠ 15 ∧ decodeMsg ps = some (.marker (marker 1 1)) ∧
     (getKey [] s.fab.hopSeen (1 * 4 + msgClass (.marker (marker 1 1)))).contains (recNat h 4 4) = false ∧ s.fab.fenced.contains 1 = false ∧
     (msgEnds s.fab.pos (.marker (marker 1 1))).2 = s.fab.pos) ∧
    (let s := linked { Link.empty with e := 6 }
     s.fab.partner 0 = some 1 ∧ (s.link 0).rx = .run ∧ (markFlit markCrc).crc ≠ crcOf (s.link 0).e (markFlit markCrc).payload ∧
     (s.link 0).room 1 = true ∧ (s.link 0).ticks < s.fab.params.flits ∧ s.ctl.phase ≠ .fatalHeld) ∧ noFlagDue busy ∧
    { busy with ctl := { busy.ctl with phase := .fatalHeld } }.ctl.phase = .fatalHeld ∧
    (∀ n ∈ [7, 8], let s := linked { Link.empty with rx := .nak, timer := true, n := n }
     s.ctl.phase ≠ .fatalHeld ∧ (s.link 0).rx = .nak ∧ (s.link 0).timer = true) := by
  refine ⟨?_, ?_, ?_, rfl, ?_⟩ <;> first | decide +kernel | (unfold noFlagDue; decide)

/-- The circuit at port 0 past its guard, with `n` flits sent. -/
def open0 (n : Nat) (f : Fabric → Fabric) : State :=
  circuit (fun g => f { g with podtime := 600, links := [(0, { Link.empty with txNext := n, ticks := n })] })

/-- A control message, an LS message and a bulk message for position 1. -/
def outOf (m : Msg) : OutMsg := { id := 3, msg := m, dst := 1, via := 0xFFFF, hop := none, sent := false, relayed := false, after := none }
def ctlMsg (typ round : Nat) : CtlMsg :=
  { typ := typ, src := 1, observer := false, round := round, origin := 1, digest := 0, offset := 0, events := [],
    acks := [], wanted := [], chunk := [] }
def outCtl : OutMsg := outOf (.ctl (ctlMsg 1 0))
def outLs : OutMsg := outOf (.ls (lsMsg 1 0x4A 0 0 0))
def outBulk : OutMsg := { outOf (.marker (marker 1 1)) with id := 4 }

theorem test_meets_PortsComplete :
    (∀ b, let s := open0 0 (fun f => { f with links := [(0, { Link.empty with dueNak := b, dueAck := true })] })
     s.sender 0 = some 1 ∧ ((s.link 0).dueNak || (s.link 0).dueAck) = true ∧ (s.link 0).room 1 = true) ∧
    (let s := open0 0 (fun f => { f with lsOwed := [(1, 1)] })
     s.sender 0 = some 1 ∧ (s.link 0).dueNak = false ∧ (s.link 0).dueAck = false ∧
     getKey 0 s.fab.lsOwed 1 + getKey 0 s.fab.bulkOwed 1 ≠ 0 ∧ (s.link 0).room 1 = true) ∧
    (let s := open0 0 (fun f => { f with ctlOut := [outCtl] })
     noneOwed 0 1 s ∧ nextControl 0 1 s = some outCtl) ∧
    (let s := open0 0 (fun f => { f with lsOut := [outLs] })
     portIdle 0 1 s ∧ fitsSlot s (s.link 0) 1 = true ∧ s.fab.lsOut.find? (fun m => (lsVia s 0 m).isSome) = some outLs ∧
     oldestBulk s 0 s.fab.bulkOut [] = none) ∧
    (let s := open0 700 (fun f => { f with bulkOut := [outBulk] })
     portIdle 0 1 s ∧ s.fab.lsOut.find? (fun m => (lsVia s 0 m).isSome) = none ∧ oldestBulk s 0 s.fab.bulkOut [] = some (outBulk, 0xFFFF)) ∧
    (let s := open0 700 (fun f => { f with lsOut := [outLs], bulkOut := [outBulk] })
     portIdle 0 1 s ∧ fitsSlot s (s.link 0) 1 = true ∧ s.fab.lsOut.find? (fun m => (lsVia s 0 m).isSome) = some outLs ∧
     oldestBulk s 0 s.fab.bulkOut [] = some (outBulk, 0xFFFF)) ∧
    (let s := open0 0 id
     noneOwed 0 1 s ∧ nextControl 0 1 s = none ∧ (s.link 0).room 1 = true ∧ s.fab.lsOut = [] ∧ s.fab.bulkOut = []) ∧
    (let s := open0 0 (fun f => { f with links := [(0, { Link.empty with replayBuf := List.replicate 2048 (0, { payload := [], crc := 0 }) })] })
     s.sender 0 = some 1 ∧ 2048 ≤ (s.link 0).replayBuf.length) ∧ (circuit id).sender 0 = none ∧
    (∀ b, let r : RelayItem := { msg := .ls (lsMsg 1 0x4A 0 0 0), src := 63, dst := 1, bulk := b, flits := 1, slot := 0 }
     let s := circuit (fun f => { f with relay := [r], slot := 1 })
     s.fab.circuit 0 = some 1 ∧ s.fab.relay.find? (fun r => decide (r.dst = 1 ∧ r.slot < s.fab.slot)) = some r) := by
  refine ⟨?_, ?_, ⟨?_, ?_⟩, ⟨?_, ?_⟩, ⟨?_, ?_⟩, ⟨?_, ?_⟩, ⟨?_, ?_⟩, ?_, ?_, ?_⟩ <;>
    first | decide +kernel | (unfold noneOwed; decide +kernel) | (unfold portIdle noneOwed nextControl; decide +kernel)

/-- A trap of the group's lane. -/
def trap0 (code : Nat) : TrapInfo :=
  { code := code, indeterminate := false, uniform := false, async := true, prefixed := false, pc := 0, lanes := 1, addr := 0, lane := 0,
    widthc := 0, word := 0, pfxWord := 0, aux := 0 }

theorem test_meets_GroupBoundaries :
    (let g := { grp with async := [trap0 9, trap0 6], sync := some (trap0 1) }
     let s := withGroup g
     g.alive = true ∧ g.settled s.clock = true ∧ g.handler = .none ∧ lowestTrap g.async = some (trap0 6) ∧
     (s.ctxDesc (s.block (s.group 0).block).ctx).traph ≠ 0) ∧
    (let g := { grp with sync := some (trap0 1) }
     g.alive = true ∧ g.settled 0 = true ∧ g.handler = .none ∧ g.async = [] ∧ g.sync = some (trap0 1)) ∧
    (let g := { grp with preempt := true, mon := .armed }
     g.preemptible 0 = true ∧ ((withGroup g).block g.block).started = true ∧ g.handler = .none) ∧
    (let s := { mapped busy with groups := [(0, { grp with replay := some { pages := [0x40000000] } })] }
     let ptes : List PteWrite := [{ pa := 0x20008, val := 0x40000007 }]
     (s.group 0).replay = some { pages := [0x40000000] } ∧ s.ptesGood ptes = true ∧
     [0x40000000].all ((s.writePtes ptes).mapped (s.block (s.group 0).block).ctx) = true ∧
     [0x40000000].all (s.mapped (s.block (s.group 0).block).ctx) = false) ∧
    (let s := { withBlock { blk with preempting := true } with groups := [(0, { grp with handler := .saved })] }
     (s.block 0).resident = true ∧ (s.block 0).preempting = true ∧ (s.block 0).frozen = false ∧
     (s.block 0).groups.all (fun k => (s.group k).drained) = true) := by decide +kernel

/-- The group with its lane EXITED. -/
def spent : Group := { grp with lanes := [(0, { lane0 with st := .exited })] }

/-- A grid that this chip is to take up: its window is a page of 1 GiB at virtual address 2^30. -/
def preparing : State :=
  let s := mapped busy
  { s with
    mem := writeNat s.mem 0x20008 8 0x40000023,
    tt := { State.reset.tt with grids := [(0, { GridRow.empty with state := 1, nranks := 1, gsz := 1, bpr := 1, expLen := 0x40000000, origin := 1 })], rankMap := [(0, [0])] } }

/-- A kernel of one word for it. -/
def image0 : RankImage :=
  { ok := true, desc := packBytes 64 [(8, 4, 4)], code := bytesLE 4 0x80000000, bank := [], winBase := 0x40000000, tables := [] }

theorem test_meets_BlocksComplete :
    (let s := withGroup { spent with paths := [(63, 0xFFFF)] }
     exhausted 0 s ∧ (s.group 0).flushed = false ∧ (s.group 0).flush = none) ∧
    (let s := { withGroup { spent with async := [trap0 0x09] } with ctxs := [] }
     (s.group 0).liveLanes = [] ∧ (s.group 0).erq = [] ∧ (s.block (s.group 0).block).started = true ∧ (s.group 0).handler = .none ∧
     (s.group 0).settled s.clock = true ∧ lowestTrap (s.group 0).async = some (trap0 0x09) ∧
     (s.ctxDesc (s.block (s.group 0).block).ctx).traph = 0) ∧
    (let s := { pair .none blk with groups := [(0, spent), (1, grp)] }
     exhausted 0 s ∧ (s.group 0).flushed = true ∧ 1 ∈ (s.block (s.group 0).block).groups ∧ (s.group 1).ended = false ∧
     (s.block (s.group 0).block).preempting = false) ∧
    (let s := withGroup spent
     exhausted 0 s ∧ (s.group 0).flushed = true ∧ (s.block (s.group 0).block).gsz ≤ 1 ∧
     (∀ j ∈ (s.block (s.group 0).block).groups, j ≠ 0 → (s.group j).ended = true) ∧ (s.block (s.group 0).block).preempting = false) ∧
    (∀ r, let s := { withBlock { blk with started := false, restoring := r } with grids := [(0, GridPrep.empty)] }
     (s.block 0).resident = true ∧ (s.block 0).started = false ∧ (s.block 0).tStart ≤ s.fab.podtime ∧ (s.ctxDesc (s.block 0).ctx).state = 1 ∧
     findKey s.grids (s.block 0).grid = some GridPrep.empty) ∧
    (let s := { preparing with ctl := { preparing.ctl with phase := .fatalHeld } }
     s.ctl.phase = .fatalHeld) ∧
    (preparing.ctl.phase ≠ .fatalHeld ∧ preparing.rankHere 0 0 = true ∧ preparing.rankSource 0 { image0 with ok := false } = none) ∧
    (let v := preparing.writePtes image0.tables
     let ls := v.leavesOf 0 ((preparing.gridRow 0).expLen / 65536 + 1) 0x40000000 0x80000000
     preparing.rankHere 0 0 = true ∧ preparing.rankSource 0 image0 = some image0 ∧ (preparing.ctxDesc 0).state = 1 ∧ preparing.ptesGood image0.tables = true ∧
     image0.winBase % 65536 = 0 ∧ ls.all (fun l => windowLeaf (preparing.gridRow 0).flags l.2) = true ∧
     (preparing.gridRow 0).expLen ≤ coveredBy ls 0x40000000 0x80000000 ∧ (v.prepareRank 0 0 image0 ls).isSome = true) := by
  refine ⟨⟨?_, ?_⟩, ?_, ⟨?_, ?_⟩, ⟨?_, ?_⟩, ?_, ?_, ?_, ?_⟩ <;> first | decide +kernel | (unfold exhausted; decide +kernel)

/-! ### Witnesses: the Ductus -/

/-- A member of a pod, with some of its Ductus changed. -/
def member (f : Ductus → Ductus) : State := { busy with duc := f { State.reset.duc with role := .member, formation := [0, 1] } }

def contribution (origin round : Nat) : Contribution := { origin := origin, round := round, digest := 0, events := [] }

/-- A record of round 0 that names these positions. -/
def record (named : List Nat) (hash : BitVec 256) : AckRec := { round := 0, attempt := 0, named := named, hash := hash }

/-- A contribution to round 2 with a digest. -/
def odd (origin : Nat) (digest : BitVec 256) : Contribution := { contribution origin 2 with digest := digest }

theorem test_meets_RoundsComplete :
    (let s := { busy with duc := { State.reset.duc with role := .observer }, fab := { State.reset.fab with podtime := 9990 } }
     slotDue 10 s) ∧
    (let s := member (fun d => { d with acks := [(0, record [0, 1] 5), (1, record [0, 1] 5)], contribs := [contribution 0 0, contribution 1 0] })
     s.duc.role = .member ∧ s.verdict = .apply [contribution 0 0, contribution 1 0] ∧
     s.losing 0 [contribution 0 0, contribution 1 0] = false ∧
     ∀ a ∈ (applyRound s.tt 0 s.duc.formation (s.membersAt 0) [contribution 0 0, contribution 1 0]).acts, a ≠ .lost s.fab.pos) ∧
    (let set := [odd 0 1, odd 1 2, odd 2 2]
     let s := member (fun d => { d with formation := [0, 1, 2], lowest := 2, contribs := set,
                                        acks := [(0, { record [0, 1, 2] 5 with round := 2 }), (1, { record [0, 1, 2] 5 with round := 2 })] })
     s.verdict = .apply set ∧ s.losing s.duc.lowest set = true) ∧
    (let s := member (fun d => { d with acks := [(0, record [0, 1] 5), (1, record [0, 1] 5)], contribs := [contribution 0 0] })
     s.verdict = .fetch [1] ∧ (s.holderOf s.duc.lowest 1).isSome = true) ∧
    (let s := member (fun d => { d with acks := [(0, record [0] 5), (1, record [0, 1] 6)], contribs := [contribution 0 0, contribution 1 0] })
     s.verdict = .again) ∧
    (let s := member (fun d => { d with idleSlots := 64 })
     s.duc.role = .member ∧ 64 ≤ s.duc.idleSlots) ∧
    (let s := { busy with duc := { State.reset.duc with role := .observer, idleSlots := 64, sponsor := some 1, formation := [1, 2] } }
     s.duc.role = .observer ∧ 64 ≤ s.duc.idleSlots) ∧
    (let s := member id
     let s := { s with fab := { s.fab with slot := 64 } }
     s.duc.role = .member ∧ s.ctl.charged < s.fab.slot / 64) := by
  refine ⟨?_, ?_, ?_, ?_, ?_, ?_, ?_, ?_⟩ <;> first | decide +kernel | (unfold slotDue; decide +kernel)

/-- The chip observes the pod from position 1, with `n` bytes of its snapshot in. -/
def observing (n : Nat) : State :=
  { busy with duc := { State.reset.duc with role := .observer, sponsor := some 1, snapGot := n } }

theorem test_meets_ProctorMessages :
    (let m := { ctlMsg 0 0 with acks := [record [1] 5] }
     let s := member id
     s.hears m = true ∧ s.duc.msgAcks = [] ∧ m.observer = false ∧ s.duc.lowest ≤ (contributionOf m).round ∧ s.held (contributionOf m).round (contributionOf m).origin = none) ∧
    (let m := { ctlMsg 0 0 with acks := [record [1] 5] }
     let s := member (fun d => { d with contribs := [contributionOf m] })
     s.hears m = true ∧ (s.held (contributionOf m).round (contributionOf m).origin).isSome = true ∧
     s.duc.holdsMessage (contributionOf m).origin (contributionOf m).round = false) ∧
    (let m := { ctlMsg 0 2 with observer := true, digest := 5 }
     let s := member (fun d => { d with clients := [1] })
     s.hears m = true ∧ s.duc.clients.contains m.src = true ∧ m.digest ≠ 0) ∧
    (∀ t ∈ [1, 2], (member id).hears (ctlMsg t 0) = true ∧ (member id).held 0 1 = none) ∧
    (let s := member (fun d => { d with snapshots := [(8, [])] })
     s.hears (ctlMsg 3 0) = true ∧ s.duc.snapshots.getLast? = some (8, [])) ∧
    (let m := { ctlMsg 4 8 with chunk := bytesLE 4096 1 }
     let s := observing 0
     s.duc.sponsor = some m.src ∧ s.duc.snapWhole = false ∧ (withChunk m s.duc).snapWhole = false) ∧
    (let m := { ctlMsg 4 8 with offset := imageSize - 32, chunk := bytesLE 56 (2 ^ 256) }
     let s := observing (imageSize - 32)
     s.duc.snapWhole = false ∧ (withChunk m s.duc).snapWhole = true ∧ findKey s.duc.finalSets (m.round + 1) = none) ∧
    (∀ o ∈ [1, 0xFFFF], let m := { ctlMsg 5 9 with origin := o }
     (observing 0).duc.role = .observer ∧ (observing 0).duc.sponsor = some m.src ∧ (observing 0).duc.snapWhole = false) ∧
    (let s := member (fun d => { d with clients := [1], digests := [(7, 5), (8, 6)], peerDigests := [(1, 7, 5), (1, 8, 6)] })
     s.duc.clients.contains 1 = true ∧ s.duc.sponsored.contains 1 = false ∧ findKey s.duc.digests 7 = some 5 ∧ findKey s.duc.digests 8 = some 6) := by
  decide +kernel

/-! ### Witnesses: the control complex -/

/-- Queue 0 of context 0 with this packet in progress: its ring of 16 entries has one left. -/
def queued (p : List Byte) (f : SubQueue → SubQueue) : State :=
  let s := described (mapped busy)
  { s with
    ctl := { s.ctl with queues := [(0, f { SubQueue.empty with desc := 0x3000, base := 0x4000, size := 16, head := 15, busy := true, packet := p })] },
    tt := { State.reset.tt with ctxs := [(0, { CtxRow.empty with state := 1 })] } }

/-- A packet: its type, its address, its value and its width code. -/
def packet (typ addr val width : Nat) : List Byte := packBytes 64 [(0, 1, typ), (16, 8, addr), (24, 8, val), (32, 1, width)]

/-- A copy of 4 bytes more than 1 MiB, and a copy of the queue that is done. -/
def copyPacket : List Byte := packBytes 64 [(0, 1, 6), (40, 8, 0x100004)]
def copied : EngineOp := { engOp .hostcopy [] [] .finished with core := 0 }

theorem test_meets_QueuesComplete :
    (busy.ctl.phase = .running ∧ (busy.ring (7 * 16 + 8)).length < 16 ∧ (∀ r ∈ busy.ctl.replies, r.1 ≠ 7) ∧ (busy.ring (8 * 16 + 7)).length < 16 ∧
     (busy.subq 255).busy = false) ∧
    (∀ b, let s := queued [] (fun q => { q with busy := b })
     (s.subq 0).desc ≠ 0 ∧ inHbm (s.subq 0).desc = true ∧ (s.subq 0).busy = b) ∧
    (let p := packBytes 64 [(0, 1, 1), (40, 8, 64)]
     let s := queued p id
     packetReady 0 1 p s ∧ (s.subq 0).op = 0 ∧ submitRefusal s (bytesLE 2 (s.subq 0).ctx ++ bytesLE 2 0xFFFF ++ (sliceBytes p 16 48).drop 4) = none) ∧
    (let p := packBytes 64 [(0, 1, 1), (40, 8, 65)]
     let s := queued p id
     packetReady 0 1 p s ∧ (s.subq 0).op = 0 ∧ submitRefusal s (bytesLE 2 (s.subq 0).ctx ++ bytesLE 2 0xFFFF ++ (sliceBytes p 16 48).drop 4) = some 8 ∧
     inHbm ((s.subq 0).desc + 20) = true) ∧
    (∀ b ∈ [false, true], let s := { queued [] (fun q => { q with busy := false }) with poison := if b then [(0x4000 + 64 * 15) / 32] else [] }
     s.turnOf 0 = true ∧ (s.subq 0).busy = false ∧ headPoisoned 0 s = b ∧ skipReason (s.subq 0).ctx (s.headPacket (s.subq 0)) = some 1 ∧
     ((s.subq 0).head + 1) % (s.subq 0).size = (s.subq 0).tail) ∧
    (let p := packet 2 0x3FFFFFF8 5 3
     packetReady 0 2 p (queued p id) ∧ lastPacket 0 p (queued p id) ∧ ((queued p id).packetWrite 0 p).isSome = true) ∧
    (let p := packet 3 0x3FFFFFF8 0 0
     packetReady 0 3 p (queued p id) ∧ lastPacket 0 p (queued p id) ∧ ((queued p id).packetSignal 0 (recNat p 16 8)).isSome = true) ∧
    (∀ v ∈ [0, 1], let p := packet 4 0x3FFFFFF8 v 0
     let s := queued p id
     packetReady 0 4 p s ∧ (s.subq 0).step ≠ 1 ∧ s.served 0 = true ∧ (s.subq 0).ctx = s.ctl.turnCtx ∧ s.ctlLoad 0 (recNat p 16 8) 8 = some 0 ∧
     lastPacket 0 p s) ∧
    (∀ n ∈ [0, 1], let p := packet 5 0x3FFFFFF8 5 2
     let s := queued p (fun q => { q with step := n })
     packetReady 0 5 p s ∧ lastPacket 0 p s ∧ (s.packetWrite 0 p).isSome = true ∧ (s.packetSignal 0 (recNat p 40 8)).isSome = true) ∧
    (let s := { queued copyPacket (fun q => { q with step := 1 }) with ops := [copied] }
     packetReady 0 6 copyPacket s ∧ (s.subq 0).flush = none ∧ (s.copies 0).length = (s.subq 0).step ∧
     (∀ o ∈ s.copies 0, o.stage = .finished ∧ o.faulted = false) ∧ (s.subq 0).step * 2 ^ 20 < recNat copyPacket 40 8) ∧
    (let f : Flush := { number := 7, paths := [(1, 0xFFFF)], awaited := [], fenced := false }
     let s := { queued copyPacket (fun q => { q with step := 2, flush := some f }) with ops := [copied] }
     packetReady 0 6 copyPacket s ∧ (s.subq 0).flush = some f ∧ (∀ o ∈ s.copies 0, o.faulted = false) ∧ lastPacket 0 copyPacket s) ∧
    (20000 ≤ 20000 + getKey 0 busy.ctl.overrun busy.ctl.turnCtx ∧ ∀ x ∈ busy.ctl.queues, x.2.midway = false) := by
  refine ⟨?_, ?_, ?_, ?_, ?_, ?_, ?_, ?_, ?_, ?_, ?_, ?_⟩ <;> first | decide +kernel | (unfold packetReady lastPacket; decide +kernel) | (unfold packetReady; decide +kernel)

/-- A handle asked for: 64 bytes that span two pages. -/
def handleReq : HandleReq :=
  { ctx := 0, index := 4095, base := 0x3FFFFFC0, length := 128, rd := true, wr := true, tables := [{ pa := 0x20008, val := 0x40000007 }] }

theorem test_meets_SystemRequests :
    busy.ctl.phase = .running ∧
    (let s := mapped busy
     let c : PteChange := { ctx := 0, entry := { pa := 0x20008, val := 0x40000007 }, form := .context }
     s.inval = none ∧ s.refusesChange c = false) ∧
    (let s := mapped busy
     let c : PteChange := { ctx := 0, entry := { pa := 0x20001, val := 0 }, form := .die }
     s.inval = none ∧ s.refusesChange c = true) ∧
    (let i : Inval := { before := 3, freed := [(0, 30)], req := some [1] }
     let s := { busy with inval := some i }
     s.ctl.phase ≠ .fatalHeld ∧ s.inval = some i ∧ s.entries.any (Entry.stale i.before) = false) ∧
    (let s := mapped busy
     s.ptesGood handleReq.tables = true ∧ s.handleAsked handleReq = true ∧
     ((s.writePtes handleReq.tables).pinPages 0 true (handleReq.length / 65536 + 2) handleReq.base (handleReq.base + handleReq.length)).isSome = true) ∧
    (region.handle 0 1).st = .live ∧
    (let s := { busy with handles := [(1, { HandleEnt.empty with st := .draining })] }
     (s.handle 0 1).st = .draining ∧ (s.handle 0 1).users = []) ∧
    (let b := packBytes 128 [(0, 2, 4095), (2, 1, 1), (4, 4, 50), (8, 8, 0x10000), (20, 4, 4096), (24, 4, 8192)]
     recNat b 0 2 = 4095 ∧ descriptorValid b = true ∧ busy.mapsBad 4095 b = false) := by decide +kernel

/-- An access of host core 31. -/
def hostAcc (op : HostOp) (pa : Nat) : HostAcc := { op := op, core := 31, pa := pa, size := 8, data := 3, aq := true, rl := true }

theorem test_meets_BootAndErrors :
    State.reset.ctl.phase = .off ∧ busy.ctl.phase = .running ∧ (FatalCause.dump ≠ .mailbox) ∧
    (let s := { busy with ctl := { busy.ctl with overflows := 2 } }
     2 ≤ s.ctl.overflows) ∧
    (let s := { busy with ctl := { busy.ctl with dump := (busy.fatal .dump).ctl.dump } }
     s.ctl.phase = .running ∧ ∃ d ∈ s.ctl.dump, d.finished = true ∧ d.acknowledged = false) ∧
    ((busy.group 0).resident = true ∧ (busy.block 0).resident = true ∧ 65535 < (busy.block 0).scr) ∧
    (let s := { withBlock heldBlk with grids := [(3, GridPrep.empty)] }
     ∃ r, (s.block 0).handle 15 = some r ∧ 4095 < r.gran * 4096 ∧ findKey s.grids 3 = some GridPrep.empty) ∧
    (let s := { busy with duc := { State.reset.duc with role := .member } }
     s.duc.role = .member) ∧
    (inHbm 0x58582EFFFF = true ∧ inReserve 0x58582EFFFF = false) ∧
    (∀ op ∈ [HostOp.load, .store, .amoAdd, .amoMaxu, .lr, .sc], hostAsks (hostAcc op 0x59682EFFF8) = true) ∧
    (inHbm 0x59682EFFF8 = true ∧ inHbm (0x59682EFFF8 + 8 - 1) = true ∧ poisoned busy.poison 0x59682EFFF8 8 = false) ∧
    (findKey busy.ctl.hostResv 31 ≠ some (0x59682EFFF8 / 8 * 8)) ∧
    (let s := { busy with ctl := { busy.ctl with hostResv := [(31, 0x59682EFFF8)] } }
     findKey s.ctl.hostResv 31 = some (0x59682EFFF8 / 8 * 8)) ∧
    (hostAsks (hostAcc .load 0x59682F0000) = true ∧ inHbm 0x59682F0000 = false) := by
  refine ⟨?_, ?_, ?_, ?_, ?_, ?_, ⟨_, rfl, ?_⟩, ?_⟩ <;> decide +kernel

/-! ### Witnesses: encodings, steps and limits -/

theorem test_meets_EncodingsDecode :
    Instr.isWord (.pfx { mask := 7, z := true, neg := true, rnd := 5, vc := .ch true 15, space := 3, scope := 5, order := 3, sat := true }) = true ∧
    Instr.wf (.pfx { mask := 7, z := true, neg := true, rnd := 5, vc := .ch true 15, space := 3, scope := 5, order := 3, sat := true }) = true ∧
    Instr.wf (.mst 120 (.reg 63) 15 5 true true) = true ∧ Instr.wf (.br (BitVec.ofInt 17 (-2 ^ 16))) = true ∧
    Instr.wf (.lda (.reg 124) (.reg 126) 4 1 5) = true := by decide

theorem test_meets_DecodedWordsEncode : (0xD2000800 : Nat) < 2 ^ 32 ∧ decodeWord 0xD2000800 = .ok (.pref (.reg 2) 0) := ⟨by decide, rfl⟩

/-- A module whose next step issues the four words that `w` holds. -/
def placed (w : Nat) : State := { State.reset.withFetchWord 32 0 with mem := writeBytes [] 0 (bytesLE 16 w) }

/-- The second port has this module's word before it. -/
def onPort2 : State := (placed 0x80000000).setGroup 0 { (placed 0x80000000).group 0 with port2 := some (0, [1]) }

/-- All lanes stand at the last word of their code's first page, and the second is in no TLB. -/
def coldPage : State :=
  let s := placed 0
  { s.setGroup 0 ((s.group 0).mapLanes (fun _ x => { x with pc := 65532 }) (List.range 64)) with
    agenda := [], grids := [(0, { GridPrep.empty with codeLen := 131072 })], mem := writeBytes [] 65532 (bytesLE 4 0x2F030201) }

/-- All lanes of a group. -/
def all64 : List Nat := List.range 64

theorem test_meets_StepRunsDecoded :
    (let a := { placed 0x80000000 with agenda := [] }
     (placed 0x80000000).agenda = [.issue 0] ∧ (a.group 0).port2 = none ∧ a.mayIssue 0 = true ∧ a.vote 0 = some (0, all64, none) ∧
     fetchWord (a.primary 0 0 all64 none) 0 0 = .word 0x80000000 ∧ isPfxWord 0x80000000 = false ∧ fusedHere 0x80000000 (a.primary 0 0 all64 none) = .no ∧
     decodeWord 0x80000000 = .ok .nop) ∧
    (let a := { placed 0x0105060700310D00 with agenda := [] }
     a.mayIssue 0 = true ∧ a.vote 0 = some (0, all64, none) ∧ fetchWord (a.primary 0 0 all64 none) 0 0 = .word 0x00310D00 ∧ isPfxWord 0x00310D00 = true ∧
     fetchWord (a.primary 0 0 all64 none) 0 4 = .word 0x01050607) ∧
    (let a := { placed 0x2A0706053C0605002B0504032F030201 with agenda := [] }
     a.mayIssue 0 = true ∧ a.vote 0 = some (0, all64, none) ∧ fetchWord (a.primary 0 0 all64 none) 0 0 = .word 0x2F030201 ∧ isPfxWord 0x2F030201 = false ∧
     (match fusedHere 0x2F030201 (a.primary 0 0 all64 none) with | .yes _ => true | _ => false) = true) ∧
    (coldPage.mayIssue 0 = true ∧ coldPage.vote 0 = some (65532, all64, none) ∧
     fetchWord (coldPage.primary 0 65532 all64 none) 0 65532 = .word 0x2F030201 ∧
     fusedHere 0x2F030201 (coldPage.primary 0 65532 all64 none) = .walk 65536) ∧
    (let a := { onPort2 with agenda := [] }
     let b := (a.setGroup 0 { a.group 0 with port2 := none }).startIssue 0 0 [1] true
     (a.group 0).port2 = some (0, [1]) ∧ (a.group 0).sync = none ∧ (a.group 0).stopped = false ∧ fetchWord b 0 0 = .word 0x80000000 ∧
     fusedHere 0x80000000 b = .no ∧
     (match exec .nop (Claim.fetched b 0x80000000) with | .next t => t.iss.issued | _ => false) = true) ∧
    Instr.isEvent .warmReset = true := by
  refine ⟨⟨rfl, ?_, ?_, ?_, ?_, ?_, ?_, rfl⟩, ⟨?_, ?_, ?_, ?_, ?_⟩, ⟨?_, ?_, ?_, ?_, ?_⟩, ?_, ⟨?_, ?_, ?_, ?_, ?_, ?_⟩, ?_⟩ <;> decide +kernel

theorem test_meets_StepKeepsInvariant :
    Inv State.reset ∧ (match step State.reset with | .next _ => true | _ => false) = true ∧ Inv (placed 0x80000000) ∧
    (match step (placed 0x80000000) with | .next t => (t.group 0).lanesIn .run | _ => []) = List.range 64 := by
  refine ⟨⟨?_, ⟨?_, ?_⟩, ?_⟩, ?_, ⟨?_, ⟨?_, ?_⟩, ?_⟩, ?_⟩ <;>
    first | decide +kernel | (intro p hp; cases hp; done) |
      (intro p hp
       have h1 : ∀ q ∈ (placed 0x80000000).groups, q.2.port2 = none ∧ q.2.stuck = none := by decide +kernel
       constructor <;> intro q ls h <;> simp [h1 p hp] at h)

/-- A context with a trap handler, and a word whose prefix is latched. -/
def prefixedBusy : State := prefixed (spacePfx 0) busy

theorem test_meets_IllegalWordsTrap :
    (canTrap busy ∧ decodeWord 0xFFFFFFFF = .error .reservedOpcode) ∧ (canTrap prefixedBusy ∧ prefixedBusy.iss.pfx.isSome = true) ∧
    (let s := prefixed { spacePfx 1 with scope := 0 } busy
     canTrap s ∧ ∃ f, laneTable s (.iadd (.reg 127) (.reg 0) (.reg 1)) = some f ∧ pfxOk f.acc s.iss.pfx = false) ∧
    (canTrap prefixedBusy ∧ (uniTable prefixedBusy (.sadd (.reg 63) (.reg 0) (.reg 1))).isSome = true ∧ prefixedBusy.iss.pfx.isSome = true) := by
  refine ⟨⟨?_, rfl⟩, ⟨?_, rfl⟩, ⟨?_, _, rfl, ?_⟩, ?_, ?_, rfl⟩ <;> first | decide | (unfold canTrap; decide)

/-- The address in v1, and PSIZE. -/
def privately (x : Word) (n : Nat) : State := { addressed x with grids := [(0, { GridPrep.empty with psize := n })] }

/-- The form of a load of 4 bytes of private memory. -/
def privateForm : MemForm := loadForm (plainWord .priv 2 0x50) (.reg 127) (.reg 1) 0

theorem crooked_at (s : State) (l : Nat) : crooked privateForm.use (privateForm.at s l) ↔ privateForm.at s l % 4 ≠ 0 :=
  ⟨fun h => h.1, fun h => ⟨h, .inr ⟨by decide, by decide⟩⟩⟩

theorem beyond_at (s : State) (l : Nat) :
    beyond privateForm.use s (privateForm.at s l) ↔ (s.grid s.issuingBlock.grid).psize < privateForm.at s l + 4 := Iff.rfl

theorem test_meets_AccessLimitsTrap :
    (∀ x ∈ ([(13, 16), (16, 16), (12, 16), (0, 0)] : List (Word × Nat)),
      let s := privately x.1 x.2
      memTable s (.ldp (.reg 127) (.reg 1) 2 0) = some privateForm ∧ lanesOk s ∧ laneReady privateForm.acc privateForm.uses s = true ∧ canTrap s ∧
      actLanes s = [0]) ∧
    crooked privateForm.use (privateForm.at (privately 13 16) 0) ∧
    (¬ crooked privateForm.use (privateForm.at (privately 16 16) 0) ∧ beyond privateForm.use (privately 16 16) (privateForm.at (privately 16 16) 0)) ∧
    ¬ beyond privateForm.use (privately 12 16) (privateForm.at (privately 12 16) 0) ∧ privateForm.use.space = .priv ∧
    ((privately 0 0).grid 0).psize = 0 := by
  refine ⟨fun x hx => ?_, ?_, ⟨?_, ?_⟩, ?_, rfl, rfl⟩
  · simp only [List.mem_cons, List.not_mem_nil, or_false] at hx
    rcases hx with rfl | rfl | rfl | rfl <;> exact ⟨rfl, sel_lanes _ rfl, by decide, by unfold canTrap; decide, by decide⟩
  · rw [crooked_at]; decide
  · rw [crooked_at]; decide
  · rw [beyond_at]; decide
  · rw [beyond_at]; decide

theorem test_meets_DistinctCountMerge : isDcr (initialImage .dcr 0) ∧ objSeed (initialImage .dcr 0) = 0 := by
  unfold isDcr; decide +kernel

theorem test_meets_RoundsIgnoreOrder :
    finalSet [contribution 0 5, contribution 63 5] ∧ [contribution 0 5, contribution 63 5].Perm [contribution 63 5, contribution 0 5] :=
  ⟨⟨by decide, by decide⟩, .swap _ _ _⟩

/-! ### Worked examples of the spec -/

/-- Lane 0's register after one word, with v2, v3 and v4 given. -/
def after (i : Instr) (x y z : Word) (r : Nat) : Option Word :=
  match exec i (withGroup (((grp.setVreg 2 0 x).setVreg 3 0 y).setVreg 4 0 z)) with
  | .next t => some ((t.group 0).vreg r 0)
  | _ => none

/-- The same with a prefix. -/
def afterPfx (p : Pfx) (i : Instr) (x y : Word) (r : Nat) : Option Word :=
  match exec i (prefixed p (withGroup ((grp.setVreg 2 0 x).setVreg 3 0 y))) with
  | .next t => some ((t.group 0).vreg r 0)
  | _ => none

def satPfx : Pfx := { spacePfx 0 with scope := 0, sat := true }

/-- R340. -/
theorem test_integer_examples :
    after (.iadd (.reg 1) (.reg 2) (.reg 3)) 0x7FFFFFF0 0x20 0 1 = some 0x80000010 ∧
    afterPfx satPfx (.iadd (.reg 1) (.reg 2) (.reg 3)) 0x7FFFFFF0 0x20 1 = some 0x7FFFFFFF ∧
    after (.imulhn (.reg 1) (.reg 2) (.reg 3)) 0xFFFFFFFF 0xFFFFFFFF 0 1 = some 0xFFFFFFFE ∧
    after (.imulh (.reg 1) (.reg 2) (.reg 3)) 0xFFFFFFFF 0xFFFFFFFF 0 1 = some 0 ∧
    after (.sar (.reg 1) (.reg 2) (.reg 3)) 0x80000000 32 0 1 = some 0xFFFFFFFF ∧
    after (.absd (.reg 1) (.reg 2) (.reg 3)) 0x80000000 0x7FFFFFFF 0 1 = some 0xFFFFFFFF := by decide +kernel

/-- R341. -/
theorem test_field_examples :
    after (.bfx (.reg 1) (.reg 2) (.reg 3)) 0xABCD1234 0x880C 0 1 = some 0xFFFFFFD1 ∧
    after (.bfi (.reg 4) (.reg 2) (.reg 3)) 0xABCD1234 0x880C 0 4 = some 0x00034000 := by decide +kernel

/-- R349. -/
theorem test_half_examples :
    after (.hadd2 (.reg 1) (.reg 2) (.reg 3)) 0x3C007BFF 0x3C004C00 0 1 = some 0x40007C00 ∧
    afterPfx satPfx (.hadd2 (.reg 1) (.reg 2) (.reg 3)) 0x3C007BFF 0x3C004C00 1 = some 0x40007BFF := by decide +kernel

/-- R351: lane 0 holds v4 to v7 = 0.75, 0.4375, −0.1 and 0, and the prefix names v6. -/
theorem test_narrow_example :
    (match exec (.cvtn (.reg 10) (.reg 4) 5 0) (prefixed { spacePfx 0 with scope := 0, vc := .reg 6 }
        (withGroup ((((grp.setVreg 4 0 0x3F400000).setVreg 5 0 0x3EE00000).setVreg 6 0 0xBDCCCCCD)))) with
     | .next t => ((t.group 0).vreg 10 0, (t.group 0).vreg 11 0)
     | _ => (0, 0)) = (0x0A67, 0x7C) := by decide +kernel

/-- R10: lane 5 at offset 0x24, in group 0 of block 0. -/
theorem test_private_example : privVa busy blk 0 5 0x24 = 0x854 := by decide

/-- R255: two codes and their product, as f32. -/
theorem test_ds8_example :
    roundTo 0 0 false 0 (valueOf 6 0x1A) = 0x3E800000 ∧ roundTo 0 0 false 0 (valueOf 6 0x0B) = 0x3F600000 ∧
    roundTo 0 0 false 0 (fMul (valueOf 6 0x1A) (valueOf 6 0x0B)) = 0x3E600000 := by decide +kernel

/-- R385: a constant of 64 bits. -/
theorem test_constant_example :
    (match exec (.smovi (.reg 2) 0x10) busy with
     | .next t =>
       (match exec (.smovh (.reg 2) 0) t with
        | .next t => (match exec (.smovh (.reg 2) 0) t with | .next t => (t.group 0).sreg 2 | _ => 0)
        | _ => 0)
     | _ => 0) = 0x0000001000000000 := by decide +kernel

/-- R292: an empty DCR reads 0. -/
theorem test_empty_count : dcrRead (initialImage .dcr 0) = 0 := by decide +kernel

end Sys2Proof.Tests
end

section
/-! What a word that writes registers at issue and moves on leaves as it was, and the two constant loads (R25, R366, R388). -/

namespace Sys2Proof.Proofs

open Sys2Proof.Machine Sys2Proof.Claim Sys2Proof.Laws

/-! ### Moving on -/

theorem keepsStatus_trans {g h i : Group} (a : keepsStatus g h) (b : keepsStatus h i) : keepsStatus g i := by
  obtain ⟨a1, a2, a3, a4, a5, a6, a7, a8, a9, a10, a11, a12, a13⟩ := a
  obtain ⟨b1, b2, b3, b4, b5, b6, b7, b8, b9, b10, b11, b12, b13⟩ := b
  exact ⟨b1.trans a1, b2.trans a2, b3.trans a3, b4.trans a4, b5.trans a5, b6.trans a6, b7.trans a7, b8.trans a8, b9.trans a9,
    b10.trans a10, b11.trans a11, b12.trans a12, b13.trans a13⟩

/-- The word being issued is the same in `t` as in `s`, the lanes, masks and status of its group are as they were, and so is everything outside the
group; its registers, its allowances and the entries may differ. -/
def keepsIssue (s t : State) : Prop :=
  t.iss = s.iss ∧ (∀ l, t.issuing.lane l = s.issuing.lane l) ∧ keepsMasks s.issuing t.issuing ∧ keepsStatus s.issuing t.issuing ∧
  keepsOthers s.iss.group s t

/-- Moving on keeps the registers, the masks, the allowances and the status of the group. -/
theorem advance_keeps (u : State) : let h := u.advance.group u.iss.group
    keepsLaneRegs u.issuing h ∧ keepsUniform u.issuing h ∧ keepsMasks u.issuing h ∧ keepsAllowance u.issuing h ∧ keepsStatus u.issuing h := by
  simp only [group_advance]
  refine ⟨fun r l => ?_, fun n => ?_, fun n => ?_, fun c => ?_, ?_⟩
  · simp [Group.vreg]
  · simp [Group.sreg]
  · simp
  · simp [Group.allowance]
  · simp [keepsStatus]

/-- A word whose sources left `s`, and whose results gave `u`, moves its lanes on and keeps the rest. -/
theorem advance_moves {w s u : State} (hw : lanesOk w) (hs : s.iss = w.iss) (h : keepsIssue s u) :
    movedTo (nextPc w) w (s.group w.iss.group) (u.advance.group w.iss.group) ∧
    keepsMasks (s.group w.iss.group) (u.advance.group w.iss.group) ∧ keepsStatus (s.group w.iss.group) (u.advance.group w.iss.group) ∧
    keepsOthers w.iss.group s u.advance := by
  obtain ⟨hi, hl, hm, hst, ho⟩ := h
  have ui : u.iss = w.iss := hi.trans hs
  have sg : s.issuing = s.group w.iss.group := by rw [State.issuing, hs]
  obtain ⟨-, -, am, -, ast⟩ := advance_keeps u
  have ao := keepsOthers_advance u
  rw [ui] at am ast ao
  rw [hs] at ho
  rw [← sg]
  refine ⟨lanesAt_advance w u [] 0 hw.2 _ (fun l => ?_) ui, fun n => (am n).trans (hm n), keepsStatus_trans hst ast, keepsOthers_trans ho ao⟩
  simp [hl l]

/-! ### Register groups written at once -/

theorem dataRegs_range (w r : Nat) : ∃ n, dataRegs w r = List.range' r n := by
  unfold dataRegs
  split
  · exact ⟨1, rfl⟩
  · split
    · exact ⟨2, rfl⟩
    · exact ⟨4, rfl⟩

theorem putGroup_only (clock lat l value : Nat) (rs : List Nat) (i : Nat) (g : Group) :
    g.regsOnly (putGroup clock lat l value rs i g) := by
  induction rs generalizing i g with
  | nil => exact g.regsOnly_refl
  | cons r rest ih => exact Group.regsOnly_trans (g.putV_only clock lat r l _) (ih _ _)

/-- The n registers from `r` on take the words of the value from the `i`-th on, in one lane. -/
theorem vreg_putGroup (clock lat value : Nat) {l m : Nat} (hl : l < laneCount) (hm : m < laneCount) (n r i q : Nat) (g : Group) :
    (putGroup clock lat l value (List.range' r n) i g).vreg q m =
      if m = l ∧ r ≤ q ∧ q < r + n then BitVec.ofNat 32 (value / 2 ^ (32 * (i + (q - r)))) else g.vreg q m := by
  induction n generalizing r i g with
  | zero =>
    rw [if_neg (by omega)]
    rfl
  | succ n ih =>
    rw [List.range'_succ, putGroup, ih, Group.vreg_putV _ _ _ _ _ _ _ _ hl hm]
    by_cases hlm : m = l
    · by_cases hq : q = r
      · subst hq
        rw [if_neg (by omega), if_pos ⟨rfl, hlm⟩, if_pos ⟨hlm, by omega, by omega⟩, Nat.sub_self, Nat.add_zero]
      · by_cases hin : r + 1 ≤ q ∧ q < r + 1 + n
        · rw [if_pos ⟨hlm, hin⟩, if_pos ⟨hlm, by omega, by omega⟩, show i + 1 + (q - (r + 1)) = i + (q - r) by omega]
        · rw [if_neg (fun h => hin h.2), if_neg (fun h => hq h.1), if_neg (fun h => hin (by omega))]
    · simp [hlm]

section
variable (clock : Nat) (rs : List Nat)

/-- A register group in each lane of a list. -/
def putGroups (val : Nat → Nat) (act : List Nat) (g : Group) : Group :=
  act.foldl (fun g l => putGroup clock 0 l (val l) rs 0 g) g

/-- Zeros in each register of a group, in the lanes of a list. -/
def zeroGroups (zs : List Nat) (g : Group) : Group := rs.foldl (fun g i => putZeros clock i zs g) g

theorem putGroups_only (val : Nat → Nat) (act : List Nat) (g : Group) : g.regsOnly (putGroups clock rs val act g) := by
  unfold putGroups
  induction act generalizing g with
  | nil => exact g.regsOnly_refl
  | cons l rest ih => exact Group.regsOnly_trans (putGroup_only clock 0 l (val l) rs 0 g) (ih _)

theorem zeroGroups_only (zs : List Nat) (g : Group) : g.regsOnly (zeroGroups clock rs zs g) := by
  unfold zeroGroups
  induction rs generalizing g with
  | nil => exact g.regsOnly_refl
  | cons r rest ih => exact Group.regsOnly_trans (putZeros_only clock r zs g) (ih _)

theorem vreg_putGroups (r n : Nat) (val : Nat → Nat) {act : List Nat} (ha : ∀ l ∈ act, l < laneCount) {m : Nat} (hm : m < laneCount)
    (q : Nat) (g : Group) : (putGroups clock (List.range' r n) val act g).vreg q m =
      if q ∈ List.range' r n ∧ m ∈ act then BitVec.ofNat 32 (val m / 2 ^ (32 * (q - r))) else g.vreg q m := by
  unfold putGroups
  induction act generalizing g with
  | nil => simp
  | cons l rest ih =>
    rw [List.foldl_cons, ih (fun x hx => ha x (List.mem_cons_of_mem _ hx)), vreg_putGroup clock 0 (val l) (ha l List.mem_cons_self) hm]
    simp only [List.mem_range'_1, List.mem_cons, Nat.zero_add]
    by_cases hq : r ≤ q ∧ q < r + n
    · by_cases hl : m = l
      · subst hl; simp [hq]
      · simp [hq, hl]
    · simp [hq]

theorem vreg_zeroGroups {zs : List Nat} (hz : ∀ l ∈ zs, l < laneCount) {m : Nat} (hm : m < laneCount) (q : Nat) (g : Group) :
    (zeroGroups clock rs zs g).vreg q m = if q ∈ rs ∧ m ∈ zs then 0 else g.vreg q m := by
  unfold zeroGroups
  induction rs generalizing g with
  | nil => simp
  | cons r rest ih =>
    rw [List.foldl_cons, ih, vreg_putZeros clock r zs g hz q m hm]
    by_cases h1 : q ∈ rest <;> by_cases h2 : q = r <;> by_cases h3 : m ∈ zs <;> simp [h1, h2, h3]

/-- Values in the lanes of act and then zeros in other lanes make the registers of a load (R315, R364). -/
theorem wideRegs_groups (w r : Nat) {act zs : List Nat} (val : Nat → Nat) (ha : ∀ l ∈ act, l < laneCount) (hz : ∀ l ∈ zs, l < laneCount)
    (hd : ∀ l ∈ zs, l ∉ act) (g : Group) :
    wideRegs (dataRegs w r) act zs val g (zeroGroups clock (dataRegs w r) zs (putGroups clock (dataRegs w r) val act g)) := by
  obtain ⟨n, hn⟩ := dataRegs_range w r
  have head : (dataRegs w r).headD 0 = r := by
    unfold dataRegs
    split
    · rfl
    · split <;> rfl
  intro q m hm
  rw [head, hn, vreg_zeroGroups clock _ hz hm, vreg_putGroups clock r n val ha hm]
  by_cases hq : q ∈ List.range' r n
  · by_cases hm0 : m ∈ zs
    · simp [hq, hm0, hd m hm0]
    · simp [hq, hm0]
  · simp [hq]
end

/-! ### LDC -/

/-- The destination of a load whose values are known at issue (R315, R337, R364): its register group, or a push of the lowest lane's value. -/
def wideDst (d : Dst) (w : Nat) (act zs : List Nat) (val : Nat → Nat) (g h : Group) (s t : State) : Prop :=
  match d with
  | .reg r => wideRegs (dataRegs w r) act zs val g h ∧ keepsAllowance g h ∧ t.entries = s.entries
  | .push c => keepsLaneRegs g h ∧ pushedFirst c act (fun l => BitVec.ofNat 32 (val l)) g h s t

/-- `u` is `s` with the values of a load at their destination and a zeroing guard's zeros, and nothing else changed. -/
def loadsTo (d : Dst) (w : Nat) (act : List Nat) (val : Nat → Nat) (s u : State) : Prop :=
  keepsIssue s u ∧ keepsUniform s.issuing u.issuing ∧ wideDst d w act (zeroLanes s act) val s.issuing u.issuing s u

/-- Registers written in the issuing group alone. -/
theorem loadsTo_reg {s u : State} {w r : Nat} {act : List Nat} {val : Nat → Nat} (hs : lanesOk s) (ha : ∀ l ∈ act, l < laneCount)
    (hi : u.iss = s.iss) (hg : u.issuing = zeroGroups s.clock (dataRegs w r) (zeroLanes s act)
      (putGroups s.clock (dataRegs w r) val act s.issuing)) (ho : keepsOthers s.iss.group s u) (he : u.entries = s.entries) :
    loadsTo (.reg r) w act val s u := by
  have only : s.issuing.regsOnly u.issuing := by
    rw [hg]
    exact Group.regsOnly_trans (putGroups_only _ _ _ _ _) (zeroGroups_only _ _ _ _)
  obtain ⟨uniform, masks, status, allow⟩ := regsOnly_keeps only
  refine ⟨⟨hi, regsOnly_lane only, masks, status, ho⟩, uniform, ?_, allow, he⟩
  rw [hg]
  exact wideRegs_groups _ w r val ha (fun l hl => hs.1 l (mem_zeroLanes hl).1) (fun l hl => (mem_zeroLanes hl).2) _

/-- A push placed, or none with no lane in act. -/
theorem loadsTo_push (c w : Nat) {act : List Nat} (val : Nat → Nat) {s : State} (hs : lanesOk s) (ha : ∀ l ∈ act, l < laneCount) :
    loadsTo (.push c) w act val s (putDst 0 (.push c) act (fun l => BitVec.ofNat 32 (val l)) s) := by
  obtain ⟨hi, hl, uniform, masks, status, others⟩ := putDst_frame 0 (.push c) act (fun l => BitVec.ofNat 32 (val l)) s
  exact ⟨⟨hi, hl, masks, status, others⟩, uniform, putDst_result 0 (.push c) act _ s ha fun l hl => hs.1 l (mem_zeroLanes hl).1⟩

theorem loadsTo_values (d : Dst) (w : Nat) {act : List Nat} (val : Nat → Nat) {s : State} (hs : lanesOk s) (ha : ∀ l ∈ act, l < laneCount) :
    loadsTo d w act val s (zeroGroup d w act (putWide d w act val s)) := by
  cases d with
  | reg r =>
    refine loadsTo_reg hs ha rfl ?_ (keepsOthers_trans (keepsOthers_setGroup _ s _) (keepsOthers_setGroup _ _ _)) rfl
    have values : (putWide (.reg r) w act val s).issuing = putGroups s.clock (dataRegs w r) val act s.issuing := State.group_setGroup_self _ _ _
    rw [← values]
    exact State.group_setGroup_self _ _ _
  | push c => cases act <;> exact loadsTo_push c w val hs ha

/-- With no lane in act a load writes its zeros alone (R315). -/
theorem loadsTo_zeros (d : Dst) (w : Nat) (val : Nat → Nat) {s : State} (hs : lanesOk s) : loadsTo d w [] val s (zeroGroup d w [] s) := by
  have ha : ∀ l ∈ [], l < laneCount := fun l hl => (List.not_mem_nil hl).elim
  cases d with
  | reg r => exact loadsTo_reg hs ha rfl (State.group_setGroup_self _ _ _) (keepsOthers_setGroup _ s _) rfl
  | push c => exact loadsTo_push c w val hs ha

/-- Moving on keeps what a load has written. -/
theorem wideDst_advance {d : Dst} {w : Nat} {act zs : List Nat} {val : Nat → Nat} {g : Group} {s u : State}
    (h : wideDst d w act zs val g u.issuing s u) : wideDst d w act zs val g (u.advance.group u.iss.group) s u.advance := by
  obtain ⟨regs, -, -, allow, -⟩ := advance_keeps u
  cases d with
  | reg r =>
    obtain ⟨hr, ha, he⟩ := h
    exact ⟨fun q l hl => (regs q l).trans (hr q l hl), fun c => (allow c).trans (ha c), he⟩
  | push c =>
    obtain ⟨hr, hp⟩ := h
    refine ⟨fun q l => (regs q l).trans (hr q l), ?_⟩
    cases act with
    | nil => exact ⟨fun k => (allow k).trans (hp.1 k), hp.2⟩
    | cons l rest => exact ⟨hp.1, fun k => (allow k).trans (hp.2 k)⟩

/-- The value that LDC gives a lane: the bytes of the constant bank at its address (R25). -/
def bankVal (a : Src) (w off : Nat) (s : State) (l : Nat) : Nat :=
  readNat (s.grid s.issuingBlock.grid).bank (addrOf false off ((sourcesOf [a] s).1.map (fun x => x l))) (2 ^ w)

theorem condsOf_none {f : Access → Option Cond} {xs : List Access} (h : ∀ x ∈ xs, f x = none) : condsOf f xs = [] :=
  List.filterMap_eq_nil_iff.2 fun x hx => by rw [h x hx]; rfl

/-- LDC with no lane in act. -/
theorem execLdc_idle {d : Dst} {a : Src} {w imm : Nat} {s : State} (h : laneReady accPlain (loadUses d w [a]) s = true)
    (ha : actLanes s = []) : execLdc d a w imm s = .next (zeroGroup d w [] (opened s)).advance := by
  rw [execLdc, laneGate_ready _ _ _ _ h, if_pos ha]

/-- LDC whose every address passes the bank's checks. -/
theorem execLdc_passes {d : Dst} {a : Src} {w imm : Nat} {s : State} (h : laneReady accPlain (loadUses d w [a]) s = true)
    (ha : actLanes s ≠ []) (hb : ∀ l ∈ actLanes s,
      bankCond (s.grid s.issuingBlock.grid) (2 ^ w) (addrOf false (imm * 2 ^ w) ((sourcesOf [a] s).1.map (fun x => x l))) = none) :
    execLdc d a w imm s =
      .next (zeroGroup d w (actLanes s) (putWide d w (actLanes s) (bankVal a w (imm * 2 ^ w) s) (sourcesOf [a] s).2)).advance := by
  have read : sourcesOf [a] s = readSrcs 0 [a] (opened s) := if_neg ha
  rw [read] at hb
  have clear : condsOf (fun x => bankCond ((opened s).grid (opened s).issuingBlock.grid) (2 ^ w) x.addr)
      (accessesOf false (imm * 2 ^ w) (atLane (readSrcs 0 [a] (opened s)).1) (actLanes s)) = [] := by
    refine condsOf_none fun x hx => ?_
    obtain ⟨l, hl, rfl⟩ := List.mem_map.1 hx
    exact hb l hl
  have value : bankVal a w (imm * 2 ^ w) s = fun l => readNat ((opened s).grid (opened s).issuingBlock.grid).bank
      (addrOf false (imm * 2 ^ w) (atLane (readSrcs 0 [a] (opened s)).1 l)) (2 ^ w) := by
    funext l
    rw [bankVal, read]
    rfl
  rw [execLdc, laneGate_ready _ _ _ _ h, if_neg ha, value, read]
  simp only [clear, List.map_nil, minOrder]

/-- A word that loads at issue and moves on has the effect of its destination, and no other. -/
theorem load_completes {d : Dst} {a : Src} {w : Nat} {s u : State} (hs : lanesOk s) (val : Nat → Nat)
    (hu : loadsTo d w (actLanes s) val (sourcesOf [a] s).2 u) :
    let src := (sourcesOf [a] s).2
    let g := src.group s.iss.group
    let h := u.advance.group s.iss.group
    wideDst d w (actLanes s) (zeroLanes s (actLanes s)) val g h src u.advance ∧
    movedTo (nextPc s) s g h ∧ keepsUniform g h ∧ keepsMasks g h ∧ keepsStatus g h ∧ keepsOthers s.iss.group src u.advance := by
  obtain ⟨si, -, -⟩ := sourcesOf_frame [a] s
  obtain ⟨kept, uniform, dst⟩ := hu
  obtain ⟨moved, masks, status, others⟩ := advance_moves hs si kept
  have ui : u.iss.group = s.iss.group := by rw [kept.1, si]
  have sg : (sourcesOf [a] s).2.issuing = (sourcesOf [a] s).2.group s.iss.group := by rw [State.issuing, si]
  have stored := wideDst_advance dst
  rw [zeroLanes_iss _ si, sg, ui] at stored
  obtain ⟨-, au, -, -, -⟩ := advance_keeps u
  rw [ui] at au
  rw [sg] at uniform
  exact ⟨stored, moved, fun n => (au n).trans (uniform n), masks, status, others⟩

/-! ### Uniform words that compute -/

theorem readU_iss (a : Src) (s : State) : (readU a s).2.iss = s.iss := by
  cases a with
  | reg n => rfl
  | ch pop k => cases pop <;> rfl

/-- A uniform result at its destination, and nothing else of the issue changed (R316). -/
theorem putU_writes (d : Dst) (x : DWord) (s : State) : keepsIssue s (putU d x s) ∧ keepsLaneRegs s.issuing (putU d x s).issuing ∧
    uniDst d x s.issuing (putU d x s).issuing s (putU d x s) := by
  cases d with
  | reg n =>
    have group : (putU (.reg n) x s).issuing = s.issuing.putS n x := State.group_setGroup_self _ _ _
    refine ⟨⟨rfl, fun l => ?_, fun m => ?_, ?_, keepsOthers_setGroup _ s _⟩, fun r l => ?_, fun m => ?_, fun c => ?_, rfl⟩ <;> rw [group]
    · simp [Group.lane, Group.putS]
    · simp [Group.putS]
    · simp [keepsStatus, Group.putS]
    · simp [Group.vreg, Group.putS]
    · exact Group.sreg_setSreg s.issuing n m x
    · simp [Group.allowance, Group.putS]
  | push c =>
    have group : (putU (.push c) x s).issuing = _ := placePush_group c (x.truncate 32) s
    refine ⟨⟨rfl, fun l => ?_, fun m => ?_, ?_, placePush_others c _ s⟩, fun r l => ?_, fun m => ?_, placePush_entry c _ s, fun k => ?_⟩ <;>
      rw [group]
    · rfl
    · rfl
    · exact ⟨rfl, rfl, rfl, rfl, rfl, rfl, rfl, rfl, rfl, rfl, rfl, rfl, rfl⟩
    · rfl
    · rfl
    · exact Group.allowance_setAllowance _ _ _ _

/-- Moving on keeps what a uniform word has written. -/
theorem uniDst_advance {d : Dst} {x : DWord} {g : Group} {s u : State} (h : uniDst d x g u.issuing s u) :
    uniDst d x g (u.advance.group u.iss.group) s u.advance := by
  obtain ⟨-, uni, -, allow, -⟩ := advance_keeps u
  cases d with
  | reg n =>
    obtain ⟨hr, ha, he⟩ := h
    exact ⟨fun m => (uni m).trans (hr m), fun c => (allow c).trans (ha c), he⟩
  | push c =>
    obtain ⟨hr, hp, ha⟩ := h
    exact ⟨fun m => (uni m).trans (hr m), hp, fun k => (allow k).trans (ha k)⟩

/-- A uniform word that puts its value after reading its sources, and moves on, has its effect. -/
theorem uniForm_effect {f : UniForm} {s : State} (hs : lanesOk s) (hi : (readUs f.srcs (opened s)).2.iss = s.iss) :
    f.effect s (putU f.dst (f.val (opened s) (readUs f.srcs (opened s)).1) (readUs f.srcs (opened s)).2).advance := by
  obtain ⟨kept, lane, dst⟩ := putU_writes f.dst (f.val (opened s) (readUs f.srcs (opened s)).1) (readUs f.srcs (opened s)).2
  obtain ⟨moved, masks, status, others⟩ := advance_moves hs hi kept
  have stored := uniDst_advance dst
  obtain ⟨regs, -, -, -, -⟩ := advance_keeps (putU f.dst (f.val (opened s) (readUs f.srcs (opened s)).1) (readUs f.srcs (opened s)).2)
  rw [kept.1, hi] at stored regs
  rw [State.issuing, hi] at stored lane
  exact ⟨stored, moved, fun r l => (regs r l).trans (lane r l), masks, status, others⟩

/-- SLDC whose address passes the bank's checks (R388). -/
theorem execSldc_passes {d : Dst} {a : Src} {w imm : Nat} {s : State} (h : uniReady (uniUses (some d) [a]) s = true)
    (hb : bankCond (s.grid s.issuingBlock.grid) (2 ^ w) (uniAddr false (readU a (opened s)).1 (imm * 2 ^ w)) = none) :
    execSldc d a w imm s = .next (putU d (BitVec.ofNat 64 (readNat (s.grid s.issuingBlock.grid).bank
      (uniAddr false (readU a (opened s)).1 (imm * 2 ^ w)) (2 ^ w))) (readU a (opened s)).2).advance := by
  have clear : bankCond ((opened s).grid (opened s).issuingBlock.grid) (2 ^ w) (uniAddr false (readU a (opened s)).1 (imm * 2 ^ w)) = none := hb
  rw [execSldc, uniGate_ready _ _ _ h]
  simp only [clear]
  rfl

/-- Settles O9: the loads write at issue what the bank holds at the addresses. -/
theorem constantLoadsComplete : Obligations.ConstantLoadsComplete := by
  refine ⟨fun d a w imm s hs hr hb => ?_, fun d a w imm s hs hr hb => ?_⟩
  · have src : lanesOk (sourcesOf [a] s).2 := by unfold lanesOk; rw [(sourcesOf_frame [a] s).1]; exact hs
    have done : ∃ u, execLdc d a w imm s = .next u.advance ∧ loadsTo d w (actLanes s) (bankVal a w (imm * 2 ^ w) s) (sourcesOf [a] s).2 u := by
      by_cases ha : actLanes s = []
      · have unread : (sourcesOf [a] s).2 = opened s := by rw [sourcesOf, if_pos ha]
        refine ⟨_, execLdc_idle hr ha, ?_⟩
        rw [unread] at src ⊢
        rw [ha]
        exact loadsTo_zeros d w _ src
      · exact ⟨_, execLdc_passes hr ha hb, loadsTo_values d w _ src fun l hl => hs.1 l (mem_actLanes hl)⟩
    obtain ⟨u, hu, loaded⟩ := done
    obtain ⟨dst, rest⟩ := load_completes hs _ loaded
    refine ⟨_, hu, ?_, rest⟩
    cases d <;> exact dst
  · exact ⟨_, execSldc_passes hr hb, uniForm_effect (f := uniForm d [a] _) hs (readU_iss a (opened s))⟩

end Sys2Proof.Proofs
end

section
/-! The acceptance of an engine operation (R35, R37, R115, R154, R437). -/

namespace Sys2Proof.Proofs

open Sys2Proof.Machine Sys2Proof.Claim

/-! ### The list of operations -/

theorem findOp_id {s : State} {n : Nat} {o : EngineOp} (h : s.findOp n = some o) : o.id = n := by
  simpa using List.find?_some h

/-- An operation that is found is found with its new fields after it is set. -/
theorem findOp_setOp {s : State} {n : Nat} {o p : EngineOp} (h : s.findOp n = some o) (hp : p.id = n) : (s.setOp p).findOp n = some p := by
  have same : ((fun q => decide (q.id = n)) ∘ fun q => if q.id = p.id then p else q) = fun q : EngineOp => decide (q.id = n) := by
    funext q
    by_cases hq : q.id = n <;> simp [hq, hp]
  show (s.ops.map _).find? _ = _
  rw [List.find?_map, same, show s.ops.find? _ = some o from h, Option.map_some, if_pos ((findOp_id h).trans hp.symm)]

/-! ### Holding the regions of an operation -/

/-- Holding regions changes handles alone. -/
def handlesOnly (s t : State) : Prop := ∃ hs, t = { s with handles := hs }

theorem handlesOnly.refl (s : State) : handlesOnly s s := ⟨s.handles, rfl⟩

theorem handlesOnly.trans {s t u : State} (a : handlesOnly s t) (b : handlesOnly t u) : handlesOnly s u := by
  obtain ⟨hs, rfl⟩ := a
  obtain ⟨hs', rfl⟩ := b
  exact ⟨hs', rfl⟩

section
variable {s t : State} (h : handlesOnly s t)
include h

theorem handlesOnly.srcLoc (o : EngineOp) : t.srcLoc o = s.srcLoc o := by obtain ⟨hs, rfl⟩ := h; rfl
theorem handlesOnly.dstLoc (o : EngineOp) : t.dstLoc o = s.dstLoc o := by obtain ⟨hs, rfl⟩ := h; rfl
theorem handlesOnly.findOp (n : Nat) : t.findOp n = s.findOp n := by obtain ⟨hs, rfl⟩ := h; rfl
theorem handlesOnly.fab : t.fab = s.fab := by obtain ⟨hs, rfl⟩ := h; rfl
theorem handlesOnly.bulkPath (pos : Nat) (direct : Bool) : t.bulkPath pos direct = s.bulkPath pos direct := by obtain ⟨hs, rfl⟩ := h; rfl

theorem handlesOnly.keeps : t.groups = s.groups ∧ t.blocks = s.blocks ∧ keepsMemory s t := by
  obtain ⟨hs, rfl⟩ := h
  exact ⟨rfl, rfl, fun _ => rfl, rfl⟩
end

theorem holdHandle_only (s : State) (ctx i user : Nat) : handlesOnly s (s.holdHandle ctx i user) := ⟨_, rfl⟩

theorem holdHandle_users (s : State) (ctx i user : Nat) : ((s.holdHandle ctx i user).handle ctx i).users.contains user = true := by
  unfold State.holdHandle State.setHandle State.handle
  rw [getKey_setKey_self]
  split
  · assumption
  · simp

theorem holdLoc_only (s : State) (o : EngineOp) (l : Loc) : handlesOnly s (s.holdLoc o l) := by
  cases l with
  | mem ctx i => exact holdHandle_only s ctx i o.id
  | _ => exact .refl s

theorem foldl_holdLoc_only (o : EngineOp) (l : State → Nat → Loc) (rs : List Nat) (s : State) :
    handlesOnly s (rs.foldl (fun s r => s.holdLoc o (l s r)) s) := by
  induction rs generalizing s with
  | nil => exact .refl s
  | cons r rest ih => exact (holdLoc_only s o (l s r)).trans (ih _)

theorem holdSource_only (s : State) (o : EngineOp) : handlesOnly s (if o.kind = .mst then s else s.holdLoc o (s.srcLoc o)) := by
  split
  · exact .refl s
  · exact holdLoc_only _ _ _

theorem holdAll_only (s : State) (o : EngineOp) : handlesOnly s (s.holdAll o) := by
  unfold State.holdAll
  extract_lets s1 s2
  have src : handlesOnly s s1 := holdSource_only s o
  split
  · have ts : handlesOnly s s2 := src.trans (foldl_holdLoc_only _ (fun s r => s.targetLoc o r) _ _)
    split
    · exact ts.trans (holdHandle_only _ _ _ _)
    · exact ts
  · exact src.trans (holdLoc_only _ _ _)

/-- The destination's region, but for a TILEX, has the operation among its users once all is held (R37). -/
theorem holdAll_users (s : State) (o : EngineOp) {ctx i : Nat} (hk : o.kind ≠ .tilex) (hd : s.dstLoc o = .mem ctx i) :
    ((s.holdAll o).handle ctx i).users.contains o.id = true := by
  unfold State.holdAll
  extract_lets s1
  have src : handlesOnly s s1 := holdSource_only s o
  rw [if_neg hk, src.dstLoc, hd]
  exact holdHandle_users s1 ctx i o.id

/-! ### The operation as it is judged -/

section
variable (s : State) (o : EngineOp)

theorem judged_only : ∃ l, judged s o = { o with list := l } := by
  unfold judged
  split
  · exact ⟨_, rfl⟩
  · exact ⟨o.list, rfl⟩

@[simp] theorem judged_id : (judged s o).id = o.id := by obtain ⟨l, h⟩ := judged_only s o; rw [h]
@[simp] theorem judged_kind : (judged s o).kind = o.kind := by obtain ⟨l, h⟩ := judged_only s o; rw [h]
@[simp] theorem judged_status : (judged s o).status = o.status := by obtain ⟨l, h⟩ := judged_only s o; rw [h]
@[simp] theorem judged_src : (judged s o).src = o.src := by obtain ⟨l, h⟩ := judged_only s o; rw [h]
@[simp] theorem srcLoc_judged : s.srcLoc (judged s o) = s.srcLoc o := by obtain ⟨l, h⟩ := judged_only s o; rw [h]; rfl
@[simp] theorem dstLoc_judged : s.dstLoc (judged s o) = s.dstLoc o := by obtain ⟨l, h⟩ := judged_only s o; rw [h]; rfl
end

/-! ### ENGINE_ACCEPT, case by case -/

/-- An operation other than a merge whose TYPE byte is still to be read. -/
theorem typeRead {o : EngineOp} (h : o.kind ≠ .skmerge ∨ o.typ ≠ 0) : ¬(o.kind = .skmerge ∧ o.typ = 0) :=
  fun ⟨hk, ht⟩ => h.elim (fun n => n hk) (fun n => n ht)

/-- At its engine an operation is turned away with its status, or its regions are held and it begins (R35, R115). -/
theorem execEngineAccept_atEngine {n : Nat} {o : EngineOp} {s : State} (h : atEngine n o s) :
    execEngineAccept n s = if s.acceptStatus (judged s o) ≠ 0 then .next (s.accept (judged s o) (s.acceptStatus (judged s o)))
      else .next (((s.holdAll (judged s o)).begin (judged s o)).getD s) := by
  obtain ⟨hf, hs, ht, hm⟩ := h
  have typed := typeRead hm
  have notRead : ¬(o.stage = .remoteRead ∧ s.fetched o = true) := by simp [hs]
  have turn : ¬(o.stage ≠ .left ∨ feedbackTurn s o = false) := by simp [hs, ht]
  simp only [execEngineAccept, hf, notRead, turn, typed, if_false]
  rfl

/-- A source that lies on this chip is accepted at once. -/
theorem begin_near {s : State} {o : EngineOp} (h : nearSource s o) : s.begin o = some (s.accept o 0) := by
  unfold State.begin
  rcases h with hk | hl
  · rw [if_pos hk]
  · split
    · next pos hp =>
      split at hp
      · cases hp
      · exact absurd hp (hl pos).1
    · next pos i hp =>
      split at hp
      · cases hp
      · exact absurd hp ((hl pos).2 i)
    · rfl

/-- A source of another chip is asked for, along the path that stands open (R154). -/
theorem begin_away {s : State} {o : EngineOp} {pos via : Nat} (hk : o.kind ≠ .mst) (hl : s.srcLoc o = .away pos)
    (hv : s.bulkPath pos o.src.direct = some via) : s.begin o = some (s.requestRead o pos via) := by
  simp only [State.begin, hk, if_false, hl, hv, Option.map_some]

/-- The TYPE byte of a merge whose source lies in a scratchpad of this chip is read at once (R437, R78). -/
theorem beginMerge_spad {s : State} {o : EngineOp} {b : Nat} (hl : s.srcLoc o = .spad b)
    (hx : s.extent o o.src (.spad b) o.src.off (o.src.off + 64) false = 0) :
    s.beginMerge o = some (s.setOp { o with
      typ := 1 + (readByte (s.block b).spad o.src.off).toNat,
      status := Nat.lor o.status (if poisoned (s.block b).spadBad o.src.off 1 then 0x008 else 0) }) := by
  simp only [State.beginMerge, hl, hx, ne_eq, not_true_eq_false, if_false]
  rfl

/-- A merge's TYPE byte is read before its acceptance (R437). -/
theorem execEngineAccept_merge {n : Nat} {o : EngineOp} {s : State} (hf : s.findOp n = some o) (hs : o.stage = .left)
    (hk : o.kind = .skmerge) (ht : o.typ = 0) : execEngineAccept n s = .next ((s.beginMerge o).getD s) := by
  have turn : feedbackTurn s o = true := by simp [feedbackTurn, EngineOp.coded, hk]
  simp [execEngineAccept, hf, hs, hk, ht, turn]

/-- An operation whose source has come from another chip is accepted (R154, R420). -/
theorem execEngineAccept_fetched {n : Nat} {o : EngineOp} {s : State} (hf : s.findOp n = some o) (hs : o.stage = .remoteRead)
    (hr : s.fetched o = true) (hst : Nat.land o.status 0x386 = 0) (hk : o.kind ≠ .skmerge ∨ o.typ ≠ 0) :
    execEngineAccept n s = .next (s.setOp { o with stage := .accepted }) := by
  have typed := typeRead hk
  have clean : rejects o.status = false := decide_eq_false (fun h => h hst)
  have read : o.stage = .remoteRead ∧ s.fetched o = true := ⟨hs, hr⟩
  simp only [execEngineAccept, hf, read, and_self, if_true, State.afterFetch, clean, Bool.false_eq_true, if_false, typed]

/-! ### What acceptance leaves -/

/-- An operation that is set changes neither groups, blocks, handles nor memory. -/
theorem setOp_keeps (s : State) (o : EngineOp) :
    (s.setOp o).handles = s.handles ∧ (s.setOp o).groups = s.groups ∧ (s.setOp o).blocks = s.blocks ∧ keepsMemory s (s.setOp o) :=
  ⟨rfl, rfl, rfl, fun _ => rfl, rfl⟩

theorem findOp_accept {s : State} {n : Nat} {o p : EngineOp} (h : s.findOp n = some o) (hp : p.id = n) (st : DWord) :
    (s.accept p st).findOp n = some { p with
      stage := .accepted, status := Nat.lor p.status st.toNat, dead := decide (Nat.land (Nat.lor p.status st.toNat) 0x386 ≠ 0) } :=
  findOp_setOp h hp

/-- With no status of its own, acceptance keeps the operation's. -/
theorem accept_zero (s : State) (o : EngineOp) :
    s.accept o 0 = s.setOp { o with stage := .accepted, dead := decide (Nat.land o.status 0x386 ≠ 0) } := by
  have kept : Nat.lor o.status (0 : DWord).toNat = o.status := Nat.or_zero o.status
  simp only [State.accept, kept, rejects]

/-- A read request takes the next operation number, and its message goes out with the base and the wish of the record (R154, R449). -/
theorem requestRead_sends {s : State} {o p : EngineOp} {n pos via : Nat} (hf : s.findOp n = some o) (hp : p.id = n)
    (hx : s.fab.fenced.contains pos = false) : let t := s.requestRead p pos via
    (∃ q, t.findOp n = some q ∧ q.stage = .remoteRead ∧ q.opnum = s.fab.nextOp ∧ q.awaited = [pos]) ∧
    (∃ m r, t.fab.bulkOut = s.fab.bulkOut ++ [m] ∧ m.dst = pos ∧ m.via = via ∧ m.msg = .readReq r ∧
      r.opnum = s.fab.nextOp ∧ r.base = p.src.base ∧ r.direct = p.src.direct) ∧
    t.fab.nextOp = (s.fab.nextOp + 1) % 2 ^ 32 ∧ t.groups = s.groups ∧ keepsMemory s t := by
  have base : p.wanted.base = p.src.base := by unfold EngineOp.wanted; split <;> rfl
  simp only [State.requestRead, State.takeOpnum, State.sendBulk, hx, Bool.false_eq_true, if_false]
  exact ⟨⟨_, findOp_setOp (by exact hf) hp, rfl, rfl, rfl⟩, ⟨_, _, rfl, rfl, rfl, rfl, rfl, base, rfl⟩, rfl, rfl, fun _ => rfl, rfl⟩

/-! ### The obligation's clauses -/

section
variable {n : Nat} {o : EngineOp} {s : State} (h : atEngine n o s)
include h

theorem id_judged : (judged s o).id = n := (judged_id s o).trans (findOp_id h.1)

/-- An operation turned away. -/
theorem engineAccept_refuses (hst : s.acceptStatus (judged s o) ≠ 0) :
    execEngineAccept n s = .next (s.accept (judged s o) (s.acceptStatus (judged s o))) := by
  rw [execEngineAccept_atEngine h, if_pos hst]

/-- An operation that begins with its regions held. -/
theorem engineAccept_begins {t : State} (hst : s.acceptStatus (judged s o) = 0)
    (ht : (s.holdAll (judged s o)).begin (judged s o) = some t) : execEngineAccept n s = .next t := by
  rw [execEngineAccept_atEngine h, if_neg (fun h => h hst), ht]
  rfl
end

/-- Settles O33, case by case of ENGINE_ACCEPT. -/
theorem engineAcceptance : Obligations.EngineAcceptance := by
  refine ⟨fun n o s h hst => ?_, fun n o s h hst hn => ?_, fun n pos via o s h hst hk hh hl hv hx => ?_,
    fun n b o s hf hs hk ht hl hx => ?_, fun n o s hf hs hr hst hk => ?_⟩
  · refine ⟨_, engineAccept_refuses h hst, ?_, setOp_keeps s _⟩
    rw [findOp_accept h.1 (id_judged h), judged_status]
  · have held := holdAll_only s (judged s o)
    have near : nearSource (s.holdAll (judged s o)) (judged s o) := by
      simp only [nearSource, judged_kind, held.srcLoc, srcLoc_judged]
      exact hn
    refine ⟨_, engineAccept_begins h hst (begin_near near), ?_, fun ctx i hk hd => ?_, held.keeps⟩
    · rw [accept_zero, ← judged_status s o]
      exact findOp_setOp ((held.findOp n).trans h.1) (id_judged h)
    · have users := holdAll_users s (judged s o) (by rwa [judged_kind]) ((dstLoc_judged s o).trans hd)
      rwa [judged_id] at users
  · have held := holdAll_only s (judged s o)
    have away := begin_away (s := s.holdAll (judged s o)) (o := judged s o) (pos := pos) (via := via) (by rwa [judged_kind])
      (by rw [held.srcLoc, srcLoc_judged]; exact hl) (by rw [held.bulkPath, judged_src]; exact hv)
    have sends := requestRead_sends (via := via) ((held.findOp n).trans h.1) (id_judged h) (by rw [held.fab]; exact hx)
    rw [held.fab, judged_src] at sends
    obtain ⟨op, out, num, groups, mem⟩ := sends
    obtain ⟨hg, -, hm⟩ := held.keeps
    exact ⟨_, engineAccept_begins h hst away, op, out, num, groups.trans hg, fun a => (mem.1 a).trans (hm.1 a), mem.2.trans hm.2⟩
  · refine ⟨_, ?_, findOp_setOp hf (findOp_id hf :), (setOp_keeps s _).2⟩
    show execEngineAccept n s = _
    rw [execEngineAccept_merge hf hs hk ht, beginMerge_spad hl hx]
    rfl
  · exact ⟨_, execEngineAccept_fetched hf hs hr hst hk, findOp_setOp hf (findOp_id hf :), (setOp_keeps s _).2⟩

end Sys2Proof.Proofs
end

section
/-! Why the report of AccessLimitsTrap is not the lanes beyond PSIZE alone: an LDP inside PSIZE whose local virtual address is not canonical
raises the same condition (R10, R20, R41), and its lane stands in LANES too. -/

namespace Sys2Proof.Proofs.PsizeLimit

open Sys2Proof.Machine Sys2Proof.Claim

/-- A lane that RUNs at offset 0. -/
def runningLane : Lane := { Lane.empty with st := .run }

/-- Two lanes with offsets in v1: 16 in lane 0, and 0 in lane 1. -/
def twoLanes : Group :=
  { Group.empty with resident := true, lanes := [(0, runningLane), (1, runningLane)] }.setVreg 1 0 16

/-- Their group issues both lanes, in a context with a trap handler. The grid has PSIZE 16, and its PRIVBASE is 2⁵⁶, where addresses
are not canonical any more. -/
def highArea : State :=
  { State.reset with
    groups := [(0, twoLanes)], blocks := [(0, { Block.empty with resident := true, groups := [0], started := true, fresh := false })],
    ctxs := [(0, { CtxDesc.empty with state := 1, traph := 4096 })],
    grids := [(0, { GridPrep.empty with privBase := 2 ^ 56, psize := 16 })],
    iss := { State.reset.iss with sel := [0, 1] } }

/-- LDP of 4 bytes at v1. -/
def word : Instr := .ldp (.reg 2) (.reg 1) 2 0

def form : MemForm := loadForm (plainWord .priv 2 0x50) (.reg 2) (.reg 1) 0

theorem actLanes_highArea : actLanes highArea = [0, 1] := by decide

theorem at_lane0 : form.at highArea 0 = 16 := by decide

theorem at_lane1 : form.at highArea 1 = 0 := by decide

theorem crooked_iff (a : Nat) : crooked form.use a ↔ a % 4 ≠ 0 :=
  ⟨fun h => h.1, fun h => ⟨h, .inr ⟨by decide, by decide⟩⟩⟩

theorem beyond_iff (a : Nat) : beyond form.use highArea a ↔ 16 < a + 4 := Iff.rfl

theorem lane_of_two {l : Nat} (h : l ∈ [0, 1]) : l = 0 ∨ l = 1 :=
  (List.mem_cons.1 h).imp id List.mem_singleton.1

/-- Both addresses are aligned. -/
theorem none_crooked (l : Nat) : l ∈ [] ↔ l ∈ actLanes highArea ∧ crooked form.use (form.at highArea l) := by
  rw [actLanes_highArea, crooked_iff]
  refine ⟨fun h => (List.not_mem_nil h).elim, fun ⟨hl, hc⟩ => ?_⟩
  rcases lane_of_two hl with rfl | rfl
  · rw [at_lane0] at hc; omega
  · rw [at_lane1] at hc; omega

/-- Only lane 0 passes PSIZE. -/
theorem lane0_beyond (l : Nat) : l ∈ [0] ↔ l ∈ actLanes highArea ∧ beyond form.use highArea (form.at highArea l) := by
  rw [actLanes_highArea, beyond_iff]
  constructor
  · intro h
    rw [List.mem_singleton.1 h, at_lane0]
    exact ⟨by decide, by decide⟩
  · rintro ⟨hl, hb⟩
    rcases lane_of_two hl with rfl | rfl
    · exact List.mem_singleton.2 rfl
    · rw [at_lane1] at hb; omega

/-- LANES of the record that a step leaves in group 0. -/
def reported : Out → Option DWord
  | .next t => some ((t.group 0).trecWord 1)
  | _ => none

/-- The record names both lanes: lane 1's access is inside PSIZE, yet its local virtual address raises PROTECTION too (R20). -/
theorem reported_word : reported (exec word highArea) = some (maskOf [0, 1]) := by decide +kernel

end Sys2Proof.Proofs.PsizeLimit

namespace Sys2Proof.Proofs

open Sys2Proof.Machine Sys2Proof.Claim

open PsizeLimit in
/-- Refutes O58: of two accesses of an LDP the one beyond PSIZE traps PROTECTION, and so does the one inside it whose local virtual address
is not canonical; the record's LANES then holds both lanes and not the one beyond PSIZE alone. -/
theorem not_accessLimitsTrap : ¬ Obligations.AccessLimitsTrap := by
  intro h
  have lanes : lanesOk highArea := ⟨by decide, by decide⟩
  have trap : canTrap highArea := by unfold canTrap; decide
  obtain ⟨-, limit, -⟩ := h word form [] [0] highArea rfl lanes (by decide) trap none_crooked (List.nil_sublist _) lane0_beyond
    (by rw [actLanes_highArea]; decide)
  obtain ⟨t, ht, -, -, named, -⟩ := limit rfl (List.cons_ne_nil _ _) (by decide)
  have both := reported_word
  rw [ht] at both
  have : maskOf [0] = maskOf [0, 1] := named.symm.trans (Option.some.inj both)
  exact absurd this (by decide)

end Sys2Proof.Proofs
end

section
/-! Which word, pair, sequence or event a step runs (R84, R173, R174, R314, R360). -/

namespace Sys2Proof.Proofs

open Sys2Proof.Machine Sys2Proof.Claim

/-! ### The word at the issued PC -/

/-- A word that decodes is executed with its own bits in the issue record. -/
theorem execWord_decoded {w : Word} {i : Instr} (s : State) (h : decodeWord w.toNat = .ok i) : execWord w s = exec i (fetched s w) := by
  unfold execWord
  rw [h]
  rfl

/-- A pair whose first word is PFX executes its second with that PFX latched (R312, R314). -/
theorem execPair_decoded {w v : Word} {p : Pfx} {i : Instr} (s : State) (hs : s.iss.pfx = none)
    (hw : decodeWord w.toNat = .ok (.pfx p)) (hv : decodeWord v.toNat = .ok i) : execPair w v s = exec i (latched s p w v) := by
  have first : execWord w s = .next { s with iss := { s.iss with word := w, pfx := some p, pfxWord := w } } := by
    rw [execWord_decoded s hw]
    show execPfx p (fetched s w) = _
    rw [execPfx, if_neg (by simp [fetched, hs])]
    rfl
  unfold execPair
  rw [first]
  exact execWord_decoded _ hv

theorem execAt_plain {b : State} {w : Word} {i : Instr} (hb : plainAt b w) (hi : decodeWord w.toNat = .ok i) :
    execAt b = exec i (fetched b w) := by
  obtain ⟨hf, hp, hn⟩ := hb
  simp only [execAt, hf, onFetch, hp, hn, Bool.false_eq_true, if_false]
  exact execWord_decoded b hi

theorem execAt_pair {b : State} {w v : Word} {p : Pfx} {i : Instr} (hb : pairAt b w v) (hs : b.iss.pfx = none)
    (hw : decodeWord w.toNat = .ok (.pfx p)) (hv : decodeWord v.toNat = .ok i) : execAt b = exec i (latched b p w v) := by
  obtain ⟨hf, hp, hg⟩ := hb
  simp only [execAt, hf, onFetch, hp, hg, if_true]
  exact execPair_decoded b hs hw hv

theorem execAt_fused {b : State} {w : Word} {f : Fused} (hf : fetchWord b b.iss.group b.iss.pc = .word w) (hp : isPfxWord w = false)
    (hy : fusedHere w b = .yes f) :
    execAt b = exec (.fusedSoftmax f.d1 f.a1 f.b1 f.d2 f.a2 f.d3 f.d4 f.a4 f.b4) (fetched b w) := by
  simp only [execAt, hf, onFetch, hp, hy, Bool.false_eq_true, if_false]
  rfl

theorem execAt_walk {b : State} {w : Word} {va : Nat} (hf : fetchWord b b.iss.group b.iss.pc = .word w) (hp : isPfxWord w = false)
    (hy : fusedHere w b = .walk va) : execAt b = onFetch (.walk va) (fun _ => .next b) b := by
  simp only [execAt, hf, onFetch, hp, hy, Bool.false_eq_true, if_false]

/-! ### The two ports -/

/-- The primary port runs what stands at the chosen PC, and the lanes that ran age (R173). -/
theorem issueGroup_primary {k p1 : Nat} {sel : List Nat} {p2 : Option Nat} {a : State} (h2 : (a.group k).port2 = none)
    (hm : a.mayIssue k = true) (hv : a.vote k = some (p1, sel, p2)) :
    issueGroup k a = aged k ((a.group k).lanesIn .run) (execAt (a.primary k p1 sel p2)) := by
  simp only [issueGroup, h2, hm, if_true, issuePrimary, hv]
  cases execAt (a.primary k p1 sel p2) <;> rfl

/-- The second port runs what stands at its PC, and the ages of its lanes become 0 (R174). -/
theorem issueGroup_second {k : Nat} {p : Word} {ls : List Nat} {a t : State} (h2 : (a.group k).port2 = some (p, ls))
    (hs : (a.group k).sync = none) (hg : (a.group k).stopped = false)
    (ht : execAt ((a.setGroup k { a.group k with port2 := none }).startIssue k p ls true) = .next t) (hi : t.iss.issued = true) :
    issueGroup k a = .next (t.setGroup k ((t.group k).mapLanes (fun _ x => { x with age := 0 }) t.iss.sel)) := by
  have runs : ¬((a.group k).sync.isSome = true ∨ (a.group k).stopped = true) := by simp [hs, hg]
  dsimp only at ht
  simp only [issueGroup, h2, issueSecond, runs, if_false, ht, hi, if_true]

/-! ### The head of the agenda -/

theorem step_item {x : Item} {rest : List Item} {s : State} (h : s.agenda = x :: rest) :
    step s = timed (runItem x { s with agenda := rest }) := by
  unfold step
  rw [h]

theorem step_event {e : Instr} {rest : List Item} {s : State} (h : s.agenda = .event e :: rest) (he : e.isEvent = true) :
    step s = timed (exec e { s with agenda := rest }) := by
  rw [step_item h, runItem, if_pos he]

/-- Settles O53: the agenda's head leads to a port or an event, and the port to the word, pair or sequence at its PC. -/
theorem stepRunsDecoded : Obligations.StepRunsDecoded := by
  refine ⟨fun k p1 sel p2 rest s a b hag ha h2 hm hv hb => ?_,
    fun k p w ls i rest s a b t hag ha h2 hs hg hb hw hi ht hd => ?_, fun e rest s hag he => step_event hag he⟩
  · have run : step s = timed (aged k ((a.group k).lanesIn .run) (execAt b)) := by
      rw [step_item hag, ← ha, runItem, issueGroup_primary h2 hm hv, hb]
    have group : b.iss.group = k := by rw [hb]; rfl
    have fresh : b.iss.pfx = none := by rw [hb]; rfl
    refine ⟨fun w i hw hi => ?_, fun w v p i hp hw hi => ?_, fun w f hf hp hy => ?_, fun w va hf hp hy => ?_⟩
    · rw [run, execAt_plain hw hi]
    · rw [run, execAt_pair hp fresh hw hi]
    · rw [run, execAt_fused (by rw [group]; exact hf) hp hy]
    · rw [run, execAt_walk (by rw [group]; exact hf) hp hy]
  · have second := execAt_plain hw hi
    rw [ht, hb] at second
    rw [step_item hag, ← ha, runItem, issueGroup_second h2 hs hg second hd]

end Sys2Proof.Proofs
end

section
/-! Why an insert that BankApplications lets pass need not be applied: the bank judges the poison of the whole object (R297, R300), and the
statement excludes poison from the bytes of the entry alone, without saying that these are the object's. -/

namespace Sys2Proof.Proofs

open Sys2Proof.Machine Sys2Proof.Claim

/-- The codes of the asynchronous traps that a step leaves pending before group `k` (R241). -/
def pendingCodes (k : Nat) : Out → List Nat
  | .next t => (t.group k).async.map TrapInfo.code
  | _ => []

@[simp] theorem pendingCodes_next (k : Nat) (t : State) : pendingCodes k (.next t) = (t.group k).async.map TrapInfo.code := rfl

end Sys2Proof.Proofs

namespace Sys2Proof.Proofs.InsertExtent

open Sys2Proof.Machine Sys2Proof.Claim

/-- An AMX object of 64 bytes at 0x300, the second of its two sectors poisoned. -/
def halfPoisoned : Block :=
  { Block.empty with resident := true, started := true, groups := [0], spad := writeBytes [] 0x300 (initialImage .amx 0), spadBad := [25] }

/-- A group with one lane that RUNs. -/
def runningGroup : Group := { Group.empty with resident := true, lanes := [(0, { Lane.empty with st := .run })] }

/-- An insert of 1.0 into that object whose entry covers 4 bytes, in the clean sector. -/
def shortInsert : Entry :=
  { baseEntry State.reset 0 with
    lane := some 0, op := .insert .amx [0x3F800000], target := .bank 0 0x300, addr := 0x300, size := 4, data2 := 1, stage := .bank }

def atObject : State := { State.reset with groups := [(0, runningGroup)], blocks := [(0, halfPoisoned)], entries := [shortInsert] }

/-- No poison lies in the 4 bytes of the entry. -/
theorem atBank_shortInsert : atBank 0 shortInsert 0 0 0x300 atObject := by unfold atBank; decide

theorem wellFormed_object : wellFormed .amx (readBytes (atObject.block 0).spad 0x300 SkKind.amx.size) = true := by decide +kernel

theorem skInsert_object : (skInsert .amx (readBytes (atObject.block 0).spad 0x300 SkKind.amx.size) [0x3F800000]).isSome = true := rfl

/-- The insert is not applied: POISON becomes pending for its group (R300, R241). -/
theorem summaryApply_poison : pendingCodes 0 (exec (.summaryApply 0) atObject) = [tPoison] := by decide +kernel

end Sys2Proof.Proofs.InsertExtent

namespace Sys2Proof.Proofs

open Sys2Proof.Machine Sys2Proof.Claim

open InsertExtent in
/-- Refutes O31 in its clause on inserts, which does not tie the size of the entry to that of the object: poison in the object beyond the entry's
bytes has the insert end with a POISON trap of its group, where the clause has it applied and every group unchanged. -/
theorem not_bankApplications : ¬ Obligations.BankApplications := by
  intro h
  obtain ⟨-, -, -, -, -, -, -, -, -, insert, -⟩ := h
  obtain ⟨obj, applied⟩ := Option.isSome_iff_exists.1 skInsert_object
  obtain ⟨t, ht, -, -, -, -, groups⟩ := insert 0 0 0 0x300 shortInsert .amx [0x3F800000] obj atObject atBank_shortInsert rfl
    wellFormed_object applied
  have trapped := summaryApply_poison
  have untouched : t.group 0 = runningGroup := congrArg (fun gs => getKey Group.empty gs 0) groups
  rw [ht, pendingCodes_next, untouched] at trapped
  exact absurd trapped (by decide)

end Sys2Proof.Proofs
end

section
/-! Why a reply that ends a request need not leave a trap, as RepliesComplete has it: what comes of a summary read that a trap has ended tells nobody
(R438), and such a read's result is gone (R240), so that the statement's condition on results does not exclude it. -/

namespace Sys2Proof.Proofs.EndedRead

open Sys2Proof.Machine Sys2Proof.Claim

/-- SKARD's message for the first bytes of an AMX object in the gang window of the chip at position 1 (R438), not answered yet. -/
def objectRead : Entry :=
  { baseEntry State.reset 0 with
    op := .load, target := .remote 1 true 0x300, addr := 0x300, size := 16, res := some 5, scope := 4, dscope := 4, wcode := 4, opc := 0xC8,
    data2 := 8, stage := .flow }

/-- The group of that word: it holds the result that the bytes are for, and an earlier store of it has timed out (R138). -/
def readingGroup : Group :=
  { Group.empty with
    resident := true, lanes := [(0, { Lane.empty with st := .run })], results := [{ id := 5, dst := .held, width := 64, left := 1, value := 0 }],
    async := [{ objectRead with op := .store }.trapInfo tFabricTimeout true 0] }

def reading : State :=
  { State.reset with
    groups := [(0, readingGroup)], blocks := [(0, { Block.empty with resident := true, groups := [0], started := true, fresh := false })],
    cores := [(0, { Core.empty with slots := [(0, { ReqSlot.empty with inUse := true })] })],
    ctxs := [(0, { CtxDesc.empty with state := 1, traph := 4096 })], entries := [objectRead] }

/-- The store's trap is delivered while the word still waits: its handler runs, and the word's result is given up (R240, R241). -/
def handling : State := reading.boundaryTrap 0

/-- POISON_REPLY of the chip at position 1 (R460). -/
def poisonMsg : LsMsg :=
  { flow := 4, op := 0xF9, src := 1, dst := 0, width := 4, scope := 4, order := 0, cgen := 0, ctx := 0, tag := 0, seq := 0, addr := 0,
    data := 0, data2 := 0 }

theorem handler_entered : (handling.group 0).handler = .trap ∧ (handling.group 0).results = [] := by decide +kernel

theorem inTurn_poisonMsg : inTurn poisonMsg [4] handling := by unfold inTurn; decide +kernel

theorem answers_poisonMsg : answers poisonMsg objectRead 0 handling := by
  refine ⟨inTurn_poisonMsg, by decide +kernel, rfl, fun _ _ => EntOp.noConfusion, ?_, ?_, rfl⟩
  · rw [Entry.summaryRead, handler_entered.2, List.any_nil]
  · rw [Entry.lostRead, handler_entered.2, List.any_nil]

/-- The reply leaves no trap. -/
theorem poisonReply_silent : pendingCodes 0 (exec (.poisonReply poisonMsg) handling) = [] := by decide +kernel

end Sys2Proof.Proofs.EndedRead

namespace Sys2Proof.Proofs

open Sys2Proof.Machine Sys2Proof.Claim

open EndedRead in
/-- Refutes O39 in its clause on the replies that end an entry with a trap: one of them that answers a summary read which a trap has ended already
ends the entry without any (R438). -/
theorem not_repliesComplete : ¬ Obligations.RepliesComplete := by
  intro h
  obtain ⟨-, -, -, ending, -⟩ := h
  obtain ⟨-, -, poison⟩ := ending poisonMsg objectRead 0 handling answers_poisonMsg
  obtain ⟨t, ht, ⟨-, ⟨x, pending, -⟩, -⟩, -⟩ := poison rfl
  have silent := poisonReply_silent
  rw [ht, pendingCodes_next, List.map_eq_nil_iff] at silent
  exact absurd pending (silent ▸ List.not_mem_nil)

end Sys2Proof.Proofs
end
